-- ==== Sys2Proof/Word.lean ====
section
/-!
DEFINITION. The words of the device: bytes, 32-bit registers, 64-bit data words, 72-bit step words (R72), and the
saturating sum that counters and budgets use (R466, R470).
-/
namespace Sys2Proof

/-- One byte of DRAM, host memory or a container. -/
abbrev Byte := BitVec 8

/-- One BAR0 register (R463). -/
abbrev Reg := BitVec 32

/-- A band word, a bank word, a message word, a payload word. -/
abbrev Word := BitVec 64

/-- A step word as instruction memory stores it, parity included (R72). -/
abbrev StepWord := BitVec 72

/-- The 48-bit cycle number is a natural number below this bound (R7). -/
def cycleLimit : Nat := 2 ^ 48

/-- `a + b`, held at `top`. -/
def satAdd (top a b : Nat) : Nat := min top (a + b)

end Sys2Proof
end

