-- ==== Sys2Proof/Syntax.lean ====
section
/-!
DEFINITION. The commands of the device: one constructor per row of spec/opcode_table.json, with the row's operands.
Operands name the place (physical tile `p` = 17 x die + position, die `d`, queue `q`, bank `b`, channel `ch`, port `n`),
the value written, and what nature decides in an event (an upset, a measured value, which of several waiting things
moves): assumption 2.
-/
namespace Sys2Proof

/-- A stored bit of a tile that flipped before the step began (R413): a step word, or a table entry. -/
inductive Upset where
  | word (bp bit : Nat)
  | ftab (band entry bit : Nat)
  | rtab (bp entry bit : Nat)
  | ptab (band entry bit : Nat)
  deriving DecidableEq, Repr

/-- What is wrong with a DRAM line as it is read (R217): the device positions with wrong bits, whether one of them has more
than one, and how many bits the transfer got wrong. -/
structure DramErr where
  devs : List Nat
  multi : Bool
  link : Nat
  deriving DecidableEq, Repr

/-- A line read without error. -/
def DramErr.none : DramErr := { devs := [], multi := false, link := 0 }

/-- What is wrong with one of the lines that a command reads. -/
structure LineErr where
  line : Nat
  err : DramErr
  deriving DecidableEq, Repr

/-- A stored bit of a bank word that flipped before the command began (R190, R200); bit 64 is the parity bit. -/
structure BankUpset where
  bank : Nat
  word : Nat
  bit : Nat
  deriving DecidableEq, Repr

/-- A bit flip in one copy of a bank's map of spare regions (R205, R433). -/
structure MapUpset where
  bank : Nat
  copy : Nat
  flip : BitVec 52
  deriving DecidableEq, Repr

/-- A word of bank space at which an engine's read met a write of the other port in one bank clock, and the new data where
a running engine takes it from the host (R199). -/
structure ReadMeet where
  word : Nat
  new : BitVec 64
  deriving DecidableEq, Repr

/-- A codeword that a receive lane decoded with this many of its 544 symbols wrong (R273), after `clean` codewords without one. -/
structure FecErr where
  lane : Nat
  wrong : Nat
  clean : Nat := 0
  deriving DecidableEq, Repr

/-- A comma that a receive lane expected, and whether it came (R281). -/
structure CommaDue where
  lane : Nat
  seen : Bool
  deriving DecidableEq, Repr

/-- What arrives on a port with one packet at most: the blocks, as the receiver has them after decoding, descrambling and
bringing the lanes together, and since the last packet the codewords with wrong symbols and the commas expected (R271 to R273,
R281, R284, R285). -/
structure LinkPkt where
  blocks : List (BitVec 66)
  errs : List FecErr
  commas : List CommaDue := []
  deriving DecidableEq, Repr

/-- The comma a receive lane found: the 66-bit block, and whether it arrived complemented (R274, R278). -/
structure CommaSeen where
  block : BitVec 66
  inverted : Bool
  deriving DecidableEq, Repr

/-- A signal of the rim's fabric (R240 to R255): cell c is the 98,304 cells' c-th in region, column, row and cell order,
cluster k likewise; `mux4`, `mux16` and `mux32` are the stages of the wide multiplexers; `line` is one of the 1,024 lines
of a region into the next one up or down the ring. -/
inductive RimSrc where
  | low
  | table (c : Nat)
  | flop (c : Nat)
  | carry (c : Nat)
  | mux4 (c : Nat)
  | mux16 (cluster group : Nat)
  | mux32 (cluster half : Nat)
  | wire (w : Nat)
  | line (region : Nat) (up : Bool) (idx : Nat)
  | pinR (p : Nat)
  | pinF (p : Nat)
  | iqFull (q : Nat)
  | oqValid (q : Nat)
  | oqData (q bit : Nat)
  | oqCyc (q bit : Nat)
  | paceTick
  deriving DecidableEq, Repr

/-- Where a select field stands, as RIM_DEC_LOC names it (R265). -/
structure RimPlace where
  region : Nat
  col : Nat
  row : Nat
  cell : Nat
  field : Nat
  deriving DecidableEq, Repr

/-- One multiplexer of the rim: its sources in the order of their codes, and the code that the configuration selects. -/
structure RimMux where
  place : RimPlace
  src : List RimSrc
  code : Nat
  deriving DecidableEq, Repr

/-- One cell (R241, R243): its table, the initial value and D input of its flip-flop (`wide` 16 or 32: the multiplexer that
ends at it), whether it is a carry cell, and its inputs I0 to I5. -/
structure RimCell where
  at_ : Nat
  table : BitVec 64
  init : Bool
  bypass : Bool
  carry : Bool
  wide : Nat
  ins : List RimMux
  deriving DecidableEq, Repr

/-- One cluster (R242, R243): the RIMCLK of its flip-flops, their enable and reset, and the selects of its combiners: two for
each group of four cells, then one for each half. -/
structure RimCluster where
  at_ : Nat
  clk : Nat
  enable : RimMux
  reset : RimMux
  sel : List RimMux
  deriving DecidableEq, Repr

/-- The fabric side of one I/O cell, and the initial values of its output registers (R255, R260). -/
structure RimPin where
  at_ : Nat
  outR : RimMux
  outF : RimMux
  oe : RimMux
  out0 : Bool
  oe0 : Bool
  deriving DecidableEq, Repr

/-- One inter-region line: the region that it leaves, its direction and number, and what drives it (R240). -/
structure RimLine where
  region : Nat
  up : Bool
  idx : Nat
  mux : RimMux
  deriving DecidableEq, Repr

/-- The fabric side of an array queue (R244): 0 to 63 input, with IQ_DATA [63:0] and IQ_PUSH, 64 to 127 output, with OQ_POP. -/
structure RimPort where
  at_ : Nat
  muxes : List RimMux
  deriving DecidableEq, Repr

/-- What the frames of a rim configuration select (R240 to R255): the spec gives no bit of a cluster frame its place, nor any
multiplexer its sources (assumption 109).  `groups` holds the RIMCLK of each group of eight pins; `refs` the reference of each
PLL, 0 for REFCLK; `plls` and `divs` the PLL and the divisor of each RIMCLK. -/
structure RimNet where
  cells : List RimCell
  clusters : List RimCluster
  wires : List RimMux
  lines : List RimLine
  pins : List RimPin
  queues : List RimPort
  groups : List Nat
  refs : List Nat
  plls : List Nat
  divs : List Nat
  deriving DecidableEq, Repr

def RimNet.empty : RimNet :=
  { cells := [], clusters := [], wires := [], lines := [], pins := [], queues := [], groups := [], refs := [], plls := [], divs := [] }

/-- What a partner of a run over several devices finds at its own start: its own figures fail admission for a reason (R25),
or a TYPE 0b10 route entry of its image names a tile that no TILES_USED declares (R86, R181). -/
inductive PeerVerdict where
  | admission (dev reason : Nat)
  | route (dev : Nat)
  deriving DecidableEq, Repr

/-- What the partners of a run over several devices tell of its end: the run stops at a boundary, with its cause and the last
cycle executed (R43), or a fault has stopped it (R44). -/
inductive PeerStop where
  | boundary (cause last : Nat)
  | fault
  deriving DecidableEq, Repr

/-- A bit flip in one copy of a voted field (R433): register offset in BAR0, copy 0 to 2, flipped bits. -/
structure VoteUpset where
  off : Nat
  copy : Nat
  flip : BitVec 32
  deriving DecidableEq, Repr

/-- The commands. -/
inductive Instr where
  /-- R79. A tile begins step s and each BP checks its step word in fault order before waiting for any operand. -/
  | stepIssue (p : Nat) (ups : List Upset)
  /-- R413. After a parity error in a step word or table entry, the hub rewrites the word from the golden copy and the step's checks run again. -/
  | stepWordRefetch (p bp : Nat) (held : Bool)
  /-- R59. The step completes: each BP evaluates its truth table, writes WA and drives the band bus. -/
  | eval (p : Nat) (dsRow : Option (Nat × Nat))
  /-- R74. The step completes: the result is written and sent through the named route entry into the combining window. -/
  | send (p bp : Nat)
  /-- R127. A TMEM READ is applied and checks ownership, and the word is read for return to a mailbox. -/
  | tmemRead (p u : Nat) (up : Option Nat)
  /-- R127. A TMEM ADDR stores the address word in the unit's latch. -/
  | tmemAddr (p u : Nat)
  /-- R127. A TMEM WRITE checks ownership and writes the band word to the latched address if WEN is 1. -/
  | tmemWrite (p u : Nat)
  /-- R127. A TMEM SWAP returns the word at the latched address and then writes the band word there if WEN is 1. -/
  | tmemSwap (p u : Nat) (up : Option Nat)
  /-- R130. A QRD takes a queue place and requests a 64-byte DRAM line. -/
  | qrd (p q : Nat)
  /-- R130. A QWA stores the write address and WEN in the queue's latch. -/
  | qwa (p q : Nat)
  /-- R130. A QWD requests an 8-byte write of the band word to the latched address if WEN is 1. -/
  | qwd (p q : Nat)
  /-- R130. A QPOP takes one pop credit and moves the oldest ready response into eight mailboxes. -/
  | qpop (p q : Nat)
  /-- R137. CMP SETMASK loads MASK from the band word. -/
  | setmask (p : Nat)
  /-- R137. CMP SETVAL loads VALUE from the band word. -/
  | setval (p : Nat)
  /-- R138. CMP MATCH compares the band word and raises a CMP event to Saiga or Markhor on a match. -/
  | matchOp (p : Nat)
  /-- R139. CMP PROBE sends the band word to Markhor as a tagged probe word. -/
  | probe (p : Nat)
  /-- R140. MSG CTL selects a message FIFO and sets ENABLE in the latch. -/
  | msgCtl (p : Nat)
  /-- R140. MSG PUSH appends the band word to the open packet of the selected FIFO. -/
  | msgPush (p : Nat)
  /-- R140. MSG PUSH_EOP appends the band word and ends the packet. -/
  | pushEop (p : Nat)
  /-- R140. MSG EOP ends the open packet if band word bit 0 is 1. -/
  | msgEop (p : Nat)
  /-- R143. CNT INC increments each counter that band word bits [3:0] select. -/
  | cntInc (p : Nat)
  /-- R143. CNT LDSEL stores the counter select in the latch. -/
  | ldsel (p : Nat)
  /-- R143. CNT LOAD writes the band word to the latched counter. -/
  | cntLoad (p : Nat)
  /-- R143. CNT READ returns a counter to a mailbox of every band member. -/
  | cntRead (p : Nat)
  /-- R76. SYS NOP produces result 0 with no evaluation and no write. -/
  | nop (p bp : Nat)
  /-- R134. A WAITQ step completes once the queue holds more ready responses than pop credits, and adds one credit. -/
  | waitq (p bp : Nat)
  /-- R77. SYS END ends the cycle's schedule, and cycle close starts in the next period. -/
  | endStep (p bp : Nat)
  /-- R76. SYS TRACEPT makes Chital record the result when execution trace is enabled. -/
  | tracept (p bp : Nat)
  /-- R76. SYS HALT raises event HALT and stops the run at the boundary after cycle c + 1. -/
  | halt (p bp : Nat)
  /-- R145. Each period the die offers B tokens to waiting tiles in rotating order, and a step completes once it holds its tokens. -/
  | tokenOffer (d : Nat)
  /-- R123. A TMEM, CNT or QPOP return reaches its mailboxes and is judged like a delivery. -/
  | heavyReturn (p i : Nat)
  /-- R216. A QRD response passes from the reorder buffer to the tile's response buffer in request order. -/
  | qrdResponseReady (p q : Nat)
  /-- R132. The hub passes a QWD to the controller's write buffer, which frees its queue place. -/
  | qwdHandoff (p q : Nat)
  /-- R88. Four periods after it opens, a combining window is released as flits. -/
  | combineWindowRelease (p i : Nat)
  /-- R96. A released flit enters the first free ring slot at its stop. -/
  | flitInject (p r : Nat)
  /-- R99. A tile stop takes an arriving flit and writes or holds each record under R34. -/
  | flitDeliver (p i : Nat) (also : Option Nat)
  /-- R97. The bridge stop takes a flit for another die, another device or the output queues into the interface queue. -/
  | bridgeTake (d i : Nat)
  /-- R98. A flit on the main rings reaches its exit stop and crosses into the target die, port group or rim, or circles again. -/
  | mainRingExit (i : Nat) (blocked : Bool)
  /-- R103. An output flit reaches the rim stop and its bits are set in the output queue entries. -/
  | outputFlitArrive (i : Nat)
  /-- R109. The device sends BEGUN(c) to device d once every tile has begun c and every flit of c - 1 for d is queued. -/
  | begunTokenSend (dev : Nat)
  /-- R38. Close step C2 completes once the stop and the heavy units have accepted every SEND and issue of the cycle. -/
  | closeC2 (p : Nat)
  /-- R36. The slip check completes once every tile has begun the cycle and every flit and return of the previous cycle is delivered. -/
  | closeC3 (p : Nat)
  /-- R38. Close step C5 completes once the input record of the next cycle is available. -/
  | closeC5 (p : Nat)
  /-- R38. Close step C8 advances the cycle number once the stop, grant and pace gates allow, and publishes begun. -/
  | closeC8 (p : Nat) (peer : Option PeerStop)
  /-- R43. When the cycle number reaches 0xFFFF_FFFF_FFFF, the run stops with event CYCLE_LIMIT. -/
  | cycleLimitStop
  /-- R39. The hub forms one input record per cycle from the enabled input queues and the trigger flag word, waiting for empty queues. -/
  | inputRecordForm
  /-- R45. A tile that waits longer than STALL_LIMIT periods raises the fault STALL_LIMIT. -/
  | stallLimit (p : Nat)
  /-- R44. A tile that has not reached a boundary 40 us after a fault stops at its current step and the completion sets PARTIAL. -/
  | faultStopTimeout (p : Nat)
  /-- R47. A pace tick from PACE_IN or the timebase divider opens the pace gate and pulses PACE_TICK to the rim. -/
  | paceTick
  /-- R47. A cycle that misses its deadline raises PACE_MISS and either stops the run or counts the miss. -/
  | paceMiss
  /-- R519. A write of ADM_CTL.CHECK runs the admission parts that apply and reports the result in ADM_STAT. -/
  | admCheck (v : Reg) (peer : Option PeerVerdict)
  /-- R148. Every 1 us the governor measures VIN_CORE power and updates PWR_NOW. -/
  | powerMeasure (avg1ms : Nat)
  /-- R149. Every 10 us the governor lowers or raises the effective token budget against the cap. -/
  | budgetAdjust (avg10us : Nat)
  /-- R149. Every 100 us the governor steps STEPCLK of each die down or up by 25 MHz. -/
  | clockAdjust (avg100us avg1ms : Nat)
  /-- R48. After power exceeds the cap for 1 ms in a paced run, the governor lowers STEPCLK and raises POWER_PACE. -/
  | powerPace
  /-- R151. Once the idle PLL is retuned, the die switches to it between two steps, with voltage raised first or lowered after. -/
  | pllSwitch (d : Nat)
  /-- R157. A PWR_CAP write is clamped to 120 to 540 W and takes effect at once. -/
  | pwrCapWrite (v : Reg)
  /-- R153. A TOK_BUD write is clamped, and refused in a paced run if it falls below D. -/
  | tokBudWrite (d : Nat) (v : Reg)
  /-- R153. A CLK_CEIL write is rounded and clamped, and refused in a paced run if it falls below the admitted clock. -/
  | clkCeilWrite (d : Nat) (v : Reg)
  /-- R195. A write to a bank's OWNER is refused, cancels a pending change, or sets PENDING. -/
  | ownerWrite (b : Nat) (v : Reg)
  /-- R196. At the handover point the pending owner takes the bank and OWN_CYC records the cycle. -/
  | ownerHandover (b : Nat)
  /-- R200. The hub finishes rewriting a word from its copy and repeats the waiting read. -/
  | bankParityRepair (b : Nat)
  /-- R201. The copy engine reads a pending region into a save buffer, clears its pending bit, and releases any write waiting on it. -/
  | ckptRegionCopy (d : Nat) (ups : List BankUpset)
  /-- R203. After TT_GAP, Chamois starts the transparent test of the next eligible region on port B. -/
  | ttRegionStart (d : Nat) (ups : List BankUpset)
  /-- R203. Chamois finishes saving, testing, restoring and verifying a region. -/
  | ttRegionDone (d : Nat) (pass : Bool)
  /-- R204. Once the aborted region is restored and verified, the waiting owner access is applied. -/
  | ttAbortDone (d : Nat)
  /-- R212. A controller accepts a request in arrival order and merges writes into the write buffer. -/
  | dramRequestAccept (ch i : Nat)
  /-- R214. The scheduler serves a read or write at the memory devices, reads before writes. -/
  | dramServe (ch i : Nat) (err copy : DramErr)
  /-- R214. At WM.HIGH, or for a write aged 1 us, the controller writes lines back oldest first. -/
  | writeDrain (ch : Nat) (aged : Bool) (errs : List LineErr)
  /-- R214. A request that has waited 1.0 us is served before every younger request on its channel. -/
  | ageLimit (ch i : Nat)
  /-- R221. The controller refreshes each rank every 3.9 us, or 1.95 us when hot. -/
  | dramRefresh (ch rank : Nat)
  /-- R222. All activate tables clear every 32 ms. -/
  | actTableClear
  /-- R223. A channel idle for SR_IDLE us enters self-refresh. -/
  | selfRefreshEntry (ch : Nat)
  /-- R224. A rank idle for PD_IDLE ns enters precharge power-down. -/
  | powerDownEntry (ch rank : Nat)
  /-- R220. The patrol scrubber reads a line and rewrites it if it held a corrected error. -/
  | patrolScrub (ch line : Nat) (err : DramErr)
  /-- R227. Every 100 ms the controller calibrates ZQ on each rank. -/
  | zqCalibration (ch rank : Nat) (temp : Int)
  /-- R227. Every 1 ms the controller tracks DQS drift and corrects per-bit delays. -/
  | dqsTracking (ch : Nat) (atLimit : Bool) (temp : Int)
  /-- R228. A TRAIN_CTL.RETRAIN write starts a full retrain, holding a run if forced, or is refused. -/
  | retrain (v : Reg)
  /-- R229. All channels finish retraining and the hold gate opens. -/
  | retrainDone (temp : Int)
  /-- R215. A WM write outside its limits is refused, and a valid one takes effect at the next drain decision. -/
  | wmWrite (v : Reg)
  /-- R232. A RESV write is clamped, and refused while an admitted state needs the present values. -/
  | resvWrite (v : Reg)
  /-- R248. The rim pushes an entry into an input array queue, or the push is discarded as overflow. -/
  | iqPush (q : Nat) (w : Word)
  /-- R105. The entry of cycle c becomes visible to the rim once every tile has begun c + 1 and its output flits have arrived. -/
  | outQueueEntryVisible (q : Nat)
  /-- R250. OQ_VALID rises on a queue clock edge after the entry crosses to the rim side. -/
  | oqValid (q : Nat)
  /-- R250. The rim pops the visible output entry and frees its place, which may end a SEND wait. -/
  | oqPop (q : Nat)
  /-- R261. A write of RIM_CTL.RUN = 1 requests release from HELD, or is refused. -/
  | rimRun (v : Reg)
  /-- R261. A write of RIM_CTL.RUN = 0 returns the rim to HELD and pins to the safe state. -/
  | rimHold (v : Reg)
  /-- R260. Once every used RIMCLK has locked, the rim enters RUNNING and pins leave the safe state. -/
  | rimRelease
  /-- R246. A rim PLL locks and its RIMCLKs start. -/
  | rimPllLock (k : Nat)
  /-- R261. A write of RIM_CTL.SOFT_RESET holds the running rim in reset. -/
  | softReset (v : Reg)
  /-- R261. After 16 periods of each running RIMCLK the rim returns to RUNNING. -/
  | softResetDone
  /-- R253. A write of AQ_CTL.CLR empties all array queues, or is refused during a run. -/
  | aqClr (v : Reg)
  /-- R257. A DELAY write sets a new target and starts or redirects a walk, or applies at once when not RUNNING. -/
  | delayWrite (pin : Nat) (v : Reg)
  /-- R257. Every 5 ns the delay line moves one tap toward its target. -/
  | delayWalkStep (pin : Nat)
  /-- R256. Every 10 ms the device tracks the delay lines against the timebase. -/
  | delayTrack
  /-- R262. At the named RIMCLK edge, shadow latches copy every flip-flop and I/O register and SNAP_T is recorded. -/
  | rimCapture (frac : BitVec 8)
  /-- R277. Signal energy on the enabled receive lanes moves the port from SIGNAL to CDR. -/
  | signalDetect (n : Nat)
  /-- R277. Clock recovery completes and the port searches for commas. -/
  | cdrLock (n : Nat)
  /-- R278. Three valid commas on each lane fix polarity, lane order and deskew, or end the attempt. -/
  | commaAlign (n : Nat) (seen : List (Option CommaSeen)) (late : BitVec 4)
  /-- R277. Each lane decodes eight codewords cleanly and the port enters HANDSHAKE. -/
  | fecLock (n : Nat) (clean : BitVec 4) (errs : List FecErr)
  /-- R280. One ms after a failed attempt, or 100 ms without reaching UP, bring-up restarts at SIGNAL. -/
  | bringupRetry (n : Nat)
  /-- R282. After a HELLO fails its checks, the device resends its own HELLO every 1 ms. -/
  | helloResend (n : Nat)
  /-- R287. The transmitter starts the next packet by VC priority once credits and resend buffer space allow. -/
  | packetSend (n : Nat) (frac : BitVec 8)
  /-- R284. An EXCH packet arrives with a delivery flit, token or map word and is checked for sequence and CRC. -/
  | exchPacket (n : Nat) (pk : LinkPkt)
  /-- R299. A STREAM packet arrives with samples for the bound Markhor channel. -/
  | stream (n : Nat) (pk : LinkPkt) (frac : BitVec 8)
  /-- R293. A MARKER packet arrives, is stamped, and goes to Markhor. -/
  | marker (n : Nat) (pk : LinkPkt) (frac : BitVec 8)
  /-- R282. A HELLO control message is checked and answered with HELLO_ACK. -/
  | hello (n : Nat) (pk : LinkPkt)
  /-- R282. A HELLO_ACK arrives, and the port is UP once it has also sent one. -/
  | helloAck (n : Nat) (pk : LinkPkt)
  /-- R302. A RUNINFO message is kept as the partner's run identity, tiles and clock ceilings. -/
  | runinfo (n : Nat) (pk : LinkPkt)
  /-- R302. A MAPSYNC message replaces the copy of the partner's tile map. -/
  | mapsync (n : Nat) (pk : LinkPkt)
  /-- R303. A USER packet is placed whole in CTL_RX, and its credits wait for software. -/
  | user (n : Nat) (pk : LinkPkt)
  /-- R302. An ERROR control message from the partner reports a refused operation. -/
  | errorMsg (n : Nat) (pk : LinkPkt)
  /-- R289. An ACK frees every unacknowledged packet up to its SEQ. -/
  | ack (n : Nat) (w : Word)
  /-- R289. A NAK(s) makes the transmitter resend from s, go-back-N. -/
  | nak (n : Nat) (w : Word)
  /-- R288. The receiver sends an ACK within 0.5 us of accepting a packet. -/
  | ackSend (n : Nat)
  /-- R286. A CREDIT block updates the cumulative units freed per VC. -/
  | credit (n : Nat) (w : Word)
  /-- R286. The device sends a CREDIT block for freed buffer space. -/
  | creditReturn (n : Nat)
  /-- R289. A packet unacknowledged for 20 us is resent from the oldest, and eight timeouts reset the port. -/
  | retryTimeout (n : Nat)
  /-- R292. A received PING is answered with a PONG carrying HOLD. -/
  | ping (n : Nat) (w : Word)
  /-- R292. Every 100 us the device sends a PING on each UP port. -/
  | pingSend (n : Nat)
  /-- R292. A PONG arrives and updates T_ONEWAY. -/
  | pong (n : Nat) (w : Word) (rtt : Nat)
  /-- R292. A PONG not received within 10 us is not counted. -/
  | pongTimeout (n tag : Nat)
  /-- R293. Once per 1 ms the device sends a MARKER on each UP port. -/
  | markerSend (n : Nat)
  /-- R281. A lane of an UP port that loses FEC lock or signal fails, leading to LANE_DOWN, or to PORT_DOWN on a second failure. -/
  | laneFail (n lane : Nat)
  /-- R294. A received LANE_DOWN makes the transmitter drop the lane at the next alignment period and resend. -/
  | laneDown (n : Nat) (w : Word)
  /-- R294. Every 10 us the receiver repeats LANE_DOWN until the partner's commas show the lane outside ACT. -/
  | laneDownRepeat (n : Nat) (comma : BitVec 66)
  /-- R294. At the first alignment period after LANE_DOWN, the transmitter stripes over the remaining lanes. -/
  | restripe (n : Nat)
  /-- R297. A received EIDLE makes the receiver treat the following signal loss as idle. -/
  | eidleBlock (n : Nat) (w : Word)
  /-- R306. A received RESET makes the port discard its packets and return to HANDSHAKE. -/
  | resetBlock (n : Nat) (w : Word)
  /-- R297. PORT_CTL.EIDLE, or IDLE or DOZE entry, makes the transmitter drain, send EIDLE and stop driving. -/
  | eidleRequest (n : Nat) (v : Reg)
  /-- R298. A packet ready on an idle transmitter triggers the exit burst and a new alignment period. -/
  | eidleExit (n : Nat)
  /-- R296. A PORT_CTL.RECAL write starts recalibration, holding a run if forced, or is refused. -/
  | recal (n : Nat) (v : Reg)
  /-- R296. Recalibration brings every lane up again and the hold is released. -/
  | recalDone (n : Nat) (seen : List (Option CommaSeen)) (late clean : BitVec 4) (errs : List FecErr)
  /-- R306. A PORT_CTL.PORT_RESET write, or the violation threshold, resets the port's link layer. -/
  | portReset (n : Nat) (v : Reg)
  /-- R303. A CTL_TX_DATA write appends a word to the outgoing USER packet. -/
  | ctlTxData (n : Nat) (v : Reg)
  /-- R303. A CTL_TX_SEND write sends the appended words as a USER packet. -/
  | ctlTxSend (n : Nat) (v : Reg)
  /-- R303. A CTL_RX_DATA read pops the next CTL_RX word and returns VC2 credits. -/
  | ctlRxData (n : Nat)
  /-- R323. The sequencer takes an event from its queue and resets, counts, advances or fires. -/
  | sequencerEvent
  /-- R314. An edge on a TRIG_IN pin is stamped and raised as an event. -/
  | trigInEdge (k : Nat) (rise : Bool) (frac : BitVec 8)
  /-- R326. A TRIG_OUT pin begins its pulse at once, or at the event stamp plus DELAY. -/
  | trigOutPulse (k : Nat)
  /-- R326. After PW ns the TRIG_OUT pulse ends. -/
  | trigOutPulseEnd (k : Nat)
  /-- R318. A probe word or tapped output entry reaches channel 32 and completes the probe sample of its cycle. -/
  | probeWordArrive (i : Nat)
  /-- R332. Markhor fixes a segment's bounds and allocates its record at the write pointer. -/
  | segmentCommit (c : Nat)
  /-- R330. The last POST sample of a segment is placed in the staging ring. -/
  | segmentPostDone (c : Nat)
  /-- R330. After the re-arm time, PRE samples and HOLDOFF, a channel returns to WAIT_TRIG. -/
  | channelRearm (c : Nat)
  /-- R332. The drain writes a segment record to the acquisition buffer, and DONE follows after the last segment. -/
  | recordDrain (c : Nat) (ups : List BankUpset)
  /-- R317. A sample rate above f by more than 1 % over 100 us sets RATE_EXCEED and logs ACQ_RATE. -/
  | rateCheck (c : Nat) (samples : Nat)
  /-- R321. A write of MKH_CTL.FORCE raises event FORCE. -/
  | mkhForce (v : Reg)
  /-- R335. A write of MKH_CTL.DISARM disarms Markhor and stores any segment in POST as INCOMPLETE. -/
  | disarm (v : Reg)
  /-- R350. An SQ doorbell write accepts jobs up to the new tail, or is discarded as OVERRUN or BACKWARD. -/
  | sqDoorbell (q : Nat) (v : Reg)
  /-- R351. A CQ doorbell write reports consumed completions, or is discarded as CQ_HEAD_BAD. -/
  | cqDoorbell (q : Nat) (v : Reg)
  /-- R350. Saiga copies an accepted descriptor into its descriptor store. -/
  | descriptorCopy (q : Nat) (err : DramErr)
  /-- R356. A job takes its context once it is free and earlier jobs of its queue have taken theirs. -/
  | contextTake (q : Nat)
  /-- R357. A job becomes ready when its context's flags match WAIT_MASK, and the matched flags clear. -/
  | jobReady (ctx : Nat)
  /-- R358. An idle executor takes the head of its ready list. -/
  | jobDispatch (x : Nat)
  /-- R364. A finished job is released in sequence order: its entry is written, CQ_TAIL advances and SIGNAL and MKH_EV act. -/
  | jobRelease (q : Nat)
  /-- R365. COAL_US after the first unannounced entry, the queue raises its MSI-X vector. -/
  | irqCoalesceTimer (q : Nat)
  /-- R348. An SQ_CTL write of EN from 0 to 1 resets the queue's counters, or is refused if the ring lies beyond DRAM. -/
  | sqEnable (q : Nat) (v : Reg)
  /-- R357. A FLAG_SET write sets one flag of a context. -/
  | flagSet (v : Reg)
  /-- R357. A FLAG_CLR write clears one flag of a context. -/
  | flagClr (v : Reg)
  /-- R368. An ABORT_CMD with target job aborts one job by queue and SEQ. -/
  | abortJob (v : Reg)
  /-- R367. An ABORT_CMD with target queue aborts every unreleased job of the queue. -/
  | abortQueue (v : Reg)
  /-- R367. An ABORT_CMD with target run aborts the active START and stops the run. -/
  | abortRun (v : Reg)
  /-- R367. An ABORT_CMD with target device aborts every job, the run, Markhor and every executor. -/
  | abortDevice (v : Reg)
  /-- R366. When every target is marked or found released and its work has stopped, BUSY clears and RESULT is set. -/
  | abortDecided
  /-- R355. A DMA COPY job copies bytes between host, DRAM and bank spaces. -/
  | copy (x : Nat)
  /-- R355. A DMA engine finishes its copy, or stops on an error. -/
  | dmaCopy (x : Nat) (host : List Byte) (err : Nat) (lost : List Nat) (same : List ReadMeet) (ups : List BankUpset)
      (lines : List LineErr)
  /-- R404. A LOADER LOAD job streams a container into an image slot, checking the header on arrival. -/
  | load (header : List Byte) (err : Nat) (lines : List LineErr)
  /-- R404. At the end of a load, CRC, TAG, PROTECT and the load checks mark the slot VALID or INVALID. -/
  | loadEnd (host : List Byte) (err : Nat) (lines : List LineErr)
  /-- R405. A SWAP job applies the swap checks and starts reading the slot's container into the device. -/
  | swap
  /-- R405. The swap finishes writing the image, recomputes CRC and TAG, and makes the slot the golden copy. -/
  | imageSwap (net : RimNet) (lines : List LineErr)
  /-- R42. A RUN START job starts a run at its first cycle, or completes with a refusal status. -/
  | start (peer : Option PeerVerdict)
  /-- R360. A RUN GRANT job adds N to GRANT, saturating. -/
  | grant
  /-- R360. A RUN STOP job stops the run at a cycle boundary as a host stop. -/
  | stop
  /-- R363. A SNAP CAPTURE job arranges the array copy at a named C7 and a rim capture at a named edge. -/
  | capture
  /-- R460. Chital finishes draining the snapshot shadows to the snapshot area and the SNAP job completes. -/
  | snapDrain
  /-- R336. An MKH ARM job checks the set-up, runs admission and arms Markhor. -/
  | arm
  /-- R336. An MKH READOUT job copies records or the newest staged samples to the host. -/
  | readout (host moved : Nat) (same : Bool) (ups : List BankUpset) (lines : List LineErr)
  /-- R206. A Chamois BANK_TEST job runs the destructive March test on a bank owned by CHAMOIS. -/
  | bankTest
  /-- R206. The destructive test finishes, maps failing regions to spares and leaves zeros. -/
  | bankTestDone (failed : List Nat)
  /-- R421. A Chamois TILE_TEST job tests one physical tile, or completes BUSY. -/
  | tileTest
  /-- R421. The tile test finishes, sets or clears TEST_OK and returns the tile to retention. -/
  | tileTestDone (parts : BitVec 8) (bp addr : Nat)
  /-- R371. A read of MSG_DATA_LO pops the next word of the head packet, or sets UNDERRUN. -/
  | msgDataLo (f : Nat) (wide : Bool)
  /-- R371. A DROP_PKT write discards the unread words of the claimed packet. -/
  | dropPkt (f : Nat)
  /-- R371. A MSG_CTL.CLR write empties every visible packet and clears the loss counts. -/
  | msgClr (f : Nat)
  /-- R373. A read of EVL_DATA0 pops the oldest event log entry. -/
  | evlData0
  /-- R380. An EVL_CTL.CLR write empties the event log and clears its loss state. -/
  | evlClr
  /-- R346. A BAR2 read returns DRAM data, all ones beyond capacity, or a poisoned completion. -/
  | bar2Read (off len : Nat) (lines : List LineErr)
  /-- R346. A BAR2 write reaches DRAM, or is discarded beyond capacity, in a QPORT region during a run, or in a held slot. -/
  | bar2Write (off : Nat) (data : List Byte)
  /-- R344. A Function Level Reset acts as a device abort and resets every submission queue. -/
  | functionLevelReset
  /-- R315. A read of TB_LO returns the low timebase word and latches the high word into TB_HI. -/
  | tbLo (wide : Bool)
  /-- R467. A read of an RC register returns its value and clears only what it returned. -/
  | rcRead (off size : Nat)
  /-- R470. A write of BLK_CTL.CLR_STICKY clears the page's sticky bits, BLK_IRQ and BLK_ERR. -/
  | clrSticky (page : Nat)
  /-- R476. A write of IND_ADDR sets the indirect address and empties the hold buffer for another item. -/
  | indAddrWrite (page : Nat) (v : Reg)
  /-- R475. A read of IND_DATA returns the word at IND_ADDR and advances the address. -/
  | indDataRead (page : Nat) (ups : List BankUpset)
  /-- R475. A write of IND_DATA writes, holds or commits the word at IND_ADDR and advances the address. -/
  | indDataWrite (page : Nat) (v : Reg)
  /-- R466. A BAR0 write to a register with no row of its own takes effect or is refused under the access code and run rules. -/
  | registerWrite (off size : Nat) (v : Word)
  /-- R420. A TILE_MAP write outside a run changes PHYS and advances EPOCH, or is refused. -/
  | tileMapWrite (i : Nat) (v : Reg)
  /-- R420. A FENCE write is judged whole and re-admits tested tiles as spares, or is refused. -/
  | fenceWrite (d : Nat) (v : Reg)
  /-- R107. A LINK_MAP write sets the ports to a device, or is refused during a run. -/
  | linkMapWrite (dev : Nat) (v : Reg)
  /-- R392. Once BOOT_RDY is released, the master drives the container on the boot bus with BOOT_FRM asserted. -/
  | bootBusStart (data : List Byte)
  /-- R408. A BOOT_DATA write feeds container bytes from the host source. -/
  | bootData (data : List Byte)
  /-- R394. Once the 256-byte header has arrived, the checks run and lead to BODY, WRONG_TARGET or CONFIG_FAILED. -/
  | headerReceived
  /-- R395. Body sections are decrypted and staged, or fail with SUBSECTION or SLOT_SPACE. -/
  | sectionStage
  /-- R396. With TOTAL_LEN received, CRC, TAG and FWPATCH are checked, then START applies SHELL and enables FWPATCH. -/
  | containerVerify (fwOk : Bool)
  /-- R396. Start-up DRAM training completes, or fails into START_FAIL. -/
  | dramTrainDone (fails : List Nat) (temp : Int)
  /-- R396. Lanes start, the rim is decoded, the boot image is built and swapped, banks are zeroed, and the device enters READY. -/
  | ready (net : RimNet)
  /-- R398. The master dropping BOOT_FRM before TOTAL_LEN ends the load with CONFIG_INCOMPLETE. -/
  | bootFrmDrop
  /-- R398. One second without a BOOT_DATA write before TOTAL_LEN ends the load with CONFIG_INCOMPLETE. -/
  | bootDataTimeout
  /-- R398. The device clears staged content within 5 ms of a failure or of the next load's start. -/
  | stagedClear
  /-- R398. A CFG_CTL.RELOAD write returns the loader to WAIT_SRC. -/
  | reload (v : Reg)
  /-- R388. A KEY_WR write takes one key word, and the eighth commits the BBRAM key. -/
  | keyWr (v : Reg)
  /-- R390. Eight KEY_WR writes not completed within 1 ms zeroise the BBRAM key. -/
  | keyWrTimeout
  /-- R390. A KEY_CTL.ZEROISE write zeroises the BBRAM key and clears BBRAM-derived state. -/
  | zeroise (v : Reg)
  /-- R390. Assertion of TAMPER zeroises the BBRAM key and clears a BBRAM-derived resident image. -/
  | tamper
  /-- R390. VBAT below its minimum with core supplies off zeroises the BBRAM key. -/
  | vbatLoss
  /-- R410. A FUSE_KEYBUF write takes one word of the key to be programmed. -/
  | fuseKeybuf (v : Reg)
  /-- R410. FUSE_PROG code 0x1 programs the key from FUSE_KEYBUF, or is refused. -/
  | fuseProgKey (v : Reg)
  /-- R410. FUSE_PROG code 0x2 blows PLAIN_DIS. -/
  | fuseBlowPlainDis (v : Reg)
  /-- R410. FUSE_PROG code 0x4 blows BBRAM_DIS. -/
  | fuseBlowBbramDis (v : Reg)
  /-- R410. FUSE_PROG code 0x8 blows HOST_BOOT_DIS. -/
  | fuseBlowHostBootDis (v : Reg)
  /-- R410. Fuse programming finishes its verify and clears BUSY, setting FAIL on mismatch. -/
  | fuseProgDone (ok : Bool)
  /-- R416. A tile's heartbeat missing for HB_LIMIT us declares it dead. -/
  | heartbeatLoss (p : Nat)
  /-- R426. With every tile held, the hub discards in-flight traffic, restores the last checkpoint and reopens the gate at cycle k. -/
  | rollback (lines : List LineErr)
  /-- R427. Re-execution passes the last journaled record and ROLLBACK_DONE is logged. -/
  | rollbackDone
  /-- R424. At a checkpoint cycle, once the previous checkpoint is complete and QRDs answered, the state is captured. -/
  | checkpointBoundary
  /-- R424. All copies of a checkpoint reach the checkpoint area and CKPT_LAST advances. -/
  | checkpointComplete
  /-- R439. A RECOV_CTL.CKPT_NOW write brings the next checkpoint to the next boundary. -/
  | ckptNow (v : Reg)
  /-- R429. Chamois reads a region, computes CRC-32C and compares it with its reference. -/
  | scrubRegion (storage tile region : Nat) (ups : List (Nat × Nat)) (refUpset : BitVec 32) (seq : List (Nat × BitVec 32))
  /-- R430. A SCR_CTL.COMMIT write starts a commit pass. -/
  | commit (v : Reg)
  /-- R430. The commit pass stores every reference and sets COMMITTED. -/
  | commitDone
  /-- R433. Every 1 ms a background sweep votes every RWV field. -/
  | voteSweep (ups : List VoteUpset) (maps : List MapUpset)
  /-- R446. A line that no packet has joined for 10 us is written partial. -/
  | traceLineFlush (s : Nat)
  /-- R446. Staged trace lines drain into the ring through the TRACE reservation. -/
  | traceStagingDrain (s : Nat) (ups : List BankUpset)
  /-- R455. A TRC_CTL.EN write enables trace after its checks, or clearing it flushes every stream. -/
  | trcEnable (v : Reg)
  /-- R446. A TRC_RP write reports consumed ring bytes. -/
  | trcRpWrite (v : Reg)
  /-- R448. A TRC_MARK write writes a MARK packet in the hub stream. -/
  | trcMark (v : Reg)
  /-- R459. A write of AUTH_CTL.NEW places a fresh nonce in AUTH_NONCE. -/
  | authNew
  /-- R459. A write of AUTH_CTL.LOCK ends an unlock. -/
  | authLock
  /-- R459. The fourth AUTH_TOKEN write checks the token and unlocks or counts a failure. -/
  | authToken (v : Reg)
  /-- R489. A write of PWR_REQ.TARGET = RUN requests RUN and is a wake event. -/
  | pwrReqRun
  /-- R490. A write of PWR_REQ.TARGET = IDLE begins IDLE entry, or is refused with a reason. -/
  | pwrReqIdle
  /-- R490. A write of PWR_REQ.TARGET = DOZE begins DOZE entry, or is refused with a reason. -/
  | pwrReqDoze
  /-- R491. Entry to IDLE or DOZE completes its steps and STATE changes. -/
  | powerEntryDone
  /-- R493. Every part of an exit completes and the device is in RUN. -/
  | powerExitDone
  /-- R489. A PCI Express move to D3hot acts as a request for DOZE. -/
  | d3hotEntry
  /-- R489. A PCI Express return to D0 acts as a request for RUN. -/
  | d0Entry
  /-- R495. A sensor at TJ_WARN or more makes the governor use CAP_EFF = min(PWR_CAP, THERM_CAP). -/
  | thermWarn (j : Nat) (t : BitVec 16)
  /-- R495. After every sensor stays below TJ_WARN - 5 degC for 100 ms, CAP_EFF returns to PWR_CAP. -/
  | thermalRestore
  /-- R496. A sensor at 110 degC trips the device: abort, safe pins, lanes idle, regulators off. -/
  | thermtrip (j : Nat) (t : BitVec 16)
  /-- R487. Loss of REFCLK switches to the internal oscillator, aborts, and gates every STEPCLK. -/
  | refLoss
  /-- R487. Loss of a LANE_REFCLK takes its ports down until it returns. -/
  | laneRefclkLoss (k : Nat)
  /-- R487. Loss of PCIE_REFCLK affects only the endpoint, as the standard defines. -/
  | pcieRefclkLoss
  /-- R498. Power-on reset resets everything except VBAT and fuses, and restarts the timebase. -/
  | porstN
  /-- R498. Warm reset resets the device while the timebase and PLLs run and DRAM stays in self-refresh. -/
  | sysrstN
  /-- R498. PCI Express fundamental reset resets only the endpoint, as a Function Level Reset. -/
  | perstN
  /-- R498. A write of RST_CTL with key 0x5A5A and SOFT = 1 acts as a warm reset. -/
  | rstCtlSoft (v : Reg)
  /-- R500. Release of PORST_N samples straps and starts the timebase and start-up sequence. -/
  | resetRelease (pins : BitVec 8)
  /-- R500. HUBCLK, timebase and BOOTCLK PLLs lock and PWRGD is released. -/
  | startupPllLock
  /-- R500. After fuses are read and cores start, the loader enters WAIT_SRC and releases BOOT_RDY. -/
  | loaderWaitSrc
  /-- R517. Boundary-scan EXTEST makes the boundary cells drive and capture the pins. -/
  | extest (pins cells : BitVec 4362)
  /-- R517. Boundary-scan SAMPLE/PRELOAD captures the pins and loads cells without driving. -/
  | samplePreload (pins cells : BitVec 4362)
  /-- R517. Boundary-scan IDCODE selects the 32-bit identity. -/
  | idcode
  /-- R517. Boundary-scan HIGHZ places every covered output at high impedance. -/
  | highz
  /-- R517. Boundary-scan CLAMP drives outputs from the cells with the bypass register selected. -/
  | clamp
  /-- R517. Boundary-scan BYPASS selects the bypass register. -/
  | bypass
  /-- R298. A partner leaves electrical idle: the receiver takes the exit burst and comma, resumes with its kept state (or fails the lane after 1 us without a comma), and raises a wake event when WAKE_EN.LANE is 1. -/
  | signalReturn (n : Nat) (commas : BitVec 4)
  /-- R487. A lost LANE_REFCLK input returns, and the ports it serves leave their hold in SIGNAL and resume bring-up. -/
  | laneRefclkReturn (k : Nat)
  /-- R246. A rim PLL loses lock, for example when its user clock pin reference stops, and its RIMCLKs stop with CLK_RUN and PLL_LOCK clearing. -/
  | rimPllLoss (k : Nat)
  /-- R517. Assertion of TRST_N, or the TAP reaching test-logic reset, resets the test access port and selects IDCODE, ending EXTEST, HIGHZ or CLAMP. -/
  | testLogicReset
  deriving DecidableEq, Repr

end Sys2Proof
end

