-- ==== Sys2Proof/Decode.lean ====
section
/-!
DEFINITION. What a word spells by the table's bits.  spec/opcode_table.json gives no row any bits: the device takes
commands, and no word encodes one (95_what_each_step_holds.md).
-/
namespace Sys2Proof

/-- No row of the table has bits, so no word spells a command. -/
def decodeTableWord (_nbits _w : Nat) : Option Instr := none

end Sys2Proof
end

