-- ==== Sys2Proof/Config.lean ====
section
/-!
DEFINITION. What the spec leaves open as a VALUE: constants without a body, so that no proof can see them
(assumptions 9 and 10).  Each is applied to a plain counter of State or to the address it stands at.
-/
namespace Sys2Proof.Config

/-- A fresh 64-bit random value: AUTH_NONCE (R459).  UNVERIFIED: free (assumption 9). -/
opaque freeWord : Nat → BitVec 64

/-- A fresh 96-bit IV from the device's random source (R396).  UNVERIFIED: free (assumption 9). -/
opaque freeIv : Nat → BitVec 96

/-- A byte of DRAM whose contents were lost (R225, R498), by loss count and address: free (assumption 10). -/
opaque lostByte : Nat → Nat → BitVec 8

/-- What a measured analog quantity of the device reads as (DFE taps, eye height, symbol errors of a lane, R310; PHY
settings of a DRAM channel, R480), by page, word and a plain counter: free (assumption 11). -/
opaque measured : Nat → Nat → Nat → BitVec 32

/-- The reason in the ERROR reply to a CONTROL packet with a non-zero reserved bit, for which R302 names none: free
(assumption 11). -/
opaque errorReason : BitVec 8

/-- Where RIM_DEC_LOC places an unimplemented code of the clock frame, which belongs to no region, column, row or cell
(R244, R402): free (assumption 11). -/
opaque decLoc : BitVec 31

/-- A signal of the rim's fabric to which the spec gives no value: what a loop that does not settle reads as, the carry-in of
the lowest cell of a column (R241, R245): free (assumption 110). -/
opaque rimOpen : Nat → Bool

/-- Which half of a carry cell's table is the propagate half, true the upper (R241): free (assumption 110). -/
opaque propHigh : Bool

/-- Which bit of a half of a carry cell's table the inputs select, true in the propagate half: R241 does not say how I4 and I5,
the shared inputs, and the other four do: free (assumption 110). -/
opaque carryBit : Bool → BitVec 6 → BitVec 5

/-- The level at a user pin, by pin (192 + pin at the falling edge before) and a plain counter: it comes from outside the device
(R255): free (assumption 111). -/
opaque pinLevel : Nat → Nat → Bool

/-- How many periods of a rim PLL end in this HUBCLK period, by the pin of its reference (none: REFCLK), the PLL and a plain
counter: its frequency and phase are the board's and the configuration's (R246): free (assumption 111). -/
opaque pllEdges : Option Nat → Nat → Nat → Nat

/-- Where in its HUBCLK period an edge of RIMCLK n falls, in 1/256 ns (R263): free (assumption 111). -/
opaque edgeTime : Nat → Nat → BitVec 8

/-- The boundary cell of a user pin, by pin and part (0 input, 1 output, 2 output enable): R518 gives no order: free
(assumption 131). -/
opaque scanCell : Nat → Nat → Nat

/-- TYPE and DEV that CFG_ERR shows for a failure that concerns no section, by its code (R408): free (assumption 21). -/
opaque errPlace : Nat → BitVec 16

end Sys2Proof.Config
end

