-- ==== Sys2Proof/Machine/Bits.lean ====
section
/-!
DEFINITION. Bit fields, byte strings, parity and the checksums of the spec: CRC-64 of the container (R387), CRC-32C of
packets and scrub regions (R284, R429), CRC-8 of the comma (R274).
-/
namespace Sys2Proof.Machine

/-- Bits [lo + len - 1 : lo] of `w` as a number. -/
def fld {n : Nat} (w : BitVec n) (lo len : Nat) : Nat := w.toNat / 2 ^ lo % 2 ^ len

/-- `v` placed in bits [lo + len - 1 : lo] of a word of `n` bits, everything else 0. -/
def place (n lo len v : Nat) : BitVec n := BitVec.ofNat n (v % 2 ^ len * 2 ^ lo)

/-- `w` with bits [lo + len - 1 : lo] replaced by `v`. -/
def setFld {n : Nat} (w : BitVec n) (lo len v : Nat) : BitVec n :=
  (w &&& ~~~(place n lo len (2 ^ len - 1))) ||| place n lo len v

/-- The number that a byte string spells, least significant byte first. -/
def leNat : List Byte → Nat
  | [] => 0
  | b :: bs => b.toNat + 256 * leNat bs

/-- The `n` bytes of `v`, least significant first. -/
def leBytes : Nat → Nat → List Byte
  | 0, _ => []
  | n + 1, v => BitVec.ofNat 8 v :: leBytes n (v / 256)

/-- `len` bytes of a string from `off`; bytes beyond its end read 0. -/
def bytesAt (b : List Byte) (off len : Nat) : List Byte :=
  let t := (b.drop off).take len
  t ++ List.replicate (len - t.length) 0

/-- The little-endian number of `len` bytes at `off`. -/
def num (b : List Byte) (off len : Nat) : Nat := leNat (bytesAt b off len)

/-- Is every byte of `b` in [off, off + len) zero? -/
def zeros (b : List Byte) (off len : Nat) : Bool := (bytesAt b off len).all (· == 0)

/-- Number of ones among the low `n` bits. -/
def ones : Nat → Nat → Nat
  | 0, _ => 0
  | n + 1, v => v % 2 + ones n (v / 2)

/-- Even parity over a step word (R72). -/
def evenParity (w : StepWord) : Bool := ones 72 w.toNat % 2 == 0

/-- One byte of a CRC that shifts left: polynomial `poly`, width `n`, the register's top bit out first. -/
def crcLeft (n : Nat) (poly : BitVec n) (crc : BitVec n) (b : Byte) : BitVec n :=
  let c := crc ^^^ (BitVec.ofNat n b.toNat <<< (n - 8))
  (List.range 8).foldl (fun c _ => if c.msb then (c <<< 1) ^^^ poly else c <<< 1) c

/-- CRC-64/ECMA-182: initial value 0, no reflection, no final XOR (R387). -/
def crc64 (bs : List Byte) : BitVec 64 := bs.foldl (crcLeft 64 0x42F0E1EBA9EA3693) 0

/-- One byte of the reflected CRC-32C. -/
def crc32cStep (crc : BitVec 32) (b : Byte) : BitVec 32 :=
  let c := crc ^^^ BitVec.ofNat 32 b.toNat
  (List.range 8).foldl (fun c _ => if c.getLsbD 0 then (c >>> 1) ^^^ 0x82F63B78 else c >>> 1) c

/-- CRC-32C: polynomial 0x1EDC_6F41 reflected, initial value and final XOR 0xFFFF_FFFF (R284). -/
def crc32c (bs : List Byte) : BitVec 32 := ~~~(bs.foldl crc32cStep 0xFFFFFFFF)

/-- The bytes of a payload word, least significant first (R284). -/
def wordBytes (w : Word) : List Byte := leBytes 8 w.toNat

/-- The CRC of a packet: the SOP control word, then the payload words (R284). -/
def packetCrc (sop : Word) (ws : List Word) : BitVec 32 := crc32c ((sop :: ws).flatMap wordBytes)

/-- CRC-8 of a comma: x^8 + x^2 + x + 1, initial value 0, over bits [57:42] (R274).  The bits enter in transmission
order, bit 42 first (DEDUCED, assumption 14). -/
def commaCrc (c : BitVec 66) : BitVec 8 :=
  (List.range 16).foldl (fun r i =>
    let top := r.msb != c.getLsbD (42 + i)
    if top then (r <<< 1) ^^^ 0x07 else r <<< 1) 0

/-- A comma block: sync header 0b10, SYNC, a zero bit [57] and a correct CHK (R274, R305). -/
def commaOk (c : BitVec 66) : Bool :=
  fld c 0 2 == 2 && fld c 2 40 == 0x2B9E64D1C7 && !c.getLsbD 57 && fld c 58 8 == (commaCrc c).toNat

/-- A two's complement field of `n` bits as an integer. -/
def signed (n v : Nat) : Int := if v < 2 ^ (n - 1) then (v : Int) else (v : Int) - 2 ^ n

end Sys2Proof.Machine
end

