-- ==== Sys2Proof/Machine/Crypto.lean ====
section
/-!
DEFINITION. AES-256, its counter mode, the GCM tag and AES-CMAC, as the standards that R383, R387 and R459 name define
them (FIPS 197, NIST SP 800-38D, NIST SP 800-38B; PRESUMED: the spec names them and does not repeat them, assumption 15).
A block is 16 bytes, first byte first.
-/
namespace Sys2Proof.Machine

/-- Product in GF(2^8) modulo x^8 + x^4 + x^3 + x + 1. -/
def gmul (a b : Byte) : Byte :=
  ((List.range 8).foldl (fun (s : Byte × Byte) i =>
    let acc := if b.getLsbD i then s.1 ^^^ s.2 else s.1
    (acc, if s.2.msb then (s.2 <<< 1) ^^^ 0x1B else s.2 <<< 1)) (0, a)).1

/-- The multiplicative inverse, 0 for 0: the power 254. -/
def ginv (a : Byte) : Byte :=
  let a2 := gmul a a
  let a3 := gmul a2 a
  let a6 := gmul a3 a3
  let a12 := gmul a6 a6
  let a15 := gmul a12 a3
  let a30 := gmul a15 a15
  let a60 := gmul a30 a30
  let a120 := gmul a60 a60
  let a126 := gmul a120 a6
  let a127 := gmul a126 a
  gmul a127 a127

/-- The S-box: inverse, then the affine map. -/
def sbox (a : Byte) : Byte :=
  let v := ginv a
  v ^^^ v.rotateLeft 1 ^^^ v.rotateLeft 2 ^^^ v.rotateLeft 3 ^^^ v.rotateLeft 4 ^^^ 0x63

def xorBytes (a b : List Byte) : List Byte := List.zipWith (· ^^^ ·) a b

/-- Four-byte words of the AES-256 key schedule, newest first, extended `n` times; `i` is the index of the next word. -/
def keyExpand : Nat → Nat → Byte → List (List Byte) → List (List Byte)
  | 0, _, _, ws => ws
  | n + 1, i, rcon, ws =>
    let prev := ws.headD []
    let back := (ws.drop 7).headD []
    let t :=
      if i % 8 = 0 then xorBytes ((prev.drop 1 ++ prev.take 1).map sbox) [rcon, 0, 0, 0]
      else if i % 8 = 4 then prev.map sbox
      else prev
    keyExpand n (i + 1) (if i % 8 = 0 then gmul rcon 2 else rcon) (xorBytes back t :: ws)

/-- The 15 round keys of 16 bytes. -/
def roundKeys (key : List Byte) : List (List Byte) :=
  let w0 := ((List.range 8).map (fun i => bytesAt key (4 * i) 4)).reverse
  let ws := (keyExpand 52 8 1 w0).reverse
  (List.range 15).map (fun r => ((ws.drop (4 * r)).take 4).flatten)

def shiftRows (s : List Byte) : List Byte :=
  (List.range 16).map (fun i => s.getD ((i + 4 * (i % 4)) % 16) 0)

def mixColumns (s : List Byte) : List Byte :=
  (List.range 16).map (fun i =>
    let c := i / 4 * 4
    let g := fun k => s.getD (c + (i + k) % 4) 0
    gmul 2 (g 0) ^^^ gmul 3 (g 1) ^^^ g 2 ^^^ g 3)

/-- AES-256 encryption of one block. -/
def aes (key : List Byte) (block : List Byte) : List Byte :=
  match roundKeys key with
  | [] => block
  | k0 :: ks =>
    let s := xorBytes block k0
    let mid := ks.take 13
    let s := mid.foldl (fun s k => xorBytes (mixColumns (shiftRows (s.map sbox))) k) s
    xorBytes (shiftRows (s.map sbox)) (ks.getLastD [])

/-- A block as a 128-bit number, first byte most significant. -/
def beNat (bs : List Byte) : Nat := bs.foldl (fun v b => 256 * v + b.toNat) 0

def beBytes (n v : Nat) : List Byte := (leBytes n v).reverse

/-- Cut a string into blocks of 16 bytes, the last one padded with zeros; `fuel` bounds their number. -/
def blocks : Nat → List Byte → List (List Byte)
  | 0, _ => []
  | fuel + 1, bs => if bs.isEmpty then [] else bytesAt bs 0 16 :: blocks fuel (bs.drop 16)

/-- Counter mode from counter block `iv ‖ ctr`. -/
def ctrFrom (key iv : List Byte) (ctr : Nat) (bs : List Byte) : List Byte :=
  let bl := blocks (bs.length / 16 + 1) bs
  let ks := (List.range bl.length).flatMap (fun i => aes key (iv ++ beBytes 4 (ctr + i)))
  xorBytes bs ks

/-- GCM encryption and decryption of the body are the same counter mode, from counter 2. -/
def gcmCrypt (key iv bs : List Byte) : List Byte := ctrFrom key iv 2 bs

/-- Product in GF(2^128) with the bit order of GCM. -/
def gf128 (x y : BitVec 128) : BitVec 128 :=
  ((List.range 128).foldl (fun (s : BitVec 128 × BitVec 128) i =>
    let z := if x.getLsbD (127 - i) then s.1 ^^^ s.2 else s.1
    (z, if s.2.getLsbD 0 then (s.2 >>> 1) ^^^ 0xE1000000000000000000000000000000 else s.2 >>> 1)) (0, y)).1

def ghash (h : BitVec 128) (bl : List (List Byte)) : BitVec 128 :=
  bl.foldl (fun y b => gf128 (y ^^^ BitVec.ofNat 128 (beNat b)) h) 0

/-- The GCM tag: additional data `aad`, ciphertext `ct` (R387). -/
def gcmTag (key iv aad ct : List Byte) : List Byte :=
  let h := BitVec.ofNat 128 (beNat (aes key (List.replicate 16 0)))
  let lens := beBytes 8 (8 * aad.length) ++ beBytes 8 (8 * ct.length)
  let s := ghash h (blocks (aad.length / 16 + 1) aad ++ blocks (ct.length / 16 + 1) ct ++ [lens])
  xorBytes (beBytes 16 s.toNat) (aes key (iv ++ beBytes 4 1))

/-- AES-CMAC (R459). -/
def cmac (key msg : List Byte) : List Byte :=
  let dbl := fun (x : BitVec 128) => if x.msb then (x <<< 1) ^^^ 0x87 else x <<< 1
  let k1 := dbl (BitVec.ofNat 128 (beNat (aes key (List.replicate 16 0))))
  let k2 := dbl k1
  let n := (msg.length + 15) / 16
  let full := n ≠ 0 ∧ msg.length % 16 = 0
  let cnt := if n = 0 then 1 else n
  let last := msg.drop (16 * (cnt - 1))
  let lastBlk :=
    if full then BitVec.ofNat 128 (beNat last) ^^^ k1
    else BitVec.ofNat 128 (beNat (bytesAt (last ++ [0x80]) 0 16)) ^^^ k2
  let x := (List.range (cnt - 1)).foldl
    (fun x i => aes key (xorBytes x (bytesAt msg (16 * i) 16))) (List.replicate 16 0)
  aes key (xorBytes x (beBytes 16 lastBlk.toNat))

/-- The fingerprint of a key: the first 8 bytes of the encryption of the zero block (R383). -/
def keyId (key : BitVec 256) : Word :=
  BitVec.ofNat 64 (leNat ((aes (leBytes 32 key.toNat) (List.replicate 16 0)).take 8))

/-- The key K_A of the unlock: the encryptions of the blocks 0x01 and 0x02, joined (R459). -/
def authKey (key : BitVec 256) : List Byte :=
  let k := leBytes 32 key.toNat
  aes k (1 :: List.replicate 15 0) ++ aes k (2 :: List.replicate 15 0)

end Sys2Proof.Machine
end

