-- ==== Sys2Proof/Machine/Tbl.lean ====
section
/-!
DEFINITION. Sparse tables: a list of (key, value) pairs in one canonical form (keys strictly rising, no entry equal to
what an unlisted key reads as), and the operations every memory of the model uses.
-/
namespace Sys2Proof.Machine

/-- A table from natural numbers, held as its entries. -/
abbrev Tbl (α : Type) := List (Nat × α)

/-- The value at key `k`; `d` is what an unlisted key reads as. -/
def Tbl.get {α : Type} (d : α) : Tbl α → Nat → α
  | [], _ => d
  | (k', v) :: t, k => if k = k' then v else Tbl.get d t k

/-- Put an entry at its place in the rising order, replacing one with the same key. -/
def Tbl.put {α : Type} (k : Nat) (v : α) : Tbl α → Tbl α
  | [] => [(k, v)]
  | (k', v') :: t =>
    if k < k' then (k, v) :: (k', v') :: t
    else if k = k' then (k, v) :: t
    else (k', v') :: Tbl.put k v t

/-- Remove every entry with key `k`. -/
def Tbl.del {α : Type} (k : Nat) : Tbl α → Tbl α
  | [] => []
  | (k', v') :: t => if k = k' then Tbl.del k t else (k', v') :: Tbl.del k t

/-- Write `v` at `k`, keeping the canonical form: the value an unlisted key reads as removes the entry. -/
def Tbl.set {α : Type} [DecidableEq α] (d : α) (t : Tbl α) (k : Nat) (v : α) : Tbl α :=
  if v = d then Tbl.del k t else Tbl.put k v t

/-- Write a list of entries in order. -/
def Tbl.setAll {α : Type} [DecidableEq α] (d : α) (t : Tbl α) (es : List (Nat × α)) : Tbl α :=
  es.foldl (fun m e => Tbl.set d m e.1 e.2) t

/-- The entries of `f` on keys `lo`, `lo + 1`, …, `lo + n - 1` that differ from `d`, in rising order. -/
def Tbl.ofFnFrom {α : Type} [DecidableEq α] (d : α) (f : Nat → α) : Nat → Nat → Tbl α
  | _, 0 => []
  | lo, n + 1 =>
    if f lo = d then Tbl.ofFnFrom d f (lo + 1) n else (lo, f lo) :: Tbl.ofFnFrom d f (lo + 1) n

/-- The table that holds `f k` for `k < n` and nothing above. -/
def Tbl.ofFn {α : Type} [DecidableEq α] (d : α) (n : Nat) (f : Nat → α) : Tbl α := Tbl.ofFnFrom d f 0 n

/-- The entries of a list that differ from what an unlisted key reads as; keys rise. -/
def tblOf {α : Type} [DecidableEq α] (d : α) (es : List (Nat × α)) : Tbl α := es.filter (fun e => decide (e.2 ≠ d))

/-- Change the value at `k` by `f`. -/
def Tbl.upd {α : Type} [DecidableEq α] (d : α) (t : Tbl α) (k : Nat) (f : α → α) : Tbl α :=
  Tbl.set d t k (f (Tbl.get d t k))

/-- Every key of the table is at least `lo`, rising, and no entry equals what its key reads as unlisted. -/
def Tbl.wfFrom {α : Type} [DecidableEq α] (d : Nat → α) : Nat → Tbl α → Bool
  | _, [] => true
  | lo, (k, v) :: t => decide (lo ≤ k) && decide (v ≠ d k) && Tbl.wfFrom d (k + 1) t

/-- The canonical form of a table whose unlisted key `k` reads as `d k`. -/
def Tbl.wf {α : Type} [DecidableEq α] (d : Nat → α) (t : Tbl α) : Bool := Tbl.wfFrom d 0 t

end Sys2Proof.Machine
end

