-- ==== Sys2Proof/Machine/State.lean ====
section
/-!
DEFINITION. The state of the device as plain data: the register store, and one record for each block that holds state
that is no register (INVENTORY.md, State), with the queue of waiting commands; and the state right after reset.
-/
namespace Sys2Proof.Machine

/-- Why a step stops with a fault.  No command of this model does: a run-time fault of a tile, a refused write and a
failed job are effects on State. -/
inductive Fault where
  /-- Raised by nobody: the interface asks for a type.  Safe. -/
  | none
  deriving DecidableEq, Repr

/-- Why a step is refused. -/
inductive Refusal where
  /-- Raised by an arm of exec that has no meaning yet, with the row's mnemonic.  Safe: it stops. -/
  | notModelled (mnemonic : String)
  deriving DecidableEq, Repr

/-! ## The array -/

/-- Where a tile stands (R38, R44, R60, R79). -/
inductive Phase where
  | idle            -- belongs to no run
  | start           -- waits for the input record of the run's first cycle (R42)
  | ready           -- about to begin the step `step`
  | refetch         -- stalled for a parity refetch (R79, R413)
  | waiting         -- begun, waiting for what R60 lists
  | close (k : Nat) -- cycle close: next close step to complete is C2, C3, C5 or C8
  | stopped         -- stopped at a cycle boundary
  | faulted         -- stopped at its step: a fault, or PARTIAL (R44)
  deriving DecidableEq, Repr

/-- What a route names (R85). -/
inductive Target where
  | tile (dev die tile : Nat)
  | outQueue
  deriving DecidableEq, Repr

/-- One record of a window or flit (R93): the result, BP and mailbox (or OQ and OBIT), GEN. -/
structure Rec where
  res : Bool
  a : Nat
  m : Nat
  gen : Bool
  deriving DecidableEq, Repr

/-- An open combining window (R88): its target, its records in order of step and sending BP, the cycle, the device time
at which it opened and how many steps have completed since, the opening one among them. -/
structure Window where
  tgt : Target
  recs : List Rec
  cyc : Nat
  opened : Word
  steps : Nat
  deriving DecidableEq, Repr

/-- Where a flit is on its way (R21, R95 to R98, R103). -/
inductive Loc where
  | stop                 -- released, waiting for a ring slot at its sending stop
  | ring (die r : Nat)   -- on ring r of a die: 0 ascending positions, 1 descending
  | home (die : Nat)     -- for the sending tile itself: at its own stop, on neither ring
  | iface (die : Nat)    -- in the interface queue from this die to the hub
  | main (r stp : Nat)   -- on main ring r (0 ascending stop order, 1 the other), bound for exit stop `stp`
  | inbound (die : Nat)  -- in the interface queue from the hub to this die
  | rim                  -- an output flit at the rim stop
  deriving DecidableEq, Repr

/-- A flit (R92, R93), with the whole source cycle (its header carries it modulo 4). -/
structure Flit where
  out : Bool
  dstDev : Nat
  dstDie : Nat
  dstTile : Nat
  dstPhys : Nat
  srcDev : Nat
  srcDie : Nat
  srcTile : Nat
  srcPhys : Nat
  srcEpoch : Nat
  cyc : Nat
  recs : List Rec
  loc : Loc
  /-- Of a flit from a link port: the BEGUN tokens that its sender had sent on that port before it (R110). -/
  tok : Option Nat := none
  deriving DecidableEq, Repr

/-- A heavy issue accepted and not applied (R120). -/
structure Issue where
  unit : Nat
  op : Nat
  band : Nat
  word : Word
  cyc : Nat
  step : Nat
  deriving DecidableEq, Repr

/-- A heavy return on its way (R123): word j goes to mailbox (base + j) mod 256 of every member of the band. -/
structure Ret where
  band : Nat
  base : Nat
  words : List Word
  cyc : Nat
  deriving DecidableEq, Repr

/-- Where a QPORT request stands (R132, R133, R216). -/
inductive QStage where
  | hub             -- passed to the hub, not accepted by a controller
  | atController    -- accepted; a read waits to be served
  | reorder         -- the response is in the reorder buffer
  | ready           -- the response is in the tile's response buffer
  deriving DecidableEq, Repr

/-- A QPORT request and its place (R130, R132): a QRD holds it until its QPOP, a QWD until the hand-off. -/
structure QReq where
  id : Nat
  write : Bool
  addr : Nat
  data : Word
  oor : Bool
  stage : QStage
  resp : List Word
  poisoned : Option Nat
  t0 : Word
  deriving DecidableEq, Repr

/-- One QPORT queue of a tile (R132 to R134). -/
structure QPort where
  places : List QReq
  credits : Nat
  nextId : Nat
  latch : Word
  deriving DecidableEq, Repr

def QPort.reset : QPort := { places := [], credits := 0, nextId := 0, latch := 0 }

/-- The heavy-unit latches, registers and counters of a tile (R122, R137, R143). -/
structure Units where
  tmem : Tbl Word
  cmpMask : Word
  cmpVal : Word
  msg : Word
  ldsel : Nat
  cnt : Tbl Word
  q0 : QPort
  q1 : QPort
  issues : List Issue
  returns : List Ret
  tokens : Nat
  deriving DecidableEq, Repr

def Units.reset : Units :=
  { tmem := [], cmpMask := 0, cmpVal := 0, msg := 0, ldsel := 0, cnt := [], q0 := .reset, q1 := .reset,
    issues := [], returns := [], tokens := 0 }

/-- What a tile stores for its BPs (R57, R62, R66, R70, R84): tables keyed by BP or band. -/
structure Store where
  imem : Tbl StepWord
  imemFill : StepWord
  ftab : Tbl (BitVec 17)
  rtab : Tbl (BitVec 32)
  ptab : Tbl (BitVec 16)
  badParity : List (Nat × Nat)
  ds : Tbl Bool
  written : Tbl Bool
  win : Tbl Bool
  ports : Tbl Bool
  mbxVal : Tbl Bool
  mbxHere : Tbl Bool
  holdVal : Tbl Bool
  holdHere : Tbl Bool
  shadow : Tbl Bool
  ckShadow : Tbl Bool
  cntShadow : Tbl Word
  deriving DecidableEq, Repr

def Store.reset : Store :=
  { imem := [], imemFill := 0, ftab := [], rtab := [], ptab := [], badParity := [], ds := [], written := [],
    win := [], ports := [], mbxVal := [], mbxHere := [], holdVal := [], holdHere := [], shadow := [],
    ckShadow := [], cntShadow := [] }

/-- One physical tile.  `mv` is its regulator's voltage in mV (R151, R152); `unloaded` marks a spare that stands in for a
logical tile and awaits its content from the golden copy (R418, R426); `lent` are the words (storage, key, value) that the hub
has handed it for one use, where a rewrite did not hold (R414); `testFenced`: its last TILE_TEST began after it was fenced
(R420); `dsHit` are the DS rows (BP, row) that failed parity and await a rollback, `dsBad` those awaiting their first write
after one (R415). -/
structure Tile where
  st : Store
  un : Units
  phase : Phase
  step : Nat
  cycle : Nat
  mbxCycle : Nat
  windows : List Window
  released : List Flit
  retention : Bool
  mv : Nat
  unloaded : Bool
  testing : Bool
  testOk : Bool
  /-- Declared dead (R416); the flag of TILE_STAT. -/
  dead : Bool
  hardTimes : List Word
  genLog : List (Nat × Nat × Bool)
  since : Word
  wait : Option (Nat × Nat)
  dsHit : List (Nat × Nat)
  dsBad : List (Nat × Nat)
  lent : List (Nat × Nat × Nat)
  testFenced : Bool
  deriving DecidableEq, Repr

def Tile.reset : Tile :=
  { st := .reset, un := .reset, phase := .idle, step := 0, cycle := 0, mbxCycle := 0, windows := [], released := [],
    retention := true, mv := 450, unloaded := false, testing := false, testOk := false, dead := false, hardTimes := [], genLog := [], since := 0, wait := none,
    dsHit := [], dsBad := [], lent := [], testFenced := false }

/-- A region of a bank saved in a 64-word buffer of its die (R201, R203). -/
structure Saved where
  bank : Nat
  region : Nat
  words : List Word
  deriving DecidableEq, Repr

/-- Per fabric die: the token pointer (R145), the next region of the transparent test (R436), the region under test in its
save buffer (R203), the copy engine's four save buffers, the oldest first (R201), the PLL target (R151), and whether B stayed
below or at TOK_BUD over the present 100 µs (R149). -/
structure Die where
  tokPtr : Nat
  ttNext : Nat
  tt : Option Saved
  ttAbort : Bool
  save : List Saved
  pllTarget : Option Nat
  below : Bool
  atBudget : Bool
  deriving DecidableEq, Repr

def Die.reset : Die :=
  { tokPtr := 0, ttNext := 0, tt := none, ttAbort := false, save := [], pllTarget := none, below := true, atBudget := true }

/-- The exchange between stops (R95 to R114). -/
structure Exch where
  flits : List Flit
  peerMap : Tbl (Nat × Nat)
  peerBegun : Tbl Nat
  sentBegun : Tbl Nat
  deriving DecidableEq, Repr

/-- An input record (R39). -/
structure InRec where
  cyc : Nat
  flags : Word
  entries : Tbl Word
  deriving DecidableEq, Repr

/-- Why the hub holds the run at C8 (R229, R296, R426, R452). -/
inductive Hold where
  | retrain
  | recal (n : Nat)
  | rollback
  deriving DecidableEq, Repr

/-- The run (R41 to R48, R360).  `next` is the cycle at which each logical tile resumes after a stop (R42, R44); `fltAt` is the device time at which the fault of FLT_FIRST reached the hub (R186). -/
structure Run where
  active : Bool
  first : Nat
  stopMask : Word
  ctx : Nat
  job : Option (Nat × Nat)
  stopAt : Option Nat
  cause : Option Nat
  faultStop : Bool
  partialStop : Bool
  swapped : Bool
  record : Option InRec
  grant : Nat
  ticks : Nat
  missed : Option Nat
  holds : List Hold
  stopFlags : Word
  admClk : Tbl Nat
  fltAt : Word
  next : Tbl Nat
  deriving DecidableEq, Repr

def Run.reset : Run :=
  { active := false, first := 0, stopMask := 0, ctx := 0, job := none, stopAt := none, cause := none,
    faultStop := false, partialStop := false, swapped := false, record := none, grant := 0,
    ticks := 0, missed := none, holds := [], stopFlags := 0, admClk := [], fltAt := 0, next := [] }

/-- A QREGION entry (R165). -/
structure QRegion where
  base : Nat
  len : Nat
  rw : Bool
  init : Nat
  mask : Nat
  deriving DecidableEq, Repr

/-- A WAITPROF record (R176). -/
structure WaitRec where
  dies : BitVec 64
  nTmem : Nat
  nCnt : Nat
  nQport : Nat
  nSame : Nat
  nOther : Nat
  nDev : Nat
  sumH : Nat
  sumF : Nat
  sumHsd : Nat
  sumFsd : Nat
  xsteps : Nat
  deriving DecidableEq, Repr

/-- What the resident image declares (R160 to R178). -/
structure Image where
  len : Nat
  debug : Bool
  protect : Bool
  devMask : Nat
  runId : Word
  tiles : BitVec 64
  peakTok : BitVec 32
  probeCnt : Nat
  inQ : BitVec 64
  outQ : BitVec 64
  qUsed : BitVec 128
  banks : BitVec 128
  regions : List QRegion
  bankReq : Tbl Nat
  msgBind : Tbl Nat
  probeMap : List (Nat × Nat × Nat × Nat)
  prot : List (Nat × Nat × Nat)
  waitProf : Tbl (List WaitRec)
  mbxUse : Tbl (BitVec 256)
  devTargets : List (Nat × Nat × Nat)
  nTracept : Nat
  nHeavy : Tbl Nat
  deriving DecidableEq, Repr

def Image.none : Image :=
  { len := 0, debug := false, protect := false, devMask := 0, runId := 0, tiles := 0, peakTok := 0, probeCnt := 0,
    inQ := 0, outQ := 0, qUsed := 0, banks := 0, regions := [], bankReq := [], msgBind := [], probeMap := [],
    prot := [], waitProf := [], mbxUse := [], devTargets := [], nTracept := 0, nHeavy := [] }

/-! ## Banks and DRAM -/

/-- A word of a bank as stored: the 64 bits and the parity bit, bit 64 (R190). -/
abbrev BankWord := BitVec 65

/-- A TMEM access that waits on a region (R200, R202, R204): the issue, and the physical tile that made it. -/
structure Waiting where
  tile : Nat
  iss : Issue
  deriving DecidableEq, Repr

/-- One bank (R190 to R206).  `prev` is the word written last and what it held before (R199); `touched` marks the regions
written since a swap initialised the bank (R200); `map0` to `map2` are the voted copies of the map of the four spare regions:
13 bits each, the region it stands for below a valid bit (R205); `repair` is a word that the hub rewrites, and the TMEM access
that waits for it, if one does; `due` is the cycle whose begin is the handover point of a pending owner (R196). -/
structure Bank where
  words : Tbl BankWord
  prev : Option (Nat × BankWord)
  dirty : Tbl Bool
  pend : Tbl Bool
  touched : Tbl Bool
  map0 : BitVec 52
  map1 : BitVec 52
  map2 : BitVec 52
  repair : Option (Nat × Option Waiting)
  testing : Bool
  due : Option Nat
  deriving DecidableEq, Repr

def Bank.reset : Bank :=
  { words := [], prev := none, dirty := [], pend := [], touched := [], map0 := 0, map1 := 0, map2 := 0, repair := none,
    testing := false, due := none }

/-- Who waits for a DRAM request: a QRD or QWD of physical tile p, queue q, request id, or nobody. -/
inductive Src where
  | qport (p q id : Nat)
  | other
  deriving DecidableEq, Repr

/-- A request at a controller: a 64-byte read, or a write of the bytes that the mask names (R212, R213); `seq` numbers the
requests in the order of acceptance (R214). -/
structure DReq where
  src : Src
  write : Bool
  line : Nat
  mask : BitVec 64
  data : BitVec 512
  aged : Bool
  seq : Nat
  deriving DecidableEq, Repr

/-- One DRAM channel (R212 to R229).  `accepted` counts the requests accepted; `ring1At` is the HUBCLK period in which one from
main ring 1 was accepted last (R212). -/
structure Chan where
  accepted : Nat
  ring1At : Option Nat
  arriving : List DReq
  readQ : List DReq
  wbuf : List DReq
  selfRefresh : Bool
  rankPd : BitVec 4
  act : Tbl (List (Nat × Nat))
  ceDev : Tbl (List Word)
  trained : Bool
  fail : Nat
  retrainDue : Bool
  retraining : Bool
  refused : Bool
  trainTemp : Int
  deriving DecidableEq, Repr

def Chan.reset : Chan :=
  { accepted := 0, ring1At := none, arriving := [], readQ := [], wbuf := [], selfRefresh := false, rankPd := 0, act := [], ceDev := [],
    trained := false, fail := 0, retrainDue := false, retraining := false, refused := false, trainTemp := 0 }

/-- DRAM: its bytes, the ranges whose contents were lost with the loss count, the bytes written since, what is wrong with a
line when it is read (R217), the channels,
and the configuration of DRAMCFG (R401). -/
structure Dram where
  bytes : Tbl Byte
  lost : List (Nat × Nat × Nat)
  rewritten : Tbl Bool
  bad : Tbl DramErr
  losses : Nat
  chans : Tbl Chan
  lpddr : Bool
  ranks : Nat
  dimms : Nat
  capLog2 : Nat
  rowBits : Nat
  colBits : Nat
  bankBits : Nat
  refresh2x : Bool
  rfm : Bool
  deriving DecidableEq, Repr

def Dram.reset : Dram :=
  { bytes := [], lost := [], rewritten := [], bad := [], losses := 0, chans := [], lpddr := false, ranks := 0, dimms := 0,
    capLog2 := 0, rowBits := 0, colBits := 0, bankBits := 0, refresh2x := false, rfm := false }

/-! ## Rim and array queues -/

/-- An entry of an output array queue (R103 to R105, R250). -/
structure OEntry where
  cyc : Nat
  bits : Word
  got : Word
  visible : Bool
  valid : Bool
  deriving DecidableEq, Repr

/-- The 128 array queues (R248 to R254). -/
structure Aq where
  inq : Tbl (List Word)
  outq : Tbl (List OEntry)
  outSkip : Tbl Nat
  deriving DecidableEq, Repr

/-- RIM_STAT.STATE (R261). -/
inductive RimState where
  | noConfig
  | held
  | running
  | decodeFail
  deriving DecidableEq, Repr

/-- A delay line: the target setting and the tap it stands at (R257). -/
structure DelayLine where
  target : Nat
  tap : Nat
  deriving DecidableEq, Repr

/-- A snapshot of the rim under way (R262, R263). -/
structure RimSnap where
  clk : Nat
  src : Nat
  t : Word
  fired : Bool
  deriving DecidableEq, Repr

/-- The registers of one I/O cell (R255). -/
structure IoReg where
  inR : Bool
  inF : Bool
  outR : Bool
  outF : Bool
  oe : Bool
  deriving DecidableEq, Repr

def IoReg.reset : IoReg := { inR := false, inF := false, outR := false, outF := false, oe := false }

/-- A rim shadow (R262, R263): the timebase value of the edge, and every flip-flop and I/O register at it. -/
structure RimShot where
  t : Word
  flops : Tbl Bool
  io : Tbl IoReg
  deriving DecidableEq, Repr

/-- The last OE and OUT level of a bypass pin, which DOZE_HOLD holds (R259). -/
structure HeldPin where
  oe : Bool
  level : Bool
  deriving DecidableEq, Repr

/-- The rim (R240 to R263): the configuration in force, its frames and the hub's copy of them; the flip-flops by cell and the
I/O registers by pin; `live`, the groups of pins that have left the safe state; `held`, the levels of bypass
pins in DOZE; `phase`, how far the divider of each RIMCLK has counted; PACE_TICK, and a tick not yet shown. -/
structure Rim where
  state : RimState
  release : Bool
  softReset : Bool
  frames : List Byte
  store : List Byte
  net : RimNet
  flops : Tbl Bool
  io : Tbl IoReg
  live : BitVec 24
  held : Tbl HeldPin
  phase : Tbl Nat
  paceDue : Bool
  paceTick : Bool
  usedClks : BitVec 8
  clkRun : BitVec 8
  pllLock : BitVec 4
  delay : Tbl DelayLine
  calibrated : Bool
  want : Option RimSnap
  shadow : Option RimShot
  deriving DecidableEq, Repr

def Rim.reset : Rim :=
  { state := .noConfig, release := false, softReset := false, frames := [], store := [], net := .empty, flops := [], io := [],
    live := 0, held := [], phase := [], paceDue := false, paceTick := false, usedClks := 0, clkRun := 0,
    pllLock := 0, delay := [], calibrated := false, want := none, shadow := none }

/-! ## Lane ports -/

/-- One lane of a port: as received, and its equalisation (R274 to R281, R310); `hist` holds the last 16 codewords, a bit set
for an uncorrectable one, and `gap` whether the last expected comma was missing (R281). -/
structure Lane where
  syms : Reg
  hist : BitVec 16
  gap : Bool
  inv : Bool
  logical : Nat
  failed : Bool
  eqBad : Bool
  eq : BitVec 64
  eqNext : BitVec 64
  deriving DecidableEq, Repr

def Lane.reset : Lane := { syms := 0, hist := 0, gap := false, inv := false, logical := 0, failed := false, eqBad := false, eq := 0, eqNext := 0 }

/-- What a transmit lane puts on its pair: a comma, a symbol of a codeword, or the exit burst (R273, R274, R298). -/
inductive Line where
  | comma (b : BitVec 66)
  | sym (x : BitVec 10)
  | burst
  deriving DecidableEq, Repr

/-- One transmit lane (R272, R273): the scrambler's last 58 bits, the bits that fill no symbol yet, the message symbols of
the codeword under way, the codewords of the period, the parity so far, and what has gone out, the newest first. -/
structure TxLane where
  scr : BitVec 58
  part : BitVec 10
  bits : Nat
  msg : Nat
  cw : Nat
  parity : BitVec 300
  out : List Line
  deriving DecidableEq, Repr

def TxLane.reset : TxLane := { scr := 0, part := 0, bits := 0, msg := 0, cw := 0, parity := 0, out := [] }

/-- A packet the device sends (R283, R284). -/
structure Pkt where
  vc : Nat
  kind : Nat
  seq : Nat
  words : List Word
  deriving DecidableEq, Repr

/-- Link layer and bring-up of one port (R277 to R306): `rxStripe` is ACT of the partner's last comma, `early` the VC2 units
sent before its HELLO, `ctlHalf` whether half of the next CTL_RX word has been read, `ctlOld` the packets of CTL_RX from
before the link layer last restarted, `drive` the lanes that transmit, `row` and `col` the place in their alignment period, `wire` the blocks
of the port's stream but IDLE. -/
structure Port where
  state : Nat
  fail : Nat
  ended : Bool
  recalRefused : Bool
  lanes : Tbl Lane
  rxAct : BitVec 4
  txAct : BitVec 4
  txDrop : BitVec 4
  rxLost : BitVec 4
  rxStripe : BitVec 4
  commaDev : Nat
  helloSeen : Bool
  helloGot : Bool
  early : Nat
  ackSent : Bool
  ackGot : Bool
  txSeq : Nat
  rxSeq : Nat
  rdy : List Pkt
  unacked : List Pkt
  resend : Nat
  advertised : Tbl Nat
  txUnits : Tbl Nat
  txFreed : Tbl Nat
  rxUnits : Tbl Nat
  rxFreed : Tbl Nat
  creditDue : Bool
  ackDue : Bool
  errSince : Bool
  lastNak : Option (Nat × Word)
  timeouts : Nat
  pings : List Nat
  pingTag : Nat
  lats : List Nat
  ctlRx : List (List Word)
  ctlHalf : Bool
  ctlOld : Nat
  ctlTx : List Word
  eidleReq : Bool
  eidleTx : Bool
  eidleRx : Bool
  recal : Bool
  viols : List Word
  runInfo : List Word
  markRx : Word
  wire : List (BitVec 66)
  drive : BitVec 4
  row : Nat
  col : Nat
  tx : Tbl TxLane
  deriving DecidableEq, Repr

def Port.reset : Port :=
  { state := 0, fail := 0, ended := false, recalRefused := false, lanes := [], rxAct := 0, txAct := 0, txDrop := 0, rxLost := 0,
    rxStripe := 0, commaDev := 0, helloSeen := false, helloGot := false, early := 0, ackSent := false, ackGot := false, txSeq := 0, rxSeq := 0,
    rdy := [], unacked := [], resend := 0, advertised := [], txUnits := [], txFreed := [], rxUnits := [],
    rxFreed := [], creditDue := false, ackDue := false, errSince := false, lastNak := none, timeouts := 0,
    pings := [], pingTag := 0, lats := [], ctlRx := [], ctlHalf := false, ctlOld := 0, ctlTx := [], eidleReq := false, eidleTx := false,
    eidleRx := false, recal := false, viols := [], runInfo := [], markRx := 0, wire := [],
    drive := 0, row := 0, col := 0, tx := [] }

/-! ## Markhor -/

/-- An event at Markhor (R321): source, FRAC and times, the channel whose detector fired with the trigger sample's
index, the cycle of a CMP event and its tag of die, logical tile and band (R138); `arr` is the device time of its arrival. -/
structure MEvent where
  src : Nat
  frac : Nat
  time : Word
  stamp : Word
  idx : Nat
  cyc : Nat
  tag : Option (Nat × Nat × Nat)
  arr : Word
  deriving DecidableEq, Repr

/-- A sample in a staging ring: its value as it came (the ring's banks hold it too, R331), whether it stands for a missing one,
its stream time (device time on channel 32), the device stamp and number of its packet (cycle on channel 32), its place in the
packet, its number in its channel, its place in bank space, and how many were dropped just before it. -/
structure Sample where
  v : Nat
  missing : Bool
  time : Word
  stamp : Word
  sseq : Nat
  pidx : Nat
  num : Nat
  at_ : Nat
  lost : Nat
  deriving DecidableEq, Repr

/-- A segment (R328 to R333); `ord` is its place in the order of trigger decisions: period and channel; `places` are those of its
undrained samples in bank space, oldest first, `out` the samples that the drain has taken and `perr` whether it met a parity
error; `base` and `cap` are the ring's address in bank space and its size in samples; then what the registers and the stream
gave when it began, the buffer's base and the allocated offset at its commit. -/
structure Seg where
  num : Nat
  ord : Nat
  frac : Nat
  tstamp : Word
  stamp : Word
  sseq : Nat
  index : Nat
  fromSeq : Bool
  missing : Nat
  incomplete : Bool
  places : List Nat
  out : List Nat
  perr : Bool
  base : Nat
  cap : Nat
  width : Nat
  pre : Nat
  len : Nat
  post : Nat
  red : Nat
  redK : Nat
  fmt : Nat
  acq : Nat
  committed : Option Nat
  deriving DecidableEq, Repr

/-- An acquisition channel (R316 to R335).  `state`: 0 IDLE, 1 WAIT_TRIG, 2 POST, 3 REARM.  `count` numbers the samples
since power-on; `left` are segments of an earlier arming that have not drained; `pend` is a trigger decided before its trigger
sample: its order, and the cycle it names if any; `fmt` and `cls` are the format and the rate class of the last packet, `wp` the
next place of the ring, `lost` the samples dropped since the last one stored. -/
structure MChan where
  state : Nat
  armRise : Bool
  armFall : Bool
  armWin : Bool
  fmt : Option Nat
  cls : Option Nat
  wp : Nat
  lost : Nat
  last : Option Sample
  lastSseq : Option Nat
  expect : Word
  ring : List Sample
  count : Nat
  since : Nat
  seg : Option Seg
  pend : Option (Nat × Option Nat)
  segs : Nat
  drain : List Seg
  left : List Seg
  rateExceed : Bool
  overflow : Bool
  stopped : Bool
  deriving DecidableEq, Repr

def MChan.reset : MChan :=
  { state := 0, armRise := false, armFall := false, armWin := false, fmt := none, cls := none, wp := 0, lost := 0, last := none, lastSseq := none,
    expect := 0, ring := [], count := 0, since := 0, seg := none, pend := none, segs := 0, drain := [], left := [],
    rateExceed := false, overflow := false, stopped := false }

/-- A TRIG_OUT pulse that is due or active (R326). -/
structure Pulse where
  due : List Word
  active : Bool
  ext : Bool
  deriving DecidableEq, Repr

/-- Markhor.  `state`: 0 DISARMED, 2 ARMED, 3 DONE (R341; ARMING is an arm job that is dispatched). -/
structure Mkh where
  state : Nat
  stage : Nat
  count : Nat
  fires : Nat
  queue : List MEvent
  sticky : Word
  chans : Tbl MChan
  wp : Nat
  pulses : Tbl Pulse
  probes : List (Nat × Nat × Word)
  probeGot : List (Nat × Nat × Word)
  probeDone : Nat
  logWp : Nat
  deriving DecidableEq, Repr

def Mkh.reset : Mkh :=
  { state := 0, stage := 0, count := 0, fires := 0, queue := [], sticky := 0, chans := [], wp := 0, pulses := [],
    probes := [], probeGot := [], probeDone := 0, logWp := 0 }

/-! ## Saiga, FIFOs, log -/

/-- Where a job stands between acceptance and release (R350 to R364). -/
inductive JobPhase where
  | accepted
  | copied
  | inContext
  | ready
  | dispatched
  | running
  | finished
  deriving DecidableEq, Repr

/-- A job accepted and not released: its descriptor, and what its completion will hold (R353, R361).  Of a COPY that runs:
the ranges of bank words that engines of the other port have finished writing meanwhile, and what the words of its source
held before (R198, R199). -/
structure Job where
  q : Nat
  seq : Nat
  desc : BitVec 512
  phase : JobPhase
  order : Nat
  status : Nat
  result : Word
  detail : Word
  workDone : Bool
  aborted : Bool
  holds : Bool
  met : List (Nat × Nat)
  olds : Tbl (Option Word)
  deriving DecidableEq, Repr

/-- The counters of a submission queue (R348 to R351, R365). -/
structure SQueue where
  tail : Nat
  cqTail : Nat
  cqHead : Nat
  done : Nat
  used : Bool
  unann : Nat
  timer : Bool
  deriving DecidableEq, Repr

def SQueue.reset : SQueue := { tail := 0, cqTail := 0, cqHead := 0, done := 0, used := false, unann := 0, timer := false }

/-- An abort in progress (R366 to R368): target 0 job, 1 queue, 2 run, 3 device. -/
structure Abort where
  target : Nat
  q : Nat
  seq : Nat
  result : Nat
  count : Nat
  deriving DecidableEq, Repr

/-- Saiga and the interrupts; `fresh`: the flags set in the present HUBCLK period (R357); `flr`: the abort in progress is a Function Level Reset's, which resets the queues (R344). -/
structure Saiga where
  queues : Tbl SQueue
  jobs : List Job
  flags : Tbl Word
  fresh : Tbl Word
  serial : Nat
  abort : Option Abort
  flr : Bool
  abortRes : Nat
  abortCnt : Nat
  msixPend : Word
  msixSent : Tbl Nat
  conds : Word
  deriving DecidableEq, Repr

def Saiga.reset : Saiga :=
  { queues := [], jobs := [], flags := [], fresh := [], serial := 0, abort := none, flr := false, abortRes := 0, abortCnt := 0, msixPend := 0,
    msixSent := [], conds := 0 }

/-- A message FIFO (R369 to R371): ended packets, oldest first, the open packet, whether the head packet is claimed. -/
structure MsgFifo where
  vis : List (List Word)
  opn : List Word
  claimed : Bool
  last : Word
  deriving DecidableEq, Repr

def MsgFifo.reset : MsgFifo := { vis := [], opn := [], claimed := false, last := 0 }

/-- An event log entry (R373). -/
structure Ev where
  time : Word
  code : Nat
  page : Nat
  detail : Reg
  deriving DecidableEq, Repr

/-- The event log (R373): its entries, oldest first, and words of the last popped one. -/
structure Evl where
  log : List Ev
  last : Option Ev
  deriving DecidableEq, Repr

/-! ## Loader, keys, scrubber, recovery -/

/-- An image slot's state: 0 EMPTY, 1 LOADING, 2 VALID, 3 INVALID (R408), and whether its container used BBRAM. -/
structure Slot where
  st : Nat
  bbram : Bool
  deriving DecidableEq, Repr

/-- The configuration loader (R393 to R408); `driven` are the bytes of this load that the device, as master, has put on the boot
bus (R392); `stateB` and `stateC` are the other two voted copies of the configuration state (R433); `hadImage`:
an image was resident when the swap under way began (R405). -/
structure Cfg where
  state : Nat
  stateB : Nat
  stateC : Nat
  rx : List Byte
  frm : Bool
  driving : Bool
  driven : List Byte
  staged : Bool
  clearDue : Bool
  shellDone : Bool
  fwOn : Bool
  trained : Bool
  slots : Tbl Slot
  resSlot : Nat
  resValid : Bool
  hadImage : Bool
  resEnc : Bool
  resBbram : Bool
  err : Reg
  loading : Option Nat
  swapping : Option Nat
  deriving DecidableEq, Repr

def Cfg.reset : Cfg :=
  { state := 0, stateB := 0, stateC := 0, rx := [], frm := false, driving := false, driven := [], staged := false, clearDue := false, shellDone := false,
    fwOn := false, trained := false, slots := [], resSlot := 0, resValid := false, hadImage := false, resEnc := false,
    resBbram := false, err := 0, loading := none, swapping := none }

/-- The configuration state takes a value, in its three copies. -/
def Cfg.goTo (c : Cfg) (n : Nat) : Cfg := { c with state := n, stateB := n, stateC := n }

/-- Keys and fuses (R388 to R390, R409, R410, R481). -/
structure Keys where
  fuseKey : BitVec 256
  fuseSet : Bool
  plainDis : Bool
  bbramDis : Bool
  hostBootDis : Bool
  devId : BitVec 128
  bin : Nat
  vf : Tbl Nat
  bbKey : BitVec 256
  bbSet : Bool
  tampered : Bool
  keyWords : List Reg
  keyBuf : List Reg
  prog : Option Nat
  progFail : Bool
  deriving DecidableEq, Repr

def Keys.reset : Keys :=
  { fuseKey := 0, fuseSet := false, plainDis := false, bbramDis := false, hostBootDis := false, devId := 0, bin := 0,
    vf := [], bbKey := 0, bbSet := false, tampered := false, keyWords := [], keyBuf := [], prog := none,
    progFail := false }

/-- Chamois: scrubbing and voting (R429 to R433).  `v1`, `v2` are copies 1 and 2 of the voted registers; copy 0 is the
register store.  `seq0` to `seq2` are the voted copies of the sequencer's state, the region that it has come to (R432). -/
structure Scr where
  committed : Bool
  commitBusy : Bool
  halted : Bool
  refs : Tbl (BitVec 32)
  eqCopy : Tbl Word
  v1 : Tbl Reg
  v2 : Tbl Reg
  seq0 : BitVec 32
  seq1 : BitVec 32
  seq2 : BitVec 32
  deriving DecidableEq, Repr

def Scr.reset : Scr :=
  { committed := false, commitBusy := false, halted := false, refs := [], eqCopy := [], v1 := [], v2 := [], seq0 := 0, seq1 := 0, seq2 := 0 }

/-- What a checkpoint holds of one tile (R423): where it stood, and its state at the boundary. -/
structure TileSave where
  phys : Nat
  ds : Tbl Bool
  win : Tbl Bool
  ports : Tbl Bool
  un : Units
  gen1 : List (Nat × Nat × Bool)
  deriving DecidableEq, Repr

/-- A checkpoint (R423). -/
structure Ckpt where
  cyc : Nat
  grant : Nat
  tiles : List (Nat × TileSave)
  banks : List (Nat × Tbl BankWord)
  record : Option InRec
  deriving DecidableEq, Repr

/-- An entry of the QWD journal (R425): the queue and request that wrote, the address, the 8 bytes overwritten. -/
structure Undo where
  tile : Nat
  q : Nat
  id : Nat
  addr : Nat
  old : Word
  deriving DecidableEq, Repr

/-- Recovery (R416 to R427).  `counts` are the operations that have left the array since the last checkpoint, `shown` one past
the last cycle whose entry each output queue has shown; `upto` is the cycle at which a re-execution has passed the last
journaled record. -/
structure Recov where
  active : Bool
  last : Option Ckpt
  next : Option Ckpt
  early : Option Nat
  journal : List InRec
  undo : List Undo
  counts : Tbl Nat
  countsAt : Tbl Nat
  rolling : Bool
  replay : List InRec
  skip : Tbl Nat
  shown : Tbl Nat
  redone : Nat
  upto : Nat
  fail : Nat
  rollbacks : Nat
  deriving DecidableEq, Repr

def Recov.reset : Recov :=
  { active := false, last := none, next := none, early := none, journal := [], undo := [], counts := [],
    countsAt := [], rolling := false, replay := [], skip := [], shown := [], redone := 0, upto := 0, fail := 0, rollbacks := 0 }

/-! ## Trace, power, test port -/

/-- One trace stream (R444 to R452): the open line, the lines that the packet being written completes, the place of the oldest
staged line in the staging memory (of a die stream, the bank `bank`) and how many are staged, and the packet base. -/
structure Stream where
  opn : List Word
  lines : List (List Word)
  bank : Nat
  rd : Nat
  staged : Nat
  lastT : Word
  lastCyc : Nat
  count : Nat
  dropped : Nat
  sync : Option Nat
  deriving DecidableEq, Repr

def Stream.reset : Stream :=
  { opn := [], lines := [], bank := 0, rd := 0, staged := 0, lastT := 0, lastCyc := 0, count := 0, dropped := 0, sync := some 2 }

/-- A snapshot job under way (R262, R363, R460): the array part waits for C7 of a cycle, or is captured. -/
structure SnapJob where
  q : Nat
  seq : Nat
  cyc : Option Nat
  wantArr : Bool
  gotArr : Option Nat
  wantRim : Bool
  gotRim : Bool
  arrStatus : Nat
  rimStatus : Nat
  deriving DecidableEq, Repr

/-- Chital (R444 to R460).  `hubMem` is the staging memory of the hub stream, by word (R445); `order` names the stream of
every staged line, in the order of completion. -/
structure Trc where
  streams : Tbl Stream
  hubMem : Tbl Word
  order : List Nat
  wp : Nat
  snap : Option SnapJob
  arrShadow : Bool
  held : Bool
  nonceOk : Bool
  token : List Reg
  authFails : Nat
  unlocked : Bool
  deriving DecidableEq, Repr

def Trc.reset : Trc :=
  { streams := [], hubMem := [], order := [], wp := 0, snap := none, arrShadow := false, held := false, nonceOk := false, token := [],
    authFails := 0, unlocked := false }

/-- Power states (R488 to R495).  `state`: 0 RUN, 1 IDLE, 2 DOZE. -/
structure Pwr where
  state : Nat
  entering : Option Nat
  exiting : Bool
  thenIdle : Bool
  reason : Nat
  hot : Bool
  deriving DecidableEq, Repr

def Pwr.reset : Pwr :=
  { state := 0, entering := none, exiting := false, thenIdle := false, reason := 0, hot := false }

/-- The test access port (R517, R518): the instruction, the identity and bypass registers, what the boundary cells captured and
hold, and whether a scan has been in force. -/
structure Tap where
  ir : BitVec 8
  idcode : BitVec 32
  bypass : Bool
  capture : BitVec 4362
  cells : BitVec 4362
  scanned : Bool
  deriving DecidableEq, Repr

/-- The steppings (R23). -/
inductive Stepping where
  | a0
  | b0
  deriving DecidableEq, Repr

/-- How far start-up has come (R500). -/
inductive BootPhase where
  | held
  | released
  | locked
  | up
  deriving DecidableEq, Repr

/-- Package, straps, references and supplies (R486, R487, R496 to R500); `store` is the 2 Gbit boot store (R11, R391);
`porst`, PORST_N has been low since its last release; `vio` and `trst`, VIO is present and TRST_N is low (R499, R517). -/
structure Hw where
  store : Tbl Byte
  stepping : Stepping
  straps : BitVec 8
  boot : BootPhase
  pwrgd : Bool
  thermtrip : Bool
  regulators : Bool
  vaux33 : Bool
  vio : Bool
  porst : Bool
  trst : Bool
  refclk : Bool
  refLost : Bool
  laneRef : BitVec 4
  pcieRef : Bool
  d3hot : Bool
  l1 : Bool
  deriving DecidableEq, Repr

/-- What the last read returned to the host (R346, R463): the data, and whether the completion is poisoned. -/
structure Bus where
  data : Word
  bytes : List Byte
  poisoned : Bool
  deriving DecidableEq, Repr

/-- The state of the device. -/
structure State where
  hw : Hw
  regs : Tbl Reg
  hold : Tbl (Nat × Nat × Nat × Nat)
  bus : Bus
  tb : Word
  tiles : Tbl Tile
  dies : Tbl Die
  ex : Exch
  run : Run
  img : Image
  banks : Tbl Bank
  dram : Dram
  aq : Aq
  rim : Rim
  ports : Tbl Port
  mkh : Mkh
  saiga : Saiga
  msg : Tbl MsgFifo
  evl : Evl
  cfg : Cfg
  keys : Keys
  scr : Scr
  recov : Recov
  trc : Trc
  pwr : Pwr
  tap : Tap
  host : Tbl Byte
  freeCount : Nat
  pending : List Instr
  deriving DecidableEq, Repr

/-- Right after reset: every register at its reset value (the store lists none), nothing in flight, no run, an empty
command queue.  Values the spec does not state are named in assumptions 3 to 9, 13 and 81. -/
def State.reset : State :=
  { hw := { store := [], stepping := .b0, straps := 0, boot := .held, pwrgd := false, thermtrip := false, regulators := true,
            vaux33 := true, vio := true, porst := true, trst := false, refclk := true, refLost := false, laneRef := 0xF, pcieRef := true, d3hot := false,
            l1 := false }
    regs := []
    hold := []
    bus := { data := 0, bytes := [], poisoned := false }
    tb := 0
    tiles := []
    dies := []
    ex := { flits := [], peerMap := [], peerBegun := [], sentBegun := [] }
    run := .reset
    img := .none
    banks := []
    dram := .reset
    aq := { inq := [], outq := [], outSkip := [] }
    rim := .reset
    ports := []
    mkh := .reset
    saiga := .reset
    msg := []
    evl := { log := [], last := none }
    cfg := .reset
    keys := .reset
    scr := .reset
    recov := .reset
    trc := .reset
    pwr := .reset
    tap := { ir := 0x02, idcode := 0x164165A7, bypass := false, capture := 0, cells := 0, scanned := false }
    host := []
    freeCount := 0
    pending := [] }

end Sys2Proof.Machine
end

