-- ==== Sys2Proof/Machine/RegMap.lean ====
section
/-!
DEFINITION. The register map (R463 to R485): where each page lies, and for every register its reset value, the bits
software writes (RW, RWV), the bits a read clears (RC) and whether it is voted (RWV).  Registers whose bits are all RO,
WO or live have no write mask here; reserved bits are not stored and read 0 (assumption 12).
-/
namespace Sys2Proof.Machine

/-- The block types (R472). -/
inductive PageKind where
  | glb | pci | job | msg | evl | cfg | fus | pwr | tim | scr | trc | acq | rim | ddr | ddrCommon | lnk | til | bnk
  | none
  deriving DecidableEq, Repr

/-- The page map (R482). -/
def pageKind (i : Nat) : PageKind :=
  if i < 13 then
    match i with
    | 0 => .glb | 1 => .pci | 2 => .job | 3 => .msg | 4 => .evl | 5 => .cfg | 6 => .fus | 7 => .pwr | 8 => .tim
    | 9 => .scr | 10 => .trc | 11 => .acq | _ => .rim
  else if i < 21 then .ddr
  else if i = 21 then .ddrCommon
  else if i < 46 then .lnk
  else if i < 114 then .til
  else if i < 242 then .bnk
  else .none

/-- The number of a page within its type (R471). -/
def pageInstance (i : Nat) : Nat :=
  match pageKind i with
  | .ddr => i - 13
  | .ddrCommon => 8
  | .lnk => i - 22
  | .til => i - 46
  | .bnk => i - 114
  | _ => 0

def PageKind.code : PageKind → Nat
  | .glb => 0x01 | .pci => 0x02 | .job => 0x03 | .msg => 0x04 | .evl => 0x05 | .cfg => 0x06 | .fus => 0x07
  | .pwr => 0x08 | .tim => 0x09 | .scr => 0x0A | .trc => 0x0B | .acq => 0x0C | .rim => 0x0D | .ddr => 0x0E
  | .ddrCommon => 0x0E | .lnk => 0x0F | .til => 0x10 | .bnk => 0x11 | .none => 0

def pGlb : Nat := 0
def pPci : Nat := 1
def pJob : Nat := 2
def pMsg : Nat := 3
def pEvl : Nat := 4
def pCfg : Nat := 5
def pFus : Nat := 6
def pPwr : Nat := 7
def pTim : Nat := 8
def pScr : Nat := 9
def pTrc : Nat := 10
def pAcq : Nat := 11
def pRim : Nat := 12
def pDdr (ch : Nat) : Nat := 13 + ch
def pLnk (n : Nat) : Nat := 22 + n
def pTil (p : Nat) : Nat := 46 + p
def pBnk (b : Nat) : Nat := 114 + b

/-- BAR0 offset of offset `o` on page `pg` (R482). -/
def ro (pg o : Nat) : Nat := pg * 4096 + o

/-- A register of a page: `count` instances `stride` bytes apart. -/
structure RegRow where
  off : Nat
  count : Nat
  stride : Nat
  reset : Nat
  rw : Nat
  rc : Nat
  voted : Bool
  deriving DecidableEq, Repr

def r1 (off reset rw : Nat) : RegRow := ⟨off, 1, 4, reset, rw, 0, false⟩
def rN (off count stride reset rw : Nat) : RegRow := ⟨off, count, stride, reset, rw, 0, false⟩
def rRC (off rc : Nat) : RegRow := ⟨off, 1, 4, 0, 0, rc, false⟩
def rNRC (off count stride rc : Nat) : RegRow := ⟨off, count, stride, 0, 0, rc, false⟩
def rV (off reset rw : Nat) : RegRow := ⟨off, 1, 4, reset, rw, 0, true⟩

def allOnes : Nat := 0xFFFFFFFF

/-- The common header (R470). -/
def rowsHeader : List RegRow :=
  [rRC 0x014 allOnes, r1 0x020 0 allOnes, rRC 0x024 allOnes, rRC 0x030 allOnes, r1 0x040 0 allOnes, r1 0x048 0 1]

/-- GLB (R53 to R56, R117, R186, R438). -/
def rowsGlb : List RegRow :=
  [r1 0x100 0 3, r1 0x120 0 0x1FF, r1 0x124 0x3E8 allOnes, rRC 0x128 allOnes, r1 0x130 0x100000 allOnes,
   r1 0x140 2 7, r1 0x144 0 0, r1 0x148 0 0, r1 0x160 0 0, ⟨0x200, 64, 4, 0, 0xFF1F, 0, true⟩,
   ⟨0x300, 4, 4, 0, 0x1FFFF, 0, true⟩, rN 0x340 16 4 0 0xFFFF, r1 0x380 0x3E8 allOnes,
   r1 0x400 0 1, r1 0x404 0x10000 allOnes, r1 0x408 0 0xFFFFFFC0, r1 0x40C 0 0x1FF, r1 0x410 0 0xFFFFF,
   r1 0x420 0x64 0xFFFF, r1 0x424 0x03E80003 0xFFFF000F, rRC 0x428 allOnes]

/-- PCI (R381, R483): the MSI-X vectors reset masked, as the standard has it (PRESUMED, assumption 13). -/
def rowsPci : List RegRow :=
  [r1 0x080 0 0x1F, rRC 0x088 allOnes, rN 0x800 64 16 0 0xFFFFFFFC, rN 0x804 64 16 0 allOnes,
   rN 0x808 64 16 0 allOnes, rN 0x80C 64 16 1 1]

/-- JOB (R376 to R378). -/
def rowsJob : List RegRow :=
  [rN 0x100 8 0x40 0x100 0xFFFFFF0F, rN 0x104 8 0x40 0 0xFFFFFFC0, rN 0x108 8 0x40 0 0x1FF,
   rN 0x10C 8 0x40 0 0xFFFFFFE0, rN 0x110 8 0x40 0 allOnes, rNRC 0x124 8 0x40 0xF, rNRC 0x128 8 0x40 allOnes]

/-- MSG (R379). -/
def rowsMsg : List RegRow :=
  [rN 0x104 16 0x20 0 0, rNRC 0x10C 16 0x20 3, rNRC 0x110 16 0x20 allOnes, rNRC 0x114 16 0x20 allOnes,
   rN 0x118 16 0x20 0x100 0xFF00]

/-- EVL (R380). -/
def rowsEvl : List RegRow :=
  [rRC 0x094 3, rRC 0x098 allOnes, r1 0x09C 0x10000 0x3FF0000]

/-- CFG (R408, R409). -/
def rowsCfg : List RegRow :=
  [r1 0x0A0 0 0xFC000000, r1 0x0A4 0 0x1FF, r1 0x0A8 0 0x3FFFFF, rV 0x0C0 0 2]

/-- PWR (R156, R158, R501). -/
def rowsPwr : List RegRow :=
  [rV 0x080 0x21C 0x3FF, rRC 0x084 0x700, r1 0x088 0 0, rN 0x090 4 4 0x30 0xFF, rN 0x0A0 4 4 0x30 0,
   rN 0x0B0 4 4 0x640 0x7FF, rN 0x0C0 4 4 0 0, rNRC 0x0D0 4 4 allOnes, r1 0x100 0 3, r1 0x108 0 3,
   rRC 0x10C 7, rN 0x120 5 4 0 0, r1 0x140 0x5F 0xFF, r1 0x144 0x12C 0x3FF]

/-- TIM (R315): TB_HI is a latch. -/
def rowsTim : List RegRow := [r1 0x084 0 0]

/-- SCR (R441, R442). -/
def rowsScr : List RegRow :=
  [rV 0x080 1 1, rV 0x088 0x3E8 0xFFFF, rV 0x08C 0xA 0xFFFF, rRC 0x090 allOnes, r1 0x094 0 0, rRC 0x098 allOnes,
   rRC 0x09C allOnes, r1 0x0A0 0 0, r1 0x0A4 0 0]

/-- TRC (R461, R462). -/
def rowsTrc : List RegRow :=
  [r1 0x080 0x100 0x1FF01FF, r1 0x084 0 0, r1 0x088 0 0xFFFFFFC0, r1 0x08C 0 0x1FF, r1 0x090 0 0xFFFFFFC0,
   r1 0x098 0 0xFFFFFFC0, r1 0x09C 0 allOnes, r1 0x0A0 0x100 0xFFFF, rRC 0x0A4 allOnes, rRC 0x0A8 allOnes,
   r1 0x0B0 0 0, r1 0x0B8 0 0xFFFFFFC0, r1 0x0BC 0 0x1FF, r1 0x0C8 0 0, r1 0x0CC 0 0,
   rN 0x200 64 4 0 0x803FFFFF]

/-- ACQ (R340 to R343).  Channel 32 has no stream fields (R342); taps exist on channel 32 only. -/
def rowsAcq : List RegRow :=
  [r1 0x080 0 4, r1 0x088 1 0x1FFFFF, rRC 0x08C allOnes, r1 0x090 0 0xFFFFFFC0, r1 0x094 0 0x1FF,
   r1 0x098 0 0xFFFFFFC0, r1 0x09C 0 0x1FF, r1 0x0A8 0 0xFFFFFFC0, r1 0x0AC 0 0x1FF, r1 0x0B0 0 0xFFFFFFC0,
   r1 0x0C0 0 0x1FF3F, rRC 0x0C4 allOnes, r1 0x0C8 0 0, rN 0x0D0 4 4 0x3F allOnes, rN 0x0E0 8 4 0 0,
   rN 0x100 8 8 0xFFF 0xFFFF, rN 0x104 8 8 0 allOnes] ++
  [rN 0x400 32 0x40 0 0x7FFF, r1 0xC00 0 0x7001, rN 0x404 32 0x40 0 allOnes, rN 0x408 33 0x40 0 0xFFFFFF,
   rN 0x40C 33 0x40 0 0x1FFFFFF, rN 0x410 33 0x40 0 allOnes, rN 0x414 33 0x40 0 allOnes,
   rN 0x418 33 0x40 0 allOnes, rN 0x41C 33 0x40 0 0x3F7F, rNRC 0x428 33 0x40 allOnes,
   rNRC 0x42C 33 0x40 allOnes, rNRC 0x430 33 0x40 allOnes, rN 0x434 33 0x40 0 0, r1 0xC38 0 allOnes,
   r1 0xC3C 0 allOnes]

/-- RIM (R265, R266). -/
def rowsRim : List RegRow :=
  [r1 0x080 0 5, r1 0x088 0 0, r1 0x0A0 0 0x1E, rRC 0x0A8 allOnes, rRC 0x0AC allOnes, r1 0x0C0 0 0, r1 0x0C4 0 0,
   r1 0x0C8 0 0]

/-- DDR0 to DDR7 (R237). -/
def rowsDdr : List RegRow :=
  [rRC 0x084 allOnes, rRC 0x088 allOnes, r1 0x08C 0 0, r1 0x090 0 0, rRC 0x094 allOnes, rRC 0x098 allOnes,
   rRC 0x09C allOnes, rRC 0x0A0 0xFFFF]

/-- DDR8 (R235, R236). -/
def rowsDdrCommon : List RegRow :=
  [r1 0x080 0x55050A00 0xFFFFFF, r1 0x084 0xFF 0xFF, r1 0x08C 0x1030 0x3F3F, r1 0x090 0x400 0x7FFF,
   r1 0x094 0x32 0xFFFF, r1 0x098 0xC8 0xFFFF, r1 0x09C 0x1804 0xFF06]

/-- LNK (R308, R309). -/
def rowsLnk : List RegRow :=
  [rV 0x080 0x10 0xBF, r1 0x08C 0 0, rRC 0x094 allOnes, r1 0x098 0 0, r1 0x09C 0x10 0xFF, rRC 0x0A0 allOnes,
   rRC 0x0A4 allOnes, rRC 0x0A8 allOnes, r1 0x0AC 0 allOnes]

/-- TIL (R119, R154, R182, R440). -/
def rowsTil : List RegRow :=
  [rN 0x100 6 4 0 0, rRC 0x180 allOnes, rRC 0x184 allOnes, r1 0x188 0 0, r1 0x18C 0 0, r1 0x190 0 0,
   r1 0x1C0 0 0x3FF3F, rRC 0x1C4 allOnes, rRC 0x1C8 allOnes, rRC 0x1D0 allOnes, rRC 0x1D4 allOnes,
   rRC 0x220 allOnes, r1 0x224 0 0, rRC 0x22C allOnes]

/-- BNK (R208). -/
def rowsBnk : List RegRow :=
  [⟨0x080, 1, 4, 0x40, 0x7F, 0, true⟩, r1 0x084 4 7, r1 0x088 0 0, rRC 0x08C allOnes, r1 0x090 0 0,
   rRC 0x094 allOnes, r1 0x098 0 0, r1 0x09C 0 0, r1 0x0A0 0 0, r1 0x0A4 0 0]

/-- The registers of a page beyond the header. -/
def rowsOf : PageKind → List RegRow
  | .glb => rowsGlb | .pci => rowsPci | .job => rowsJob | .msg => rowsMsg | .evl => rowsEvl | .cfg => rowsCfg
  | .fus => [] | .pwr => rowsPwr | .tim => rowsTim | .scr => rowsScr | .trc => rowsTrc | .acq => rowsAcq
  | .rim => rowsRim | .ddr => rowsDdr | .ddrCommon => rowsDdrCommon | .lnk => rowsLnk | .til => rowsTil
  | .bnk => rowsBnk | .none => []

/-- Does the row hold offset `o`? -/
def RegRow.holds (r : RegRow) (o : Nat) : Bool :=
  decide (r.off ≤ o) && decide ((o - r.off) % r.stride = 0) && decide ((o - r.off) / r.stride < r.count)

/-- The row of a register, if it stores bits. -/
def regRow (a : Nat) : Option RegRow :=
  let o := a % 4096
  let k := pageKind (a / 4096)
  if k = .none then none
  else if o < 0x80 then rowsHeader.find? (·.holds o)
  else (rowsOf k).find? (·.holds o)

/-- The reset value of the register at BAR0 offset `a`; TILE_MAP entries reset to their logical tile (R118). -/
def resetOf (a : Nat) : Reg :=
  if 0x200 ≤ a ∧ a < 0x300 then BitVec.ofNat 32 ((a - 0x200) / 4 % 16)
  else match regRow a with
    | some r => BitVec.ofNat 32 r.reset
    | none => 0

/-- The bits software writes. -/
def rwMask (a : Nat) : Reg := match regRow a with | some r => BitVec.ofNat 32 r.rw | none => 0

/-- The bits a read returns and clears. -/
def rcMask (a : Nat) : Reg := match regRow a with | some r => BitVec.ofNat 32 r.rc | none => 0

/-- Is the register held in three copies (R433, R466)? -/
def votedReg (a : Nat) : Bool := match regRow a with | some r => r.voted | none => false

/-- Does the page hold RWV fields (R471 VOTED, R473)? -/
def pageVoted (k : PageKind) : Bool := (rowsOf k).any (·.voted)

/-- The indirect spaces of a page as SPACES of BLK_CAP (R471, R479). -/
def pageSpaces : PageKind → Nat
  | .til => 0x1F | .bnk => 1 | .ddr => 1 | .lnk => 1 | .rim => 3 | .job => 1 | .fus => 1 | _ => 0

/-- The address field of IND_ADDR on a page, in bits (R479). -/
def indField : PageKind → Nat
  | .til => 28 | .bnk => 21 | .rim => 28 | _ => 12

/-- Pages with sticky status bits that can interrupt (R471 IRQ). -/
def pageIrq : PageKind → Bool
  | .glb => true | .job => true | .cfg => true | .fus => true | .pwr => true | .scr => true | .trc => true
  | .acq => true | .rim => true | .ddrCommon => true | .lnk => true | .til => true | .bnk => true | _ => false

end Sys2Proof.Machine
end

