-- ==== Sys2Proof/Machine/Ops.lean ====
section
/-!
DEFINITION. Shared operations: the register store, sticky status, the event log, tiles and their places, DRAM bytes,
trace packets, jobs, stopping a run, and the interrupt vectors.
-/
namespace Sys2Proof.Machine

/-! ### The register store -/

/-- The register at BAR0 offset `a` as it stands (copy 0 of a voted field). -/
def getReg (s : State) (a : Nat) : Reg := Tbl.get (resetOf a) s.regs a

/-- Bits [lo + len - 1 : lo] of a register. -/
def regF (s : State) (a lo len : Nat) : Nat := fld (getReg s a) lo len

/-- One bit of a register. -/
def regBit (s : State) (a b : Nat) : Bool := (getReg s a).getLsbD b

/-- The three copies of a voted field take the value together (R468). -/
def Scr.write (c : Scr) (a : Nat) (v : Reg) : Scr :=
  if votedReg a then { c with v1 := Tbl.set (resetOf a) c.v1 a v, v2 := Tbl.set (resetOf a) c.v2 a v } else c

/-- Write a register. -/
def setReg (s : State) (a : Nat) (v : Reg) : State :=
  { s with regs := Tbl.set (resetOf a) s.regs a v, scr := s.scr.write a v }

/-- Replace a field of a register. -/
def setRegF (s : State) (a lo len v : Nat) : State := setReg s a (setFld (getReg s a) lo len v)

/-- A software write: the bits that software writes take the value (R466). -/
def writeRW (s : State) (a : Nat) (v : Reg) : State :=
  setReg s a ((getReg s a &&& ~~~(rwMask a)) ||| (v &&& rwMask a))

/-- Set bits of a register. -/
def orReg (s : State) (a : Nat) (m : Reg) : State := setReg s a (getReg s a ||| m)

/-- Add to a 32-bit counter that saturates (R340, R441, R461). -/
def bump (s : State) (a n : Nat) : State := setReg s a (BitVec.ofNat 32 (satAdd 0xFFFFFFFF (getReg s a).toNat n))

/-- Add to a 32-bit counter that wraps. -/
def bumpWrap (s : State) (a n : Nat) : State := setReg s a (getReg s a + BitVec.ofNat 32 n)

/-- Add to a counter field of `len` bits at `lo` that saturates. -/
def bumpF (s : State) (a lo len n : Nat) : State := setRegF s a lo len (satAdd (2 ^ len - 1) (regF s a lo len) n)

/-- The 64-bit value that a low and a high register hold. -/
def reg64 (s : State) (lo hi : Nat) : Nat := (getReg s lo).toNat + 2 ^ 32 * (getReg s hi).toNat

/-- Split a number over a low and a high register. -/
def setReg64 (s : State) (lo hi v : Nat) : State :=
  setReg (setReg s lo (BitVec.ofNat 32 v)) hi (BitVec.ofNat 32 (v / 2 ^ 32))

/-- The event of sticky bit `b` of a page's BLK_STAT occurs: the bit and its BLK_IRQ bit are set (R473). -/
def stick (s : State) (pg b : Nat) : State :=
  orReg (orReg s (ro pg 0x014) (1 <<< b)) (ro pg 0x024) (1 <<< b)

/-- A write is discarded: WR_REFUSED of the page, bit 1, on LNK pages bit 0 (R473). -/
def refuse (s : State) (pg : Nat) : State := stick s pg (if pageKind pg = .lnk then 0 else 1)

/-! ### The event log (R373, R474) -/

/-- One more error on a page: CODE holds the first, COUNT saturates at 0x7FFF (R474). -/
def blkErr (s : State) (pg code n : Nat) : State :=
  let a := ro pg 0x030
  let old := getReg s a
  let cnt := satAdd 0x7FFF (fld old 16 15) n
  let c := if old.getLsbD 31 then fld old 0 16 else code
  setReg s a (place 32 0 16 c ||| place 32 16 15 cnt ||| place 32 31 1 1)

/-- Page `pg` logs an event; a full log loses its oldest entry (R373). -/
def logEvent (s : State) (pg code : Nat) (detail : Reg) : State :=
  let e : Ev := { time := s.tb, code := code, page := pg, detail := detail }
  let s1 := if pageKind pg = .til then s else blkErr s pg code 1
  if s.evl.log.length < 512 then { s1 with evl := { s.evl with log := s.evl.log ++ [e] } }
  else orReg (bump { s1 with evl := { s.evl with log := s.evl.log.drop 1 ++ [e] } } (ro pEvl 0x098) 1)
    (ro pEvl 0x094) 2

/-! ### Places -/

def tileOf (s : State) (p : Nat) : Tile := Tbl.get Tile.reset s.tiles p
def putTile (s : State) (p : Nat) (t : Tile) : State := { s with tiles := Tbl.set Tile.reset s.tiles p t }
def dieOf (s : State) (d : Nat) : Die := Tbl.get Die.reset s.dies d
def putDie (s : State) (d : Nat) (x : Die) : State := { s with dies := Tbl.set Die.reset s.dies d x }
def bankOf (s : State) (b : Nat) : Bank := Tbl.get Bank.reset s.banks b
def putBank (s : State) (b : Nat) (x : Bank) : State := { s with banks := Tbl.set Bank.reset s.banks b x }
def chanOf (s : State) (c : Nat) : Chan := Tbl.get Chan.reset s.dram.chans c
def putChan (s : State) (c : Nat) (x : Chan) : State :=
  { s with dram := { s.dram with chans := Tbl.set Chan.reset s.dram.chans c x } }
def portOf (s : State) (n : Nat) : Port := Tbl.get Port.reset s.ports n
def putPort (s : State) (n : Nat) (x : Port) : State := { s with ports := Tbl.set Port.reset s.ports n x }
def mchanOf (s : State) (c : Nat) : MChan := Tbl.get MChan.reset s.mkh.chans c
def putMchan (s : State) (c : Nat) (x : MChan) : State :=
  { s with mkh := { s.mkh with chans := Tbl.set MChan.reset s.mkh.chans c x } }
def queueOf (s : State) (q : Nat) : SQueue := Tbl.get SQueue.reset s.saiga.queues q
def putQueue (s : State) (q : Nat) (x : SQueue) : State :=
  { s with saiga := { s.saiga with queues := Tbl.set SQueue.reset s.saiga.queues q x } }
def fifoOf (s : State) (f : Nat) : MsgFifo := Tbl.get MsgFifo.reset s.msg f
def putFifo (s : State) (f : Nat) (x : MsgFifo) : State := { s with msg := Tbl.set MsgFifo.reset s.msg f x }
def inqOf (s : State) (q : Nat) : List Word := Tbl.get [] s.aq.inq q
def outqOf (s : State) (q : Nat) : List OEntry := Tbl.get [] s.aq.outq q
def putOutq (s : State) (q : Nat) (l : List OEntry) : State :=
  { s with aq := { s.aq with outq := Tbl.set [] s.aq.outq q l } }

/-- The device's own index, as strapped (R484). -/
def devIdx (s : State) : Nat := fld s.hw.straps 0 4

/-- TILE_MAP entry of logical tile `l` = 16 x die + tile (R117, R118). -/
def mapReg (l : Nat) : Nat := ro pGlb (0x200 + 4 * l)

/-- The physical tile (17 x die + position) that a logical tile maps to (R112). -/
def physOf (s : State) (l : Nat) : Nat := 17 * (l / 16) + regF s (mapReg l) 0 5

/-- The epoch of a logical tile (R115). -/
def epochOf (s : State) (l : Nat) : Nat := regF s (mapReg l) 8 8

/-- FENCE register of a die. -/
def fenceReg (d : Nat) : Nat := ro pGlb (0x300 + 4 * d)

/-- Is a physical tile fenced (R117)? -/
def fenced (s : State) (p : Nat) : Bool := regBit s (fenceReg (p / 17)) (p % 17)

/-- The logical tile that maps to a physical tile. -/
def logicalOf (s : State) (p : Nat) : Option Nat :=
  ((List.range 16).map (fun t => 16 * (p / 17) + t)).find? (fun l => physOf s l == p)

/-- The logical number shown in records: 16 x die + tile; the position where no entry names the tile. -/
def logicalNo (s : State) (p : Nat) : Nat := (logicalOf s p).getD (16 * (p / 17) + p % 17 % 16)

/-- Used logical tiles of the resident image. -/
def usedTiles (s : State) : List Nat := (List.range 64).filter (fun l => s.img.tiles.getLsbD l)

/-- The physical tiles of the run. -/
def runTiles (s : State) : List Nat := (usedTiles s).map (physOf s)

/-- Does a physical tile belong to the active run? -/
def inRun (s : State) (p : Nat) : Bool := s.run.active && (runTiles s).contains p

/-- Does a tile of the run have its clock?  STEPCLK is gated in IDLE and DOZE, and while REFCLK is lost (R487, R488). -/
def onClock (s : State) (p : Nat) : Bool := inRun s p && decide (s.pwr.state = 0) && !s.hw.refLost

/-- RUN_MODE (R53): 0 free-running, 1 stepped, 2 paced. -/
def runMode (s : State) : Nat := regF s (ro pGlb 0x100) 0 2

/-- Is a paced run active? -/
def pacedRun (s : State) : Bool := s.run.active && decide (runMode s = 2)

/-- Are the rim's flip-flops clocked: RUNNING, not in soft reset, not in DOZE? -/
def rimRuns (s : State) : Bool :=
  decide (s.rim.state = .running) && !s.rim.softReset && decide (s.pwr.state ≠ 2)

/-- Is Markhor armed: ARMED or DONE (R341)? -/
def mkhArmed (s : State) : Bool := decide (s.mkh.state = 2 ∨ s.mkh.state = 3)

/-- The tile voltage in mV that the fuses give for a STEPCLK in MHz, in 5 mV steps within 600 to 900 (R151). -/
def vfMv (s : State) (mhz : Nat) : Nat := min 900 (max 600 ((Tbl.get 0 s.keys.vf ((mhz - 400) / 25) % 1024 + 4) / 5 * 5))

/-- STEPCLK of a die in MHz. -/
def stepClk (s : State) (d : Nat) : Nat := (getReg s (ro pPwr (0x0C0 + 4 * d))).toNat

/-- The operating voltage of tile `p`: for its die's STEPCLK, or the higher one it is being retuned to (R151). -/
def opMv (s : State) (p : Nat) : Nat := vfMv s (max (stepClk s (p / 17)) ((dieOf s (p / 17)).pllTarget.getD 0))

/-- A tile goes to retention: its clock gated, 0.45 V (R152). -/
def Tile.rest (t : Tile) : Tile := { t with retention := true, mv := 450 }

/-- A tile leaves retention for a voltage (R152). -/
def Tile.rise (t : Tile) (mv : Nat) : Tile := { t with retention := false, mv := mv }

/-- The stepping's highest STEPCLK in MHz (R157). -/
def maxClk (s : State) : Nat := match s.hw.stepping with | .a0 => 1400 | .b0 => 1600

/-- Clock periods in a time: STEPCLK of die k, or HUBCLK for stream 4; one LSB is 1/256 ns (R313). -/
def periodsIn (s : State) (k : Nat) (dt : Word) : Nat :=
  if k < 4 then dt.toNat * stepClk s k / 256000 else dt.toNat / 256

/-- One HUBCLK period of the timebase (R313): it stands still while REFCLK is lost, and from a power-on reset until its
release; through a warm reset it keeps counting (R498). -/
def timebaseTick (s : State) : State :=
  if s.hw.refLost || (decide (s.hw.boot = .held) && !s.hw.pwrgd) then s else { s with tb := s.tb + 256 }

/-- Is the endpoint up: from the lock of the PLLs until a thermal trip turns the regulators off, or a reset (R464, R500;
assumption 129)? -/
def endpointUp (s : State) : Bool := s.hw.regulators && decide (s.hw.boot = .locked ∨ s.hw.boot = .up)

/-- Do two address ranges overlap? -/
def overlap (a la b lb : Nat) : Bool := decide (0 < la ∧ 0 < lb ∧ a < b + lb ∧ b < a + la)

/-! ### Bank words (R190, R198 to R205) -/

def ownerReg (b : Nat) : Nat := ro (pBnk b) 0x080
def bankOwner (s : State) (b : Nat) : Nat := regF s (ownerReg b) 0 7
def bankPending (s : State) (b : Nat) : Bool := regBit s (ownerReg b) 15
def bankPendOwner (s : State) (b : Nat) : Nat := regF s (ownerReg b) 8 7

/-- A word with its parity bit, which makes the number of ones even (R190). -/
def withParity (v : Word) : BankWord := BitVec.ofNat 65 (v.toNat + 2 ^ 64 * (ones 64 v.toNat % 2))

/-- Has a stored word an odd number of ones? -/
def badWord (v : BankWord) : Bool := ones 65 v.toNat % 2 == 1

/-- The 64 bits that a bank stores for a word. -/
def Bank.word (x : Bank) (w : Nat) : Word := (Tbl.get 0 x.words w).setWidth 64

/-- The 64 words of a region. -/
def Bank.region (x : Bank) (r : Nat) : List Word := (List.range 64).map (fun i => x.word (64 * r + i))

/-- The words of a bank from `lo` on, `n` of them, that hold a parity error, in ascending order. -/
def Bank.badWords (x : Bank) (lo n : Nat) : List Nat :=
  (x.words.filter (fun e => decide (lo ≤ e.1 ∧ e.1 < lo + n) && badWord e.2)).map (·.1)

/-- The words of a region take values, with good parity. -/
def putRegion (t : Tbl BankWord) (r : Nat) (ws : List Word) : Tbl BankWord :=
  ws.zipIdx.foldl (fun t x => Tbl.set 0 t (64 * r + x.2) (withParity x.1)) t

/-- Stored bits flip. -/
def bankUpset (s : State) (u : BankUpset) : State :=
  if u.bank < 128 ∧ u.word < 262144 ∧ u.bit < 65 then
    let x := bankOf s u.bank
    putBank s u.bank { x with words := Tbl.set 0 x.words u.word (Tbl.get 0 x.words u.word ^^^ place 65 u.bit 1 1) }
  else s

/-- Write a word of a bank: its region is dirty and a swap's copy of it stands no more (R200, R201). -/
def bankWrite (s : State) (b w : Nat) (v : Word) : State :=
  let x := bankOf s b
  putBank s b { x with words := Tbl.set 0 x.words w (withParity v), prev := some (w, Tbl.get 0 x.words w)
                       dirty := Tbl.set false x.dirty (w / 64) true, touched := Tbl.set false x.touched (w / 64) true }

/-- A saved region goes back to its bank, which changes no word (R203, R204). -/
def putBack (s : State) (v : Saved) : State :=
  putBank s v.bank { bankOf s v.bank with words := putRegion (bankOf s v.bank).words v.region v.words }

/-- Every region of a bank. -/
def everyRegion : Tbl Bool := (List.range 4096).map (fun r => (r, true))

/-- The map of spare regions: the regions that spares stand for, first spare first (R205). -/
def Bank.spares (x : Bank) : List Nat :=
  (List.range 4).filterMap (fun i => if x.map0.getLsbD (13 * i + 12) then some (fld x.map0 (13 * i) 12) else none)

/-- Spare `i` stands for region `r`: every copy of the map says so. -/
def Bank.addSpare (x : Bank) (r : Nat) : Bank :=
  let i := x.spares.length
  let v := r % 4096 + 4096
  { x with map0 := setFld x.map0 (13 * i) 13 v, map1 := setFld x.map1 (13 * i) 13 v, map2 := setFld x.map2 (13 * i) 13 v }

/-- Is the region under test? -/
def underTest (s : State) (b r : Nat) : Bool :=
  match (dieOf s (b / 32)).tt with | some v => v.bank == b && v.region == r | none => false

/-- Chamois aborts a test and restores the region: ABORTS counts it (R204). -/
def ttYield (s : State) (d : Nat) : State :=
  match (dieOf s d).tt with
  | some v =>
    let s := putBack (putDie s d { dieOf s d with tt := none, ttAbort := false }) v
    let a := ro (pBnk v.bank) 0x098
    setRegF s a 16 16 (regF s a 16 16 + 1)
  | none => s

/-- Nothing of the bank stays under test. -/
def testOff (s : State) (b : Nat) : State :=
  match (dieOf s (b / 32)).tt with | some v => if v.bank = b then ttYield s (b / 32) else s | none => s

/-- The oldest save buffer of a die drains into the journal of the checkpoint being taken (R201). -/
def drainSave (s : State) (d : Nat) : State :=
  match (dieOf s d).save with
  | [] => s
  | v :: rest =>
    let s := putDie s d { dieOf s d with save := rest }
    { s with recov := { s.recov with next := s.recov.next.map (fun c => { c with
        banks := c.banks.map (fun e => if e.1 = v.bank then (e.1, putRegion e.2 v.region v.words) else e) }) } }

/-- The copy engine has read a pending region into a save buffer.  DESIGN CHOICE (assumption 99): with all four in use, the
oldest drains first; otherwise they drain when the checkpoint completes. -/
def takeRegion (s : State) (b r : Nat) : State :=
  let s := if 4 ≤ (dieOf s (b / 32)).save.length then drainSave s (b / 32) else s
  let x := dieOf s (b / 32)
  let s := putDie s (b / 32) { x with save := x.save ++ [{ bank := b, region := r, words := (bankOf s b).region r }] }
  putBank s b { bankOf s b with pend := Tbl.set false (bankOf s b).pend r false }

/-- A requester other than a TMEM unit reaches a region: a test of it is aborted (R204). -/
def bankReach (s : State) (b r : Nat) : State := if underTest s b r then ttYield s (b / 32) else s

/-- PERR_ADDR and the sticky PERR bit (R200, R208). -/
def recordPerr (s : State) (b w outcome : Nat) : State :=
  stick (setReg s (ro (pBnk b) 0x090) (place 32 0 18 w ||| place 32 18 2 outcome ||| place 32 31 1 1)) (pBnk b) 3

/-- An unrecovered parity error of a requester other than a tile (R200). -/
def unrecovered (s : State) (b w : Nat) : State :=
  let s := bumpF (recordPerr s b w 2) (ro (pBnk b) 0x094) 16 16 1
  logEvent (stick s (pBnk b) 4) (pBnk b) 0x0021 (getReg s (ro (pBnk b) 0x090))

/-- A region that waits for its copy is copied before it is written (R202); the bank's owner is no tile, and a parity error that
the copy meets is unrecovered (R200). -/
def copyFirst (s : State) (b r : Nat) : State :=
  if Tbl.get false (bankOf s b).pend r then
    takeRegion (((bankOf s b).badWords (64 * r) 64).foldl (fun s w => unrecovered s b w) s) b r
  else s

/-- A requester other than a TMEM unit writes a word: a pending region is copied first (R202). -/
def bankStore (s : State) (b w : Nat) (v : Word) : State :=
  bankWrite (copyFirst (bankReach s b (w / 64)) b (w / 64)) b w v

/-- A requester whose bank no tile owns reads `n` words of bank space from word `w`: no test stays on them, and the words
with a parity error are unrecovered (R200, R204). -/
def bankRead (s : State) (w n : Nat) : State :=
  (List.range 128).foldl (fun s b =>
    let lo := max w (b * 2 ^ 18)
    let hi := min (w + n) ((b + 1) * 2 ^ 18)
    if hi ≤ lo then s
    else
      let s := match (dieOf s (b / 32)).tt with
        | some v =>
          if v.bank = b ∧ overlap (64 * v.region) 64 (lo % 2 ^ 18) (hi - lo) then ttYield s (b / 32) else s
        | none => s
      ((bankOf s b).badWords (lo % 2 ^ 18) (hi - lo)).foldl (fun s w => unrecovered s b w) s) s

/-- Does a word among `n` of bank space from word `w` hold a parity error? -/
def bankBad (s : State) (w n : Nat) : Bool :=
  (List.range 128).any (fun b =>
    let lo := max w (b * 2 ^ 18)
    !((bankOf s b).badWords (lo % 2 ^ 18) (min (w + n) ((b + 1) * 2 ^ 18) - lo)).isEmpty)

/-- The bytes of bank space at `a` (R355). -/
def bankBytes (s : State) (a n : Nat) : List Byte :=
  (List.range ((a + n + 7) / 8 - a / 8)).flatMap (fun i =>
    let w := a / 8 + i
    let bs := wordBytes ((bankOf s (w / 2 ^ 18)).word (w % 2 ^ 18))
    (bs.take (a + n - 8 * w)).drop (a - 8 * w))

/-- A requester other than a TMEM unit writes bytes of bank space, but for the words `lost`; what a word keeps is written
back with them. -/
def bankPut (s : State) (a : Nat) (bs : List Byte) (lost : List Nat) : State :=
  (List.range ((a + bs.length + 7) / 8 - a / 8)).foldl (fun s i =>
    let w := a / 8 + i
    if lost.contains w then s
    else
      let old := wordBytes ((bankOf s (w / 2 ^ 18)).word (w % 2 ^ 18))
      let new := (List.range 8).map (fun k =>
        if 8 * w + k < a then old.getD k 0 else (bs[8 * w + k - a]?).getD (old.getD k 0))
      bankStore s (w / 2 ^ 18) (w % 2 ^ 18) (BitVec.ofNat 64 (leNat new))) s

/-! ### Host memory -/

/-- Bytes written to host memory. -/
def hostWrite (s : State) : Nat → List Byte → State
  | _, [] => s
  | a, b :: bs => hostWrite { s with host := Tbl.set 0 s.host a b } (a + 1) bs

/-! ### Trace packets (R446 to R452) -/

def trcCtl : Nat := ro pTrc 0x080

/-- Is trace enabled with class bit `b` of TRC_CTL? -/
def trcClass (s : State) (b : Nat) : Bool := regBit s trcCtl 0 && regBit s trcCtl b

def streamOf (s : State) (k : Nat) : Stream := Tbl.get Stream.reset s.trc.streams k

/-- Staging lines of a stream: a bank of 2 MB, or 256 KB of hub memory (R445). -/
def stagingLines (k : Nat) : Nat := if k < 4 then 32768 else 4096

/-- Place `i` of a stream's staging memory takes a line: eight words of its bank, or of hub memory (R445, R446). -/
def stageLine (s : State) (k i : Nat) (l : List Word) : State :=
  let w := 8 * (i % stagingLines k)
  if k < 4 then
    l.zipIdx.foldl (fun s x => bankStore s (streamOf s k).bank (w + x.2) x.1) s
  else { s with trc := { s.trc with hubMem := l.zipIdx.foldl (fun m x => Tbl.set 0 m (w + x.2) x.1) s.trc.hubMem } }

/-- The line at place `i` of a stream's staging memory. -/
def stagedLine (s : State) (k i : Nat) : List Word :=
  let w := 8 * (i % stagingLines k)
  (List.range 8).map (fun j => if k < 4 then (bankOf s (streamOf s k).bank).word (w + j) else Tbl.get 0 s.trc.hubMem (w + j))

/-- A stream changes; lines that it has completed are staged and join the order of completion (R446). -/
def putStream (s : State) (k : Nat) (x : Stream) : State :=
  let s := x.lines.zipIdx.foldl (fun s y => stageLine s k (x.rd + x.staged + y.2) y.1) s
  { s with trc := { s.trc with
      streams := Tbl.set Stream.reset s.trc.streams k { x with lines := [], staged := x.staged + x.lines.length }
      order := s.trc.order ++ List.replicate x.lines.length k } }

/-- The ring is full when one more line would make TRC_WP equal to TRC_RP (R446). -/
def ringFull (s : State) : Bool :=
  let len := (getReg s (ro pTrc 0x090)).toNat
  decide (len = 0 ∨ (s.trc.wp + 64) % len = (getReg s (ro pTrc 0x098)).toNat % len)

/-- A packet of stream `k` does not fit (R452). -/
def streamFull (s : State) (k : Nat) : Bool :=
  decide (stagingLines k < (streamOf s k).staged + 1024) || ringFull s

/-- STALL_ON_FULL holds the tiles of die `k`, or the hub (R452). -/
def trcHolds (s : State) (k : Nat) : Bool := trcClass s 1 && streamFull s k

/-- A packet header (R447). -/
def trcHeader (typ k len dstep : Nat) (dcyc : Int) (payload : Nat) : Word :=
  place 64 59 5 typ ||| place 64 56 3 k ||| place 64 52 4 len ||| place 64 36 16 dstep |||
    place 64 32 4 (dcyc % 16).toNat ||| place 64 0 32 payload

/-- End the open line: its unused words are PAD packets (R446). -/
def Stream.endLine (x : Stream) (k : Nat) : Stream :=
  if x.opn.isEmpty then x
  else { x with lines := x.lines ++ [x.opn ++ List.replicate (8 - x.opn.length) (trcHeader 0 k 0 0 0 0)], opn := [] }

/-- Add a packet's words; a packet never crosses a line (R446). -/
def Stream.add (x : Stream) (k : Nat) (ws : List Word) : Stream :=
  let x := if 8 < x.opn.length + ws.length then x.endLine k else x
  let x := { x with opn := x.opn ++ ws, count := x.count + 1 }
  if x.opn.length = 8 then x.endLine k else x

/-- The SYNC that is due, if one is; 4,096 packets since the last one that they brought bring one (R448, R451). -/
def Stream.synced (x : Stream) (k mhz : Nat) (t : Word) (cyc : Nat) : Stream :=
  let x := if 4096 ≤ x.count then { x with sync := some (x.sync.getD 0), count := x.count - 4096 } else x
  match x.sync with
  | none => x
  | some r =>
    let y := x.add k [trcHeader 1 k 2 0 0 (mhz + 2 ^ 12 * r), BitVec.ofNat 64 (cyc % cycleLimit), t]
    { y with sync := none, lastT := t, lastCyc := cyc }

/-- One packet with its differences; a DELTA that they need comes first.  A packet that begins a line has its DELTA in the line
before (R447, R452). -/
def Stream.packet (x : Stream) (k : Nat) (per : Word → Nat) (t : Word) (cyc typ payload : Nat) (ws : List Word)
    (newLine : Bool) : Stream :=
  let ds := per (t - x.lastT)
  let dc : Int := (cyc : Int) - x.lastCyc
  let fits := decide (ds < 65536 ∧ -8 ≤ dc ∧ dc ≤ 7)
  let x := if fits then x else x.add k [trcHeader 2 k 1 0 0 (dc % 2 ^ 32).toNat, BitVec.ofNat 64 (ds % 2 ^ 48)]
  let x := if newLine then x.endLine k else x
  { x.add k (trcHeader typ k ws.length (if fits then ds else 0) (if fits then dc else 0) payload :: ws) with
    lastT := t, lastCyc := cyc }

/-- Write a packet into a stream that takes it: after the SYNC that is due, and after OVERFLOW with its own SYNC at the beginning
of a line where packets were dropped (R447, R451, R452). -/
def Stream.emit (x : Stream) (k mhz : Nat) (per : Word → Nat) (t : Word) (cyc typ payload : Nat) (ws : List Word) :
    Stream :=
  let x := x.synced k mhz t cyc
  let x := if x.dropped = 0 then x else
    let y := x.packet k per t cyc 0xC (min 0xFFFFFFFF x.dropped) [] true
    ({ y with dropped := 0, sync := some 3 } : Stream).synced k mhz t cyc
  x.packet k per t cyc typ payload ws false

/-- Has a stream nothing to carry: a die's, with no used tile on the die (R445)? -/
def streamUnused (s : State) (k : Nat) : Bool := decide (k < 4) && !(usedTiles s).any (fun l => l / 16 == k)

/-- Chital writes a packet in stream `k`, or drops and counts it (R452). -/
def tracePkt (s : State) (k cyc typ payload : Nat) (ws : List Word) : State :=
  if !regBit s trcCtl 0 || streamUnused s k then s
  else if streamFull s k && !regBit s trcCtl 1 then
    let x := streamOf s k
    bump (putStream s k { x with dropped := x.dropped + 1 }) (ro pTrc 0x0A4) 1
  else
    let mhz := if k < 4 then stepClk s k else 0
    putStream s k ((streamOf s k).emit k mhz (periodsIn s k) s.tb cyc typ payload ws)

/-! ### Interrupt vectors (R375) -/

def Saiga.send (g : Saiga) (v : Nat) : Saiga := { g with msixSent := Tbl.upd 0 g.msixSent v (· + 1) }

/-- Is the vector masked in the MSI-X table (R483)? -/
def masked (s : State) (v : Nat) : Bool := regBit s (ro pPci (0x80C + 16 * v)) 0

/-- A vector raises one message; masked, its pending bit is set. -/
def raiseVector (s : State) (v : Nat) : State :=
  if masked s v then { s with saiga := { s.saiga with msixPend := s.saiga.msixPend ||| place 64 v 1 1 } }
  else { s with saiga := s.saiga.send v }

/-- A register whose reset value is 0, read without its reset table. -/
def rawReg (s : State) (a : Nat) : Reg := Tbl.get 0 s.regs a

/-- The condition of vector 0. -/
def evlCond (s : State) : Bool :=
  let thr := regF s (ro pEvl 0x09C) 16 10
  (rawReg s (ro pEvl 0x094)).getLsbD 1 ||
    (!s.evl.log.isEmpty && decide (thr ≠ 0) && decide (thr ≤ s.evl.log.length))

/-- The condition of vector 9 + f. -/
def msgCond (s : State) (f : Nat) : Bool :=
  let n := (fifoOf s f).vis.length
  (rawReg s (ro pMsg (0x10C + 0x20 * f))).getLsbD 1 ||
    (decide (n ≠ 0) &&
      (let thr := regF s (ro pMsg (0x118 + 0x20 * f)) 8 8
       decide (thr ≠ 0) && decide (thr ≤ n)))

/-- The condition of vector 63: some page has (BLK_IRQ AND BLK_IRQ_EN) non-zero (R473). -/
def irqCond (s : State) : Bool :=
  s.regs.any (fun e => e.1 % 4096 == 0x024 && (e.2 &&& rawReg s (e.1 - 4)) != 0)

/-- All conditions as a word, bit v for vector v. -/
def vectorConds (s : State) : Word :=
  (List.range 16).foldl (fun w f => if msgCond s f then w ||| place 64 (9 + f) 1 1 else w)
    ((if evlCond s then (1 : Word) else 0) ||| (if irqCond s then place 64 63 1 1 else 0))

/-- Vectors with a condition send a message when it becomes true; a pending vector sends when it is unmasked, a
condition provided that it still holds (R375). -/
def settle (s : State) : State :=
  let now := vectorConds s
  let old := s.saiga.conds
  if now = old ∧ s.saiga.msixPend = 0 then s
  else
    let rise := now &&& ~~~old
    let isCond := fun v : Nat => decide (v = 0 ∨ v = 63 ∨ (9 ≤ v ∧ v ≤ 24))
    let g := (List.range 64).foldl (fun (g : Saiga) v =>
      if rise.getLsbD v then
        (if masked s v then { g with msixPend := g.msixPend ||| place 64 v 1 1 }
         else ({ g with msixPend := g.msixPend &&& ~~~(place 64 v 1 1) } : Saiga).send v)
      else if g.msixPend.getLsbD v && !masked s v then
        let g := { g with msixPend := g.msixPend &&& ~~~(place 64 v 1 1) }
        if isCond v && !now.getLsbD v then g else g.send v
      else g) s.saiga
    { s with saiga := { g with conds := now } }

/-- Every command ends here: its next state, with the interrupt conditions settled. -/
def finish (s : State) : Host.Outcome State Fault Refusal := .next (settle s)

/-! ### Jobs (R353 to R364) -/

def Job.exec (j : Job) : Nat := fld j.desc 0 8
def Job.op (j : Job) : Nat := fld j.desc 8 8
def Job.flags (j : Job) : Nat := fld j.desc 16 8
def Job.ctx (j : Job) : Nat := fld j.desc 24 8
/-- The parameter of `n` bytes at offset `o`. -/
def Job.par (j : Job) (o n : Nat) : Nat := fld j.desc (8 * o) (8 * n)

def findJob (s : State) (q seq : Nat) : Option Job := s.saiga.jobs.find? (fun j => j.q == q && j.seq == seq)

def modJobs (s : State) (c : Job → Bool) (f : Job → Job) : State :=
  { s with saiga := { s.saiga with jobs := s.saiga.jobs.map (fun j => if c j then f j else j) } }

def modJob (s : State) (q seq : Nat) (f : Job → Job) : State := modJobs s (fun j => j.q == q && j.seq == seq) f

/-- The executor is done with a job: what its completion will hold (R361, R364).  An abort's status stands (R368). -/
def Job.finish (j : Job) (status : Nat) (result detail : Word) : Job :=
  if j.phase = .finished then j
  else { j with phase := .finished, status := if j.aborted then 1 else status, result := result, detail := detail }

def finishJob (s : State) (q seq status : Nat) (result detail : Word) : State :=
  modJob s q seq (fun j => j.finish status result detail)

/-- The job that an executor runs: dispatched, waiting for its row, or running. -/
def jobAt (s : State) (x op : Nat) (ph : JobPhase) : Option Job :=
  s.saiga.jobs.find? (fun j => j.exec == x && j.op == op && j.phase == ph)

/-! ### Stopping a run (R42 to R44, R360, R361) -/

/-- The cycle that the slowest tile of the image has begun (R53). -/
def curCycle (s : State) : Nat :=
  match (runTiles s).map (fun p => (tileOf s p).cycle) with
  | [] => 0
  | c :: cs => cs.foldl min c

/-- The largest cycle that a tile of the run has begun. -/
def maxBegun (s : State) : Nat := ((runTiles s).map (fun p => (tileOf s p).cycle)).foldl max 0

/-- Has the tile stopped, at a boundary or at a step? -/
def Tile.halted (t : Tile) : Bool := decide (t.phase = .stopped ∨ t.phase = .faulted ∨ t.phase = .idle)

/-- The dies of the image's used tiles. -/
def usedDies (s : State) : List Nat := (List.range 4).filter (fun d => (usedTiles s).any (fun l => l / 16 == d))

/-- Tiles that take part in the slip check: of the run, not stopped, not fenced (R36, R44, R417). -/
def slipTiles (s : State) : List Nat := (runTiles s).filter (fun p => !(tileOf s p).halted && !fenced s p)

/-- Does the pace gate let cycle `c` begin: tick c has come, tick 0 being the first after START (R47; DEDUCED, assumption 33)? -/
def paceOpen (s : State) (c : Nat) : Bool := decide (runMode s ≠ 2) || decide (c < s.run.ticks)

/-- Does a rollback hold the run, and will it go on (R426)? -/
def rollsBack (s : State) : Bool := s.run.holds.contains .rollback && !s.run.faultStop

/-- Has every tile of the run stopped? -/
def allHalted (s : State) : Bool := (runTiles s).all (fun p => (tileOf s p).halted || fenced s p)

/-- The run will stop after cycle `k` with a cause; the earliest boundary stands (R43, R78).  The stop of a partner comes with
CLOSE_C8 (assumption 95). -/
def stopRun (s : State) (cause k : Nat) : State :=
  if !s.run.active || s.run.faultStop then s
  else match s.run.stopAt with
    | some k' => if k < k' then { s with run := { s.run with stopAt := some k, cause := some cause } } else s
    | none => { s with run := { s.run with stopAt := some k, cause := some cause } }

/-- The cycles that a tile has completed: one past the last (a tile stopped at a boundary has completed its cycle). -/
def Tile.completed (t : Tile) : Nat := if t.phase = .stopped then t.cycle + 1 else t.cycle

/-- One past the last cycle that every tile completed: the first cycle of a resumed run (R42). -/
def nextFirst (s : State) : Nat :=
  match (runTiles s).map (fun p => (tileOf s p).completed) with
  | [] => s.run.first
  | c :: cs => cs.foldl min c

/-- RESULT of a START or STOP: the last cycle every tile completed, the cause, PARTIAL (R361). -/
def stopResult (s : State) : Word :=
  let last := (nextFirst s + cycleLimit - 1) % cycleLimit
  place 64 0 48 last ||| place 64 48 4 (s.run.cause.getD 0) ||| place 64 52 1 s.run.partialStop.toNat

/-- STATUS of a START by stop cause (R362). -/
def causeStatus (c : Nat) : Nat := if c = 4 then 1 else if c = 5 ∨ c = 7 ∨ c = 8 then 0x0F else 0

/-- The run has stopped: its tiles leave it, START, STOP and waiting GRANT jobs finish, vector 25 is raised; after
PARTIAL, FAULT or CYCLE_LIMIT the image is no longer valid (R42).  `run.first` becomes the first cycle of a resumed run. -/
def endRun (s : State) : State :=
  let cause := s.run.cause.getD 0
  let ok := !s.run.partialStop && decide (cause ≠ 5 ∧ cause ≠ 6)
  let res := stopResult s
  let det := if cause = 2 then s.run.stopFlags else 0
  let g := { s.saiga with jobs := s.saiga.jobs.map (fun j =>
    if s.run.job = some (j.q, j.seq) then j.finish (causeStatus cause) res det
    else if j.exec = 0x0A ∧ j.op = 3 ∧ j.phase = .running then j.finish 0 res det
    else if j.exec = 0x0A ∧ j.op = 2 ∧ j.phase = .running then j.finish 0 j.result 0
    else j) }
  let tiles := (runTiles s).foldl (fun m p =>
    Tbl.set Tile.reset m p { Tbl.get Tile.reset m p with phase := .idle }) s.tiles
  let snap := s.trc.snap.map (fun j =>
    if j.wantArr ∧ j.gotArr = none then { j with wantArr := false, arrStatus := 0x15 } else j)
  raiseVector { s with
    saiga := g, tiles := tiles
    run := { s.run with
      active := false, job := none, holds := [], first := nextFirst s
      next := tblOf 0 ((usedTiles s).map (fun l => (l, (tileOf s (physOf s l)).completed))) }
    cfg := { s.cfg with resValid := s.cfg.resValid && ok }
    trc := { s.trc with snap := snap } } 25

/-- The run ends once a stop is due and every tile has stopped; not while a rollback holds it (R419, R426). -/
def checkRunEnd (s : State) : State :=
  if s.run.active && (s.run.faultStop || s.run.stopAt.isSome) && !rollsBack s && allHalted s then endRun s else s

/-- Is the run paced, and its first cycle not begun: then a stop executes no cycle (R361)? -/
def beforeFirst (s : State) : Bool := pacedRun s && !paceOpen s s.run.first && !s.run.faultStop

/-- A stop at the first boundary that every tile can reach, the largest cycle begun, for a stop of the host, an abort or an
event: DESIGN CHOICE (R43, assumption 19). -/
def stopNow (s : State) (cause : Nat) : State :=
  if beforeFirst s then endRun { s with run := { s.run with cause := some cause } }
  else stopRun s cause (maxBegun s)

/-- PACE_MISS and PORT_DOWN stop the run under R44: each tile stops at the first boundary that it reaches (R47, R111). -/
def stopEach (s : State) (cause : Nat) : State :=
  if beforeFirst s then endRun { s with run := { s.run with cause := some cause } }
  else if s.run.active && !s.run.faultStop then
    checkRunEnd { s with run := { s.run with faultStop := true, cause := some cause } }
  else s

/-- Every other tile stops at the first boundary it reaches; cause FAULT (R44). -/
def signalFault (s : State) : State :=
  if s.run.active then { s with run := { s.run with faultStop := true, cause := some 5 } } else s

/-- Layout of FLT_FIRST (R186). -/
def fltFirst (p code : Nat) : Reg :=
  place 32 0 2 (p / 17) ||| place 32 2 5 (p % 17) ||| place 32 7 8 code ||| place 32 15 1 1

/-- Does FLT_FIRST take the fault of tile `p`: it holds none, or one of the same HUBCLK period whose die and physical tile
come after (R186)?  Each fault reaches the hub as it is raised (assumption 94). -/
def firstFault (s : State) (p : Nat) : Bool :=
  let v := getReg s (ro pGlb 0x160)
  !v.getLsbD 15 ||
    decide (s.run.fltAt.toNat / 256 = s.tb.toNat / 256 ∧ p < 17 * fld v 0 2 + fld v 2 5)

/-- The fault record of a tile (R80, R182, R186): its registers, the count of faulting BPs, FLT_FIRST, the event. -/
def faultRecord (s : State) (p code bp step : Nat) (close : Bool) (cyc : Nat) (detail : Reg) (n : Nat) : State :=
  let g := pTil p
  let l := logicalNo s p
  let loc := place 32 0 10 bp ||| place 32 10 4 (l % 16) ||| place 32 14 2 (p / 17) ||| place 32 16 5 (p % 17)
  let s := setReg s (ro g 0x100) (place 32 0 8 code ||| place 32 8 1 1 ||| place 32 9 1 close.toNat)
  let s := setReg s (ro g 0x104) loc
  let s := setReg s (ro g 0x108) (BitVec.ofNat 32 step)
  let s := setReg64 s (ro g 0x10C) (ro g 0x110) (cyc % cycleLimit)
  let s := setReg s (ro g 0x114) detail
  let s := blkErr s g code n
  let s := if firstFault s p then
      setReg { s with run := { s.run with fltAt := s.tb } } (ro pGlb 0x160) (fltFirst p code)
    else s
  logEvent s g 0x0004 (fltFirst p code)

/-- A tile raises a run-time fault (R44): its record; the tile stops where it stands.  A tile that has stopped raises no
later fault. -/
def tileFault (s : State) (p code bp step : Nat) (close : Bool) (cyc : Nat) (detail : Reg) (n : Nat) : State :=
  if (tileOf s p).halted then s
  else
    let s := faultRecord s p code bp step close cyc detail n
    checkRunEnd (signalFault (putTile s p { tileOf s p with phase := .faulted }))

end Sys2Proof.Machine
end

