-- ==== Sys2Proof/Machine/Line.lean ====
section
/-!
DEFINITION. The physical coding of the lanes (10): 66-bit blocks, the scrambler, the RS(544,514) coder, alignment periods with
their commas, the striping of a port's blocks over its active lanes, and PAM4 levels.
-/
namespace Sys2Proof.Machine

/-! ### Blocks and levels (R270, R271) -/

def dataBlock (w : Word) : BitVec 66 := w ++ 0b01#2
def ctlBlk (w : Word) : BitVec 66 := w ++ 0b10#2

/-- Bits [65:2] of a block: a packet word, or a control word. -/
def blkWord (b : BitVec 66) : Word := b.extractLsb' 2 64

def isData (b : BitVec 66) : Bool := fld b 0 2 == 1
def isCtl (b : BitVec 66) : Bool := fld b 0 2 == 2

/-- Any sync header but those of data and control blocks. -/
def errored (b : BitVec 66) : Bool := !isData b && !isCtl b

/-- A control word with its code alone. -/
def ctlWord (code : Nat) : Word := place 64 56 8 code

def idleBlock : BitVec 66 := ctlBlk (ctlWord 0)

/-- The PAM4 level of a pair of bits, the earlier bit the more significant (R270). -/
def pam4 (pair : Nat) : Int :=
  match pair with
  | 0 => -3 | 1 => -1 | 2 => 3 | _ => 1

/-- The levels of `n` bits, bit 0 first. -/
def levelsOf (n v : Nat) : List Int := (List.range (n / 2)).map (fun i => pam4 (2 * (v / 4 ^ i % 2) + v / 4 ^ i / 2 % 2))

/-- What a lane sends, as PAM4 levels; the exit burst is 512 UI of −3, +3 (R298). -/
def Line.levels : Line → List Int
  | .comma b => levelsOf 66 b.toNat
  | .sym x => levelsOf 10 x.toNat
  | .burst => (List.range 512).map (fun i => if i % 2 = 0 then -3 else 3)

/-! ### Scrambler (R272) -/

/-- At most 39 bits `d`, the first in bit 0, after the 58 scrambled bits `st`, the newest in bit 57. -/
def scramblePart (k d st : Nat) : Nat × Nat :=
  let o := (d ^^^ (st >>> 19) ^^^ st) % 2 ^ k
  (o, (st ||| (o <<< 58)) >>> k)

/-- Bits [65:2] of a block scrambled by 1 + x^39 + x^58, and the state after them. -/
def scramble (st : BitVec 58) (w : Word) : Word × BitVec 58 :=
  let a := scramblePart 39 (w.toNat % 2 ^ 39) st.toNat
  let b := scramblePart 25 (w.toNat >>> 39) a.2
  (BitVec.ofNat 64 (a.1 + b.1 * 2 ^ 39), BitVec.ofNat 58 b.2)

/-! ### RS(544,514) (R273) -/

/-- The generator polynomial of IEEE 802.3, the product of x − α^j for j from 0 to 29 over GF(2^10) with x^10 + x^3 + 1: the
coefficient of x^i in bits [10i + 9:10i], that of x^30, which is 1, left out (assumption 106). -/
def rsGen : Nat := 0x8fe282ece68a0011b235468f99448417ad07bd81eb9f7dcd69c5262305881fcb927880d0a0b

/-- Thirty elements of the field, ten bits each, times α. -/
def rsTimes2 (v : Nat) : Nat :=
  let hi := v &&& (2 ^ 9 * ((2 ^ 300 - 1) / (2 ^ 10 - 1)))
  ((v ^^^ hi) <<< 1) ^^^ (hi >>> 9) ^^^ (hi >>> 6)

/-- Thirty elements times the element `x`. -/
def rsScale (x v : Nat) : Nat :=
  (List.range 10).foldl (fun acc i => rsTimes2 acc ^^^ (if x.testBit (9 - i) then v else 0)) 0

/-- The thirty parity symbols, the highest power in the top bits, after one more message symbol. -/
def rsStep (parity : BitVec 300) (x : BitVec 10) : BitVec 300 :=
  let p := parity.toNat
  BitVec.ofNat 300 (((p <<< 10) % 2 ^ 300) ^^^ rsScale (x.toNat ^^^ (p >>> 290)) rsGen)

/-- The parity symbols in the order they are sent. -/
def paritySyms (parity : BitVec 300) : List (BitVec 10) :=
  (List.range 30).map (fun i => parity.extractLsb' (290 - 10 * i) 10)

/-- Does the decoder correct a codeword with this many wrong symbols?  Thirty parity symbols correct fifteen. -/
def corrects (wrong : Nat) : Bool := decide (wrong ≤ 15)

/-- One message symbol goes out, and after the last of its codeword the parity symbols; the 53rd codeword is the shortened
one of 299 message symbols. -/
def TxLane.symbol (t : TxLane) (x : BitVec 10) : TxLane :=
  let p := rsStep t.parity x
  if t.msg + 1 = (if t.cw = 52 then 299 else 514) then
    { t with out := ((paritySyms p).map Line.sym).reverse ++ .sym x :: t.out, parity := 0, msg := 0, cw := t.cw + 1 }
  else { t with out := .sym x :: t.out, parity := p, msg := t.msg + 1 }

/-- One block goes out: scrambled, cut into 10-bit symbols in transmission order, coded. -/
def TxLane.block (t : TxLane) (b : BitVec 66) : TxLane :=
  let r := scramble t.scr (blkWord b)
  let acc := t.part.toNat + (fld b 0 2 + r.1.toNat * 4) * 2 ^ t.bits
  let n := (t.bits + 66) / 10
  (List.range n).foldl (fun t i => t.symbol (BitVec.ofNat 10 (acc >>> (10 * i))))
    { t with scr := r.2, bits := t.bits + 66 - 10 * n, part := BitVec.ofNat 10 (acc >>> (10 * n)) }

/-- `k` IDLE blocks. -/
def TxLane.idles (t : TxLane) : Nat → TxLane
  | 0 => t
  | k + 1 => TxLane.idles (t.block idleBlock) k

/-- A period begins with a comma; what was left of an earlier one is cut off.  The scrambler runs on. -/
def TxLane.begin (t : TxLane) (comma : BitVec 66) : TxLane :=
  { t with part := 0, bits := 0, msg := 0, cw := 0, parity := 0, out := .comma comma :: t.out }

/-! ### Commas, periods and striping (R273, R274, R285, R294) -/

/-- The comma of a transmit lane (R274). -/
def commaOf (dev n lane : Nat) (act : BitVec 4) : BitVec 66 :=
  let c : BitVec 66 := place 66 0 2 2 ||| place 66 2 40 0x2B9E64D1C7 ||| place 66 42 4 dev ||| place 66 46 5 n |||
    place 66 51 2 lane ||| place 66 53 4 act.toNat
  c ||| place 66 58 8 (commaCrc c).toNat

def commaLane (c : BitVec 66) : Nat := fld c 51 2
def commaPort (c : BitVec 66) : Nat := fld c 46 5
def commaDevOf (c : BitVec 66) : Nat := fld c 42 4
def commaAct (c : BitVec 66) : Nat := fld c 53 4

/-- Rows of blocks in a period. -/
def periodRows : Nat := 4095

/-- The lanes of a set, in ascending order. -/
def lanesOf (m : BitVec 4) : List Nat := (List.range 4).filter (fun r => m.getLsbD r)

def Port.mapTx (x : Port) (ls : List Nat) (f : Nat → TxLane → TxLane) : Port :=
  { x with tx := ls.foldl (fun m r => Tbl.upd TxLane.reset m r (f r)) x.tx }

/-- A new alignment period on the lanes `drive`: a lane that LANE_DOWN named leaves ACT, and sending then restarts from the
oldest unacknowledged packet (R294). -/
def Port.period (x : Port) (dev n : Nat) (drive : BitVec 4) : Port :=
  let act := x.txAct &&& ~~~x.txDrop
  let x := { x with txAct := act, txDrop := 0, resend := if x.txDrop = 0 then x.resend else 0, drive := drive, row := 0, col := 0 }
  x.mapTx (lanesOf drive) (fun r t => t.begin (commaOf dev n r act))

/-- One block of the port's stream: block k of the period goes to the (k mod n)-th of the n active lanes, and with a row of
them one IDLE block to every other driven lane. -/
def Port.put (dev n : Nat) (drive : BitVec 4) (x : Port) (b : BitVec 66) : Port :=
  let x := { x with wire := x.wire ++ [b] }
  let act := lanesOf x.txAct
  match act[x.col]? with
  | none => x
  | some r =>
    let x := x.mapTx [r] (fun _ t => t.block b)
    if x.col + 1 < act.length then { x with col := x.col + 1 }
    else
      let x := { x.mapTx (lanesOf (x.drive &&& ~~~x.txAct)) (fun _ t => t.block idleBlock) with col := 0, row := x.row + 1 }
      if x.row < periodRows then x else x.period dev n drive

/-- IDLE blocks fill what is left of the period on every lane. -/
def Port.fillPeriod (x : Port) : Port :=
  let had := (lanesOf x.txAct).take x.col
  x.mapTx (lanesOf x.drive) (fun r t => t.idles (periodRows - x.row - (had.contains r).toNat))

/-- The lanes start: out of electrical idle with the exit burst, one extra comma and a new period (R298); from silence with a
period. -/
def Port.driveLanes (x : Port) (dev n : Nat) (drive : BitVec 4) : Port :=
  if x.eidleTx then
    let x := { x with eidleTx := false, txAct := x.txAct &&& ~~~x.txDrop, txDrop := 0 }
    let y := x.mapTx (lanesOf drive) (fun r t =>
      { t with out := .comma (commaOf dev n r x.txAct) :: .burst :: t.out })
    y.period dev n drive
  else if x.drive = 0 then x.period dev n drive
  else x

end Sys2Proof.Machine
end

