-- ==== Sys2Proof/Machine/Dram.lean ====
section
/-!
DEFINITION. DRAM as its requesters see it (08): the address map (R211), the bytes and the write buffers (R212, R213), the
error protection (R217 to R219), the activate tables (R222), and what a request does to an idle channel (R223, R224).
-/
namespace Sys2Proof.Machine

def ddrReg (ch o : Nat) : Nat := ro (pDdr ch) o
def ddrCommon (o : Nat) : Nat := ro (pDdr 8) o

/-! ### The address map (R210, R211) -/

/-- Installed capacity in bytes; none is reachable before training (R210). -/
def capacity (s : State) : Nat := if s.cfg.trained then 8 * 2 ^ s.dram.capLog2 else 0

/-- The channel of a byte address (R211). -/
def channelOf (a : Nat) : Nat := (a / 2 ^ 8 % 8) ^^^ (a / 2 ^ 19 % 8) ^^^ (a / 2 ^ 30 % 8)

/-- Subchannel, rank, bank and row of a line. -/
structure RowLoc where
  sub : Nat
  rank : Nat
  bank : Nat
  row : Nat
  deriving DecidableEq, Repr

/-- Column bits within a line: a burst of 16 in the large configuration, of 32 in the small one. -/
def Dram.burstBits (m : Dram) : Nat := if m.lpddr then 5 else 4

/-- Where a line lies in its channel.  A[6] selects the subchannel, and the three most significant bits of the capacity are
those of the row.  DESIGN CHOICE (assumption 101): the bits between map, from the low end, to column, bank with bank group,
rank and row, as many of each as DRAMCFG counts. -/
def Dram.locate (m : Dram) (line : Nat) : RowLoc :=
  let k := line / 2 % 2 + 2 * (line / 32)
  let low := 2 ^ (m.capLog2 - 10)
  let y := k % low / 2 ^ (m.colBits - m.burstBits)
  let z := y / 2 ^ m.bankBits
  { sub := line % 2, rank := z % max 1 m.ranks, bank := y % 2 ^ m.bankBits
    row := k / low % 8 * 2 ^ (m.rowBits - 3) + z / max 1 m.ranks % 2 ^ (m.rowBits - 3) }

/-! ### Bytes (R212, R213, R225) -/

/-- The loss that covers a byte not rewritten since, if any (R225, R498). -/
def Dram.lossAt (m : Dram) (a : Nat) : Option Nat :=
  if Tbl.get false m.rewritten a then none
  else (m.lost.find? (fun r => decide (r.1 ≤ a ∧ a < r.2.1))).map (·.2.2)

/-- A byte of the memory devices: 0 where nothing was written (assumption 3), a free value where contents were lost. -/
def Dram.cell (m : Dram) (a : Nat) : Byte :=
  match m.lossAt a with
  | some k => Config.lostByte k a
  | none => Tbl.get 0 m.bytes a

/-- Store a byte in the memory devices. -/
def Dram.put (m : Dram) (a : Nat) (b : Byte) : Dram :=
  { m with bytes := Tbl.set 0 m.bytes a b,
           rewritten := if m.lost.isEmpty then m.rewritten else Tbl.set false m.rewritten a true }

/-- Store a byte string. -/
def Dram.putAll (m : Dram) : Nat → List Byte → Dram
  | _, [] => m
  | a, b :: bs => Dram.putAll (m.put a b) (a + 1) bs

/-- Byte `i` of a buffered line. -/
def DReq.byte (r : DReq) (i : Nat) : Byte := BitVec.ofNat 8 (fld r.data (8 * i) 8)

/-- The buffered write that covers a byte, if the write buffer holds one (R213). -/
def buffered (s : State) (a : Nat) : Option Byte :=
  match (chanOf s (channelOf a)).wbuf.find? (fun r => r.line == a / 64) with
  | some r => if r.mask.getLsbD (a % 64) then some (r.byte (a % 64)) else none
  | none => none

/-- A byte of DRAM as every accepted write leaves it (R212, R213). -/
def dramByte (s : State) (a : Nat) : Byte := (buffered s a).getD (s.dram.cell a)

/-- A byte string of DRAM. -/
def dramRead (s : State) (a n : Nat) : List Byte := (List.range n).map (fun i => dramByte s (a + i))

/-- The eight words of a line, as every accepted write leaves it. -/
def lineWords (s : State) (line : Nat) : List Word :=
  (List.range 8).map (fun k => BitVec.ofNat 64 (leNat (dramRead s (line * 64 + 8 * k) 8)))

/-- Does the write buffer hold every byte of the line? -/
def lineBuffered (s : State) (line : Nat) : Bool :=
  (chanOf s (channelOf (64 * line))).wbuf.any (fun r => r.line == line && r.mask == BitVec.allOnes 64)

/-! ### Errors (R217 to R219, R237) -/

/-- What the error protection makes of a line: kind as ERR_ADDR shows it, and the device position. -/
inductive EccOut where
  | clean
  | corrected (kind dev : Nat)
  | uncorrectable
  deriving DecidableEq, Repr

/-- The large configuration corrects one device of the subchannel and detects two; in the small one each device corrects one
bit of its own and the link one bit of a transfer (R217).  What lies beyond is taken as detected (assumption 102). -/
def Dram.ecc (m : Dram) (e : DramErr) : EccOut :=
  if m.lpddr then
    if decide (1 < e.link) || (e.multi && !e.devs.isEmpty) then .uncorrectable
    else if e.link = 1 then .corrected 2 0
    else match e.devs with | [] => .clean | d :: _ => .corrected 0 d
  else match e.devs.eraseDups with | [] => .clean | [d] => .corrected 0 d | _ => .uncorrectable

/-- ERR_ADDR of a line's channel. -/
def errAddr (s : State) (line kind dev : Nat) : State :=
  let a := line * 64
  let ch := channelOf a
  setReg (setReg s (ddrReg ch 0x08C) (BitVec.ofNat 32 a)) (ddrReg ch 0x090)
    (place 32 0 9 (a / 2 ^ 32) ||| place 32 9 2 kind ||| place 32 11 3 (s.dram.locate line).rank ||| place 32 14 5 dev |||
      place 32 31 1 1)

/-- A corrected error: counted and recorded; more than 256 from one device of one rank within 1 s are logged, in the large
configuration (R218).  DESIGN CHOICE (assumption 119): DETAIL holds the rank in [5:3] and the device position in [10:6], above
the channel, and after the event the device's second begins anew. -/
def corrected (s : State) (line kind dev : Nat) : State :=
  let ch := channelOf (64 * line)
  let rank := (s.dram.locate line).rank
  let s := errAddr (bump s (ddrReg ch 0x084) 1) line kind dev
  if s.dram.lpddr then s
  else
    let c := chanOf s ch
    let k := rank * 32 + dev
    let ts := (Tbl.get [] c.ceDev k ++ [s.tb]).filter (fun t => decide ((s.tb - t).toNat ≤ 256000000000))
    if 256 < ts.length then
      logEvent (putChan s ch { c with ceDev := Tbl.set [] c.ceDev k [] }) (pDdr ch) 0x0030
        (place 32 0 3 ch ||| place 32 3 3 rank ||| place 32 6 5 dev)
    else putChan s ch { c with ceDev := Tbl.set [] c.ceDev k ts }

/-- An uncorrectable error: counted and recorded; its device position reads 0, as that of a link error does: DESIGN CHOICE
(assumption 119). -/
def uncorrectable (s : State) (line : Nat) : State := errAddr (bump s (ddrReg (channelOf (64 * line)) 0x088) 1) line 1 0

/-- Event DRAM_UE, for a requester that is no QPORT (R219).  DESIGN CHOICE (assumption 119): DETAIL, which R374 gives the
channel in [2:0], holds the address in [31:3], as bits 6 to 34. -/
def dramUe (s : State) (line : Nat) : State :=
  let ch := channelOf (64 * line)
  logEvent (uncorrectable s line) (pDdr ch) 0x0031 (place 32 0 3 ch ||| place 32 3 29 line)

/-- What a requester that is no QPORT finds: the data is returned in every case (R218, R219). -/
def eccReport (s : State) (line : Nat) (e : DramErr) : State :=
  match s.dram.ecc e with
  | .clean => s
  | .corrected kind dev => corrected s line kind dev
  | .uncorrectable => dramUe s line

/-- What is wrong with a line. -/
def lineErr (s : State) (line : Nat) : DramErr := Tbl.get DramErr.none s.dram.bad line

/-- The contents of a range of DRAM become unknown: what the device keeps there has no layout that the spec states. -/
def Dram.lose (m : Dram) (a b : Nat) : Dram :=
  { m with losses := m.losses + 1, lost := (a, b, m.losses + 1) :: m.lost
           rewritten := m.rewritten.filter (fun e => !decide (a ≤ e.1 ∧ e.1 < b)) }

/-- What is wrong with a line that one error after another has struck. -/
def addErr (a b : DramErr) : DramErr :=
  { devs := a.devs ++ b.devs, multi := a.multi || b.multi || a.devs.any (fun d => b.devs.contains d), link := a.link + b.link }

/-- An error strikes a line; bytes that cannot be corrected are unknown from then on (assumption 120). -/
def Dram.strikeOne (m : Dram) (e : LineErr) : Dram :=
  let old := Tbl.get DramErr.none m.bad e.line
  let now := addErr old e.err
  let m := { m with bad := Tbl.set DramErr.none m.bad e.line now }
  let ue := fun x : DramErr => decide (m.ecc { x with link := 0 } = .uncorrectable)
  if ue now && !ue old then m.lose (64 * e.line) (64 * e.line + 64) else m

/-- Errors that have struck lines, as a command brings them. -/
def strike (s : State) (es : List LineErr) : State := { s with dram := es.foldl Dram.strikeOne s.dram }

/-- A line was written with ECC formed anew: nothing is wrong with it. -/
def Dram.mend (m : Dram) (line : Nat) : Dram := { m with bad := Tbl.set DramErr.none m.bad line DramErr.none }

/-- A transfer is over: what the link got wrong is gone. -/
def Dram.unlink (m : Dram) (line : Nat) : Dram :=
  { m with bad := Tbl.upd DramErr.none m.bad line (fun e => { e with link := 0 }) }

/-- A row of a line is read, with whatever is wrong there, by a requester that is no QPORT. -/
def eccRead (s : State) (line : Nat) : State :=
  let s := eccReport s line (lineErr s line)
  { s with dram := s.dram.unlink line }

/-! ### Activates (R222 to R224) -/

/-- One activate of a row in a bank's table of 16: the table, and the row's count (R222).  DESIGN CHOICE (assumption 119): of
several entries with the smallest count the first is replaced. -/
def actRow (t : List (Nat × Nat)) (row : Nat) : List (Nat × Nat) × Nat :=
  match t.find? (fun e => e.1 == row) with
  | some e => (t.map (fun x => if x.1 = row then (row, e.2 + 1) else x), e.2 + 1)
  | none =>
    if t.length < 16 then (t ++ [(row, 1)], 1)
    else
      let m := (t.map (·.2)).foldl min (t.headD (0, 0)).2
      let i := t.findIdx (fun e => e.2 == m)
      (t.set i (row, m + 1), m + 1)

/-- An activate of a line's row; at RH_THRESH the row is acted on and its count returns to 0. -/
def activate (s : State) (line : Nat) : State :=
  let ch := channelOf (64 * line)
  let loc := s.dram.locate line
  let c := chanOf s ch
  let k := (loc.rank * 2 + loc.sub) * 256 + loc.bank
  let (t, n) := actRow (Tbl.get [] c.act k) loc.row
  let s := putChan s ch { c with act := Tbl.set [] c.act k (if regF s (ddrCommon 0x090) 0 15 ≤ n then
    t.map (fun x => if x.1 = loc.row then (x.1, 0) else x) else t) }
  if n < regF s (ddrCommon 0x090) 0 15 then s
  else if s.dram.rfm then bump s (ddrReg ch 0x098) 1 else bump s (ddrReg ch 0x094) 1

/-- A request for a line takes its channel out of self-refresh and its rank out of power-down (R223, R224). -/
def wakeLine (s : State) (line : Nat) : State :=
  let ch := channelOf (64 * line)
  let c := chanOf s ch
  putChan s ch { c with selfRefresh := false, rankPd := c.rankPd &&& ~~~(place 4 (s.dram.locate line).rank 1 1) }

/-- Merge a write into a buffered line: the bytes of its mask replace the old ones (R213). -/
def DReq.merge (old new : DReq) : DReq :=
  let data := (List.range 64).foldl (fun (d : BitVec 512) k =>
    if new.mask.getLsbD k then setFld d (8 * k) 8 (fld new.data (8 * k) 8) else d) old.data
  { old with mask := old.mask ||| new.mask, data := data }

/-- The write buffer with a write merged into its line's entry, or in an entry of its own. -/
def bufferWrite (l : List DReq) (r : DReq) : List DReq :=
  if l.any (fun x => x.line == r.line) then l.map (fun x => if x.line = r.line then x.merge r else x) else l ++ [r]

/-- Write the masked bytes of a buffered line to the memory devices. -/
def writeBack (m : Dram) (r : DReq) : Dram :=
  (List.range 64).foldl (fun m k => if r.mask.getLsbD k then m.put (r.line * 64 + k) (r.byte k) else m) m

/-- Is a retrain in progress?  Requests of the host and of Chital wait for its end (R229). -/
def retraining (s : State) : Bool := (List.range 8).any (fun ch => (chanOf s ch).retraining)

end Sys2Proof.Machine
end

