-- ==== Sys2Proof/Machine/Operands.lean ====
section
/-!
DEFINITION. The forms operands take: step words and their classes (R72, R73, R76), data-store addresses (R62), function
table and route entries (R70, R84, R87), the band word (R75), TMEM and QPORT address words (R126, R130), and the checks at
issue (R79).
-/
namespace Sys2Proof.Machine

/-! ### Step words -/

def wFN (w : StepWord) : Nat := fld w 0 8
/-- Operand address j: 0 for SA to 3 for SD. -/
def wS (w : StepWord) (j : Nat) : Nat := fld w (8 + 10 * j) 10
def wWA (w : StepWord) : Nat := fld w 48 10
def wCLS (w : StepWord) : Nat := fld w 58 2
def wARG (w : StepWord) : Nat := fld w 60 6
def wRSV (w : StepWord) : Nat := fld w 66 5

def isSend (w : StepWord) : Bool := wCLS w == 1
def isHeavy (w : StepWord) : Bool := wCLS w == 2
def isSys (op : Nat) (w : StepWord) : Bool := wCLS w == 3 && wARG w == op
def isNop (w : StepWord) : Bool := isSys 0 w
def isWaitq (w : StepWord) : Bool := isSys 1 w
def isEnd (w : StepWord) : Bool := isSys 2 w

/-- The NOP word (R83 example, R163): SYS NOP, every other field zero. -/
def nopWord : StepWord := 0x000C00000000000000

/-- The word of BP `n` at step `s` (R58). -/
def Store.word (st : Store) (n s : Nat) : StepWord := Tbl.get st.imemFill st.imem (n * 4096 + s)

/-- Entry `e` of band `b`: the truth table in [15:0], valid in bit 16 (R81). -/
def Store.fn (st : Store) (b e : Nat) : BitVec 17 := Tbl.get 0 st.ftab (b * 256 + e)

/-- Route entry `r` of BP `n`. -/
def Store.route (st : Store) (n r : Nat) : BitVec 32 := Tbl.get 0 st.rtab (n * 64 + r)

/-- Key of mailbox m of BP n in generation buffer g. -/
def mbxKey (g n m : Nat) : Nat := g * 262144 + n * 256 + m

/-- Is the value of DS address `a` available to BP `n` in cycle `c` (R33, R60)? -/
def Store.present (st : Store) (c n a : Nat) : Bool :=
  if a < 0x300 then true else Tbl.get false st.mbxHere (mbxKey (c % 2) n (a - 0x300))

/-- The value at DS address `a` for BP `n` in cycle `c` (R62). -/
def Store.slot (st : Store) (c n a : Nat) : Bool :=
  if a = 0 then false
  else if a = 1 then true
  else if a < 0x280 then Tbl.get false st.ds (n * 1024 + a)
  else if a < 0x2C0 then Tbl.get false st.win (n / 64 * 64 + (a - 0x280))
  else if a < 0x300 then Tbl.get false st.ports (n * 64 + (a - 0x2C0))
  else Tbl.get false st.mbxVal (mbxKey (c % 2) n (a - 0x300))

/-- The result of BP `n` at step `s` of cycle `c` (R59): bit A + 2B + 4C + 8D of its function entry, 0 for a NOP. -/
def Store.result (st : Store) (c s n : Nat) : Bool :=
  let w := st.word n s
  if isNop w then false
  else
    let b := fun j => (st.slot c n (wS w j)).toNat
    (st.fn (n / 64) (wFN w)).getLsbD (b 0 + 2 * b 1 + 4 * b 2 + 8 * b 3)

/-- The table that holds true where the list does. -/
def boolTbl (rs : List Bool) : Tbl Bool := (rs.zipIdx.filter (fun x => x.1)).map (fun x => (x.2, true))

/-- The band word of band `b` from the results of a step (R75). -/
def bandWord (rs : Tbl Bool) (b : Nat) : Word :=
  BitVec.ofNat 64 ((List.range 64).foldl (fun v k => v + (Tbl.get false rs (b * 64 + k)).toNat * 2 ^ k) 0)

/-- DS writes of a step: slot 0x002 to 0x27F by every word but a NOP (R59, R63, R76). -/
def Store.writesOf (st : Store) (s : Nat) (rs : Tbl Bool) : List (Nat × Bool) :=
  (List.range 1024).filterMap (fun n =>
    let w := st.word n s
    if isNop w ∨ wWA w < 2 ∨ 0x280 ≤ wWA w then none else some (n * 1024 + wWA w, Tbl.get false rs n))

/-! ### Checks at issue (R79, R188) -/

/-- What a BP finds when its step begins: bad parity of the word (0), of a table entry in use (1 function, 2 route), or a
fault with its FLT_DETAIL. -/
inductive Check where
  | parity (what key : Nat)
  | fault (code : Nat) (detail : Reg)
  deriving DecidableEq, Repr

/-- Is the finding a parity error? -/
def Check.isParity : Check → Bool
  | .parity _ _ => true
  | .fault _ _ => false

/-- Does any BP of the tile hold END at the step (R77)? -/
def Store.endsAt (st : Store) (s : Nat) : Bool := (List.range 1024).any (fun n => isEnd (st.word n s))

/-- Annotation word of BP `n` at step `s` (R187). -/
def Store.annot (st : Store) (n s : Nat) : StepWord := st.word n (2048 + s)

/-- The first operand that fails its annotation: (operand, slot, annotation bit) (R188). -/
def Store.hazard (st : Store) (n s : Nat) (w : StepWord) : Option (Nat × Nat × Bool) :=
  ((List.range 4).find? (fun j =>
    let a := wS w j
    decide (2 ≤ a ∧ a < 0x280) &&
      (Tbl.get false st.written (n * 1024 + a) != (st.annot n s).getLsbD j))).map
    (fun j => (j, wS w j, (st.annot n s).getLsbD j))

/-- The checks of BP `n` at step `s` in their order (R79), then the annotations of a debug image (R188). -/
def Store.check (st : Store) (debug ends : Bool) (s n : Nat) : Option Check :=
  let w := st.word n s
  let hi := BitVec.ofNat 32 (fld w 48 24)
  let fkey := n / 64 * 256 + wFN w
  let rkey := n * 64 + wARG w
  if !evenParity w then some (.parity 0 (n * 4096 + s))
  else if wRSV w ≠ 0 ∨ (wCLS w = 0 ∧ wARG w ≠ 0) ∨ (isHeavy w ∧ 9 ≤ wARG w / 4) then some (.fault 0x01 hi)
  else if (wCLS w = 3 ∧ 5 ≤ wARG w) ∨ (isWaitq w ∧ wS w 0 / 2 % 8 ≠ 0) then some (.fault 0x0A hi)
  else if isHeavy w ∧ n % 64 ≠ 0 then some (.fault 0x08 hi)
  else if 0x280 ≤ wWA w ∧ !isNop w then some (.fault 0x02 hi)
  else if !isNop w ∧ (1, fkey) ∈ st.badParity then some (.parity 1 fkey)
  else if !isNop w ∧ !(st.fn (n / 64) (wFN w)).getLsbD 16 then some (.fault 0x03 (BitVec.ofNat 32 (wFN w)))
  else if isSend w ∧ (2, rkey) ∈ st.badParity then some (.parity 2 rkey)
  else if isSend w ∧ !(st.route n (wARG w)).getLsbD 0 then some (.fault 0x04 (BitVec.ofNat 32 (wARG w)))
  else if (s = 4095 ∨ (debug ∧ s = 2047)) ∧ !ends then some (.fault 0x0B 0)
  else if debug ∧ !isNop w then
    (st.hazard n s w).map (fun h =>
      .fault 0x0C (place 32 0 10 h.2.1 ||| place 32 10 2 h.1 ||| place 32 12 1 h.2.2.toNat))
  else none

/-! ### Routes (R84 to R87) -/

/-- The target of a route entry of a tile on die `d` of device `dev` (R85). -/
def routeTarget (r : BitVec 32) : Target :=
  if fld r 30 2 = 3 then .outQueue else .tile (fld r 26 4) (fld r 24 2) (fld r 20 4)

/-- The record a SEND makes (R93). -/
def routeRec (r : BitVec 32) (res : Bool) : Rec :=
  if fld r 30 2 = 3 then { res := res, a := fld r 10 6, m := fld r 4 6, gen := false }
  else { res := res, a := fld r 10 10, m := fld r 2 8, gen := r.getLsbD 1 }

/-- The SENDs of a step in ascending BP number (R89). -/
def Store.sendsOf (st : Store) (s : Nat) (rs : Tbl Bool) : List (Target × Rec) :=
  (List.range 1024).filterMap (fun n =>
    let w := st.word n s
    if isSend w then
      let r := st.route n (wARG w)
      some (routeTarget r, routeRec r (Tbl.get false rs n))
    else none)

/-- The heavy issues of a step: band leaders, ascending unit, ascending band within a unit (R32, R61, R120). -/
def Store.issuesOf (st : Store) (s cyc : Nat) (rs : Tbl Bool) : List Issue :=
  (List.range 9).flatMap (fun u => (List.range 16).filterMap (fun b =>
    let w := st.word (b * 64) s
    if isHeavy w ∧ wARG w / 4 = u then
      some { unit := u, op := wARG w % 4, band := b, word := bandWord rs b, cyc := cyc, step := s }
    else none))

/-- The number of heavy issues of a step (R145). -/
def Store.heavyCount (st : Store) (s : Nat) : Nat :=
  ((List.range 16).filter (fun b => isHeavy (st.word (b * 64) s))).length

/-- The queues that WAITQ words of a step name, and the lowest BP that names queue q (R76, R134, R183). -/
def Store.waitqBp (st : Store) (s q : Nat) : Option Nat :=
  (List.range 1024).find? (fun n => let w := st.word n s; isWaitq w && (wS w 0 % 2 == q))

/-! ### Address words -/

/-- TMEM: word within the bank, bank of the die, write enable, mailbox (R126). -/
def tmWord (a : Word) : Nat := fld a 0 18
def tmBank (die : Nat) (a : Word) : Nat := 32 * die + fld a 18 5
def tmWen (a : Word) : Bool := a.getLsbD 23
def tmMbx (a : Word) : Nat := fld a 24 8

/-- QPORT: byte address, write enable of QWA (R130). -/
def qpAddr (a : Word) : Nat := fld a 0 41
def qwWen (a : Word) : Bool := a.getLsbD 63

/-- Rewrite an item with good parity. -/
def Store.setItem (st : Store) (storage k v : Nat) : Store :=
  match storage with
  | 0 => { st with imem := Tbl.set st.imemFill st.imem k (BitVec.ofNat 72 v) }
  | 1 => { st with ftab := Tbl.set 0 st.ftab k (BitVec.ofNat 17 v), badParity := st.badParity.erase (1, k) }
  | 2 => { st with rtab := Tbl.set 0 st.rtab k (BitVec.ofNat 32 v), badParity := st.badParity.erase (2, k) }
  | _ => { st with ptab := Tbl.set 0 st.ptab k (BitVec.ofNat 16 v), badParity := st.badParity.erase (3, k) }

/-- What a tile's step reads: its store, with the words that the hub has handed it for this use (R414). -/
def Tile.seen (t : Tile) : Tile := { t with st := t.lent.foldl (fun st x => st.setItem x.1 x.2.1 x.2.2) t.st }

end Sys2Proof.Machine
end

