-- ==== Sys2Proof/Machine/Flags.lean ====
section
/-!
DEFINITION. Flags: the event flags of job contexts and the stops they cause (R352, R357, R360), the trigger flag word and
the events that reach Markhor (R321 to R326).
-/
namespace Sys2Proof.Machine

/-! ### Context flags (R357) -/

def ctxFlags (s : State) (c : Nat) : Word := Tbl.get 0 s.saiga.flags c

def putFlags (s : State) (c : Nat) (w : Word) : State :=
  { s with saiga := { s.saiga with flags := Tbl.set 0 s.saiga.flags c w } }

/-- The run stops when (flags of CTX AND STOP_MASK) is non-zero: after cycle c + 1 for a CMP event of cycle c, and for any
other event at the largest cycle begun (R43, assumption 19). -/
def eventStop (s : State) (cyc : Option Nat) : State :=
  let m := ctxFlags s s.run.ctx &&& s.run.stopMask
  if s.run.active && m != 0 then
    match cyc with
    | some c =>
      let s1 := stopRun s 2 (c + 1)
      if s1.run.cause = some 2 ∧ s.run.cause ≠ some 2 then { s1 with run := { s1.run with stopFlags := m } } else s1
    | none =>
      let s1 := stopNow { s with run := { s.run with stopFlags := m } } 2
      if s1.run.active && s1.run.stopAt == s.run.stopAt then s else s1
  else s

/-- Flags of a context that have been set in the present HUBCLK period, which clears of the period come before. -/
def freshFlags (s : State) (c : Nat) : Word := Tbl.get 0 s.saiga.fresh c

/-- Set flags of a context. -/
def raiseFlags (s : State) (c : Nat) (w : Word) : State :=
  let s1 := putFlags s c (ctxFlags s c ||| w)
  { s1 with saiga := { s1.saiga with fresh := Tbl.set 0 s1.saiga.fresh c (freshFlags s c ||| w) } }

/-- Clear flags of a context, but for those set in this period. -/
def dropFlags (s : State) (c : Nat) (w : Word) : State := putFlags s c (ctxFlags s c &&& ~~~(w &&& ~~~(freshFlags s c)))

/-- Set one flag of a context. -/
def setFlag (s : State) (c f : Nat) (cyc : Option Nat) : State :=
  let s1 := raiseFlags s c (place 64 f 1 1)
  if c = s.run.ctx then eventStop s1 cyc else s1

/-- Clear one flag of a context. -/
def clrFlag (s : State) (c f : Nat) : State := dropFlags s c (place 64 f 1 1)

/-! ### The trigger flag word (R324, R325) -/

/-- The word as pending: the sticky bits with ARMED and DONE. -/
def flagWord (s : State) : Word :=
  s.mkh.sticky ||| place 64 45 1 (mkhArmed s).toNat ||| place 64 46 1 (decide (s.mkh.state = 3)).toNat

/-- Set a sticky bit of the trigger flag word. -/
def setTrig (s : State) (b : Nat) : State :=
  { s with mkh := { s.mkh with sticky := s.mkh.sticky ||| place 64 b 1 1 } }

/-- The sticky bit that an event's source sets, if any (R324). -/
def trigBit (src : Nat) : Option Nat :=
  if src < 0x20 then some src
  else if 0x28 ≤ src ∧ src < 0x2C then some (41 + (src - 0x28))
  else if 0x30 ≤ src ∧ src < 0x38 then some (48 + (src - 0x30))
  else none

/-! ### TRIG_OUT and the event queue (R321, R322, R326) -/

def pulseOf (s : State) (k : Nat) : Pulse := Tbl.get { due := [], active := false, ext := false } s.mkh.pulses k

def putPulse (s : State) (k : Nat) (x : Pulse) : State :=
  { s with mkh := { s.mkh with pulses := Tbl.set { due := [], active := false, ext := false } s.mkh.pulses k x } }

/-- The delay of a TRIG_OUT pin in ns: 0, or 200 to 65,535 (R341). -/
def trigDelay (s : State) (k : Nat) : Nat :=
  let d := regF s (ro pAcq (0x0D0 + 4 * k)) 16 16
  if d = 0 then 0 else max 200 d

/-- A pulse becomes due on every pin whose SRC names the source (and STG the stage), while Markhor is armed (R326). -/
def trigOut (s : State) (src stg : Nat) (stamp : Word) : State :=
  if !mkhArmed s then s
  else (List.range 4).foldl (fun s k =>
    let a := ro pAcq (0x0D0 + 4 * k)
    if regF s a 0 6 = src ∧ src ≠ 0x3F ∧ (src ≠ 0x3D ∨ regF s a 6 3 = stg) then
      let x := pulseOf s k
      putPulse s k { x with due := x.due ++ [stamp + BitVec.ofNat 64 (256 * trigDelay s k)] }
    else s) s

/-- An event joins the sequencer's queue: behind all earlier ones, and among those of its HUBCLK period by ascending source
code (R322). -/
def queueEvent (q : List MEvent) (e : MEvent) : List MEvent :=
  let behind := fun x : MEvent => decide (x.arr.toNat / 256 = e.arr.toNat / 256 ∧ e.src < x.src)
  q.filter (fun x => !behind x) ++ e :: q.filter behind

/-- An event reaches Markhor: its bit of the flag word, its TRIG_OUT pins, and the sequencer's queue, where a full queue
loses it (R322, R324). -/
def mkhEvent (s : State) (e : MEvent) : State :=
  let s := match trigBit e.src with | some b => setTrig s b | none => s
  let s := trigOut s e.src 0 e.stamp
  if mkhArmed s && regBit s (ro pAcq 0x080) 2 then
    if s.mkh.queue.length < 256 then { s with mkh := { s.mkh with queue := queueEvent s.mkh.queue { e with arr := s.tb } } }
    else setTrig (bump s (ro pAcq 0x08C) 1) 47
  else s

/-- An event with no sample behind it, stamped now. -/
def plainEvent (s : State) (src cyc : Nat) : MEvent :=
  { src := src, frac := 0, time := s.tb, stamp := s.tb, idx := 0, cyc := cyc, tag := none, arr := s.tb }

end Sys2Proof.Machine
end

