-- ==== Sys2Proof/Machine/Image.lean ====
section
/-!
DEFINITION. Containers and images as byte sources: header checks (R382 to R384, R394), sections and subsections (R385,
R386), decryption, CRC and TAG (R387), the image's directory and load checks (R159 to R181), what a swap writes (R163,
R405), and the golden copy (R405).
-/
namespace Sys2Proof.Machine

/-- A string of bytes read by position; bytes beyond its end read 0. -/
abbrev Bytes := Nat → Byte

def bytesOf (bs : List Byte) : Bytes := let a := bs.toArray; fun i => a.getD i 0

/-- The little-endian number of `n` bytes at `off`. -/
def rd (g : Bytes) (off n : Nat) : Nat := leNat ((List.range n).map (fun i => g (off + i)))

/-- Are `n` bytes from `off` zero? -/
def allZero (g : Bytes) (off n : Nat) : Bool := (List.range n).all (fun i => g (off + i) == 0)

/-- `n` bytes from `off`. -/
def slice (g : Bytes) (off n : Nat) : List Byte := (List.range n).map (fun i => g (off + i))

/-! ### Keys (R388, R389) -/

def steppingCode (s : State) : Nat := match s.hw.stepping with | .a0 => 0 | .b0 => 1

/-- The key of a container's slot, if the slot is usable with this KEY_ID. -/
def keyFor (s : State) (slot : Nat) (kid : Word) : Option (BitVec 256) :=
  let k := s.keys
  if slot = 0 ∧ k.fuseSet ∧ keyId k.fuseKey = kid then some k.fuseKey
  else if slot = 1 ∧ k.bbSet ∧ !k.bbramDis ∧ keyId k.bbKey = kid then some k.bbKey
  else none

/-- The key K that a container named: the fuse key, the BBRAM key (R383). -/
def slotKey (s : State) (slot : Nat) : List Byte :=
  leBytes 32 (if slot = 1 then s.keys.bbKey else s.keys.fuseKey).toNat

/-! ### Container headers (R382 to R385, R394) -/

def conKind (g : Bytes) : Nat := rd g 6 2
def conKeySlot (g : Bytes) : Nat := (g 0x0D).toNat
def conTotal (g : Bytes) : Nat := rd g 0x28 8
def conSects (g : Bytes) : Nat := rd g 0x0E 2

/-- Section table entry i: (type, offset in bytes, length). -/
def conSect (g : Bytes) (i : Nat) : Nat × Nat × Nat :=
  ((g (0x40 + 16 * i)).toNat, 64 * rd g (0x44 + 16 * i) 4, rd g (0x48 + 16 * i) 8)

/-- The section table satisfies R382, R384 and R385 for a container of this kind. -/
def sectTableOk (g : Bytes) (kind : Nat) : Bool :=
  let n := conSects g
  let es := (List.range n).map (conSect g)
  let tys := es.map (·.1)
  let ends := (es.map (fun e => e.2.1 + e.2.2))
  decide (1 ≤ n ∧ n ≤ 12) &&
  (List.range n).all (fun i => allZero g (0x41 + 16 * i) 3) &&
  allZero g (0x40 + 16 * n) (192 - 16 * n) &&
  (List.zip tys (tys.drop 1)).all (fun p => decide (p.1 < p.2)) &&
  es.all (fun e => e.2.2 % 64 == 0) &&
  (es.map (·.2.1)) == 0x100 :: ends.dropLast &&
  (ends.getLastD 0) + 64 == conTotal g &&
  tys.all (fun t => if kind = 1 then decide (1 ≤ t ∧ t ≤ 6) else decide (t = 5 ∨ t = 6)) &&
  (if kind = 1 then [1, 3, 4] else [5]).all (fun t => tys.contains t)

/-- The checks of R394 in their order; the container code of the first failure (R399). -/
def headerCheck (s : State) (g : Bytes) (kind : Nat) (fromStore : Bool) : Option Nat :=
  let ks := conKeySlot g
  if rd g 0 4 ≠ 0x41554F46 ∨ rd g 4 2 ≠ 1 then some 0x40
  else if conKind g ≠ kind then some 0x48
  else if rd g 8 2 ≠ 0x564B ∨ rd g 0x0A 2 ≠ 0x6416 then some 0x41
  else if !(g 0x0C).getLsbD (steppingCode s) then some 0x42
  else if ¬ (ks = 0 ∨ ks = 1 ∨ ks = 0xFF) then some 0x44
  else if ks = 0xFF ∧ !(allZero g 0x10 8 && allZero g 0x18 12) then some 0x44
  else if ks = 0xFF ∧ s.keys.plainDis then some 0x43
  else if ks ≠ 0xFF ∧ (keyFor s ks (BitVec.ofNat 64 (rd g 0x10 8))).isNone then some 0x43
  else if !(allZero g 0x24 4 && allZero g 0x30 16) then some 0x44
  else if fromStore ∧ 268435456 < conTotal g then some 0x44
  else if !sectTableOk g kind then some 0x44
  else none

/-! ### Body, subsections, trailer (R386, R387) -/

/-- The plaintext of a container, header included: the body is decrypted in counter mode unless the key slot is NONE. -/
def conPlain (s : State) (bs : List Byte) : List Byte :=
  let g := bytesOf bs
  let ks := conKeySlot g
  if ks = 0xFF then bs
  else
    let body := (bs.drop 0x100).take (conTotal g - 0x140)
    bs.take 0x100 ++ gcmCrypt (slotKey s ks) (slice g 0x18 12) body ++ bs.drop (conTotal g - 64)

/-- CRC, then TAG, of a whole container and its plaintext (R387): the code of the first failure. -/
def trailerCheck (s : State) (bs plain : List Byte) : Option Nat :=
  let g := bytesOf bs
  let n := conTotal g
  let ks := conKeySlot g
  let tag := slice g (n - 48) 16
  if (crc64 (plain.take (n - 64))).toNat ≠ rd g (n - 64) 8 then some 0x47
  else if ks = 0xFF then (if tag.all (· == 0) then none else some 0x46)
  else if gcmTag (slotKey s ks) (slice g 0x18 12) (bs.take 0x100) ((bs.drop 0x100).take (n - 0x140)) = tag then none
  else some 0x46

/-- The subsections that fill a section: (DEV, content offset, content length); none where R386 is broken. -/
def subsections (g : Bytes) : Nat → Nat → Nat → Option (List (Nat × Nat × Nat))
  | 0, _, len => if len = 0 then some [] else none
  | fuel + 1, off, len =>
    if len = 0 then some []
    else
      let dev := (g off).toNat
      let n := rd g (off + 8) 8
      let full := 64 + (n + 63) / 64 * 64
      if (dev < 16 ∨ dev = 0xFF) ∧ allZero g (off + 1) 7 ∧ allZero g (off + 16) 48 ∧ full ≤ len ∧
          allZero g (off + 64 + n) (full - 64 - n) then
        (subsections g fuel (off + full) (len - full)).map ((dev, off + 64, n) :: ·)
      else none

/-- A section's type has its entry here, if the container holds the section. -/
def findSect (g : Bytes) (ty : Nat) : Option (Nat × Nat) :=
  ((List.range (conSects g)).map (conSect g)).findSome? (fun e => if e.1 = ty then some (e.2.1, e.2.2) else none)

/-- What a section offers a device: broken, nothing for this device, or its content's place (R386). -/
inductive SubFind where
  | broken
  | absent
  | at (off len : Nat)
  deriving DecidableEq, Repr

/-- The device's subsection in a section: its own DEV if present, else 0xFF. -/
def subFor (g : Bytes) (dev : Nat) (sect : Nat × Nat) : SubFind :=
  match subsections g (sect.2 / 64) sect.1 sect.2 with
  | none => .broken
  | some l =>
    if (l.map (·.1)).eraseDups.length ≠ l.length then .broken
    else match l.find? (fun x => x.1 == dev), l.find? (fun x => x.1 == 0xFF) with
      | some x, _ => .at x.2.1 x.2.2
      | none, some x => .at x.2.1 x.2.2
      | none, none => .absent

/-! ### The image (R159 to R170) -/

/-- A section directory entry (R161). -/
structure ISect where
  ty : Nat
  tile : Nat
  off : Nat
  len : Nat
  deriving DecidableEq, Repr

def iLen (g : Bytes) : Nat := rd g 0x10 8
def iL (g : Bytes) : Nat := rd g 8 2
def iFlag (g : Bytes) (b : Nat) : Bool := (g 6).getLsbD b
def iNumReg (g : Bytes) : Nat := rd g 0x44 4
def iDir (g : Bytes) : List ISect :=
  (List.range (rd g 0x0E 2)).map (fun i =>
    let e := 0x100 + 24 * i
    { ty := rd g e 2, tile := rd g (e + 2) 2, off := rd g (e + 8) 8, len := rd g (e + 16) 8 })

/-- Where section `ty` of `tile` begins. -/
def iSect (dir : List ISect) (ty tile : Nat) : Option ISect := dir.find? (fun e => e.ty == ty && e.tile == tile)
def iOff (dir : List ISect) (ty tile : Nat) : Nat := ((iSect dir ty tile).map (·.off)).getD 0
/-- The directory index of a section, 0xFFFF for none. -/
def iIdx (dir : List ISect) (ty tile : Nat) : Nat :=
  match dir.findIdx? (fun e => e.ty == ty && e.tile == tile) with | some i => i | none => 0xFFFF

def perTile (ty : Nat) : Bool := decide (1 ≤ ty ∧ ty ≤ 7) || ty == 0x0C || ty == 0x10

/-- The tiles whose sections an image holds. -/
def iTiles (dir : List ISect) : List Nat :=
  (List.range 64).filter (fun t => dir.any (fun e => perTile e.ty && e.tile == t))

/-- The location word of R180. -/
def locWord (tile bp entry idx : Nat) : Word :=
  place 64 0 6 tile ||| place 64 6 10 bp ||| place 64 16 8 entry ||| place 64 32 16 idx

/-- Step word s of BP n of a tile in a section at `off` (R163). -/
def iWord (g : Bytes) (off L n s : Nat) : StepWord := BitVec.ofNat 72 (rd g (off + (n * L + s) * 9) 9)
def iFn (g : Bytes) (off i : Nat) : BitVec 32 := BitVec.ofNat 32 (rd g (off + 4 * i) 4)
def iPort (g : Bytes) (off i : Nat) : BitVec 16 := BitVec.ofNat 16 (rd g (off + 2 * i) 2)
def iMbx (g : Bytes) (dir : List ISect) (t : Nat) : BitVec 256 := BitVec.ofNat 256 (rd g (iOff dir 6 t) 32)

/-- A failed check: code and location. -/
abbrev IFail := Nat × Word

/-- The length a section must have, if fixed (R162). -/
def wantLen (g : Bytes) (e : ISect) : Option Nat :=
  match e.ty with
  | 0x01 => some (1024 * iL g * 9)
  | 0x02 => some 16384
  | 0x03 => some 262144
  | 0x04 => some 2048
  | 0x05 => some 81920
  | 0x06 => some 32
  | 0x07 => some (1024 * iL g * 9)
  | 0x08 => some 2097152
  | 0x09 => some 128
  | 0x0A => some (40 * iNumReg g)
  | 0x0C => some (8 + 32 * rd g e.off 4)
  | 0x0D => some 16
  | 0x0E => some (8 * (g 0x2C).toNat)
  | 0x10 => some 32
  | _ => none

/-- HDR_FORMAT of an image of `n` bytes (R160 to R163, R179). -/
def chkFormat (g : Bytes) (n : Nat) : Option IFail :=
  let dir := iDir g
  let bad := fun (t i : Nat) => some (0x20, locWord t 0 0 i)
  let any := locWord 0x3F 0 0 0xFFFF
  if rd g 0 4 ≠ 0x564B5A49 ∨ rd g 4 2 ≠ 1 ∨ rd g 6 2 / 4 ≠ 0 ∨
      !(allZero g 0x0B 1 && allZero g 0x2D 3 && allZero g 0x48 8 && allZero g 0x70 0x90) then some (0x20, any)
  else if iLen g ≠ n ∨ n < 0x100 + 24 * dir.length then some (0x20, any)
  else
    let entry := dir.zipIdx.findSome? (fun (e, i) =>
      let tileOk :=
        if perTile e.ty then decide (e.tile < 64)
        else if e.ty = 8 then decide (e.tile < 128)
        else e.ty == 0x0B || e.tile == 0xFFFF
      let t := if perTile e.ty ∧ e.tile < 64 then e.tile else 0x3F
      if !allZero g (0x100 + 24 * i + 4) 4 ∨ e.off % 64 ≠ 0 ∨ n < e.off + e.len ∨ ¬ (1 ≤ e.ty ∧ e.ty ≤ 0x10) ∨ !tileOk ∨
          overlap 0 (0x100 + 24 * dir.length) e.off e.len ∨
          (dir.take i).any (fun f => (f.ty == e.ty && f.tile == e.tile) || overlap f.off f.len e.off e.len) then bad t i
      else if (wantLen g e).any (· ≠ e.len) ∨ (e.ty = 0x0F ∧ e.len % 8 ≠ 0) ∨ (e.ty = 0x0C ∧ e.len < 8) then bad t i
      else if (e.ty = 7 ∧ !iFlag g 0) ∨ (e.ty = 0x0F ∧ !iFlag g 1) then bad t i
      else none)
    match entry with
    | some f => some f
    | none =>
      match (iTiles dir).find? (fun t => ([1, 2, 3, 4, 5, 6] ++ if iFlag g 0 then [7] else []).any
          (fun ty => (iSect dir ty t).isNone)) with
      | some t => bad t 0xFFFF
      | none =>
        if (0 < iNumReg g ∧ (iSect dir 0x0A 0xFFFF).isNone) ∨ (g 0x2C ≠ 0 ∧ (iSect dir 0x0E 0xFFFF).isNone) ∨
            (iFlag g 1 ∧ (iSect dir 0x0F 0xFFFF).isNone) then some (0x20, any)
        else none

/-- HEAVY words of band leaders: (tile, step, band, word). -/
def heavyWords (g : Bytes) (dir : List ISect) : List (Nat × Nat × Nat × StepWord) :=
  (iTiles dir).flatMap (fun t => (List.range (iL g)).flatMap (fun s => (List.range 16).filterMap (fun b =>
    let w := iWord g (iOff dir 1 t) (iL g) (b * 64) s
    if isHeavy w then some (t, s, b, w) else none)))

/-- The peak token count D of a die (R146). -/
def peakD (g : Bytes) (dir : List ISect) (d : Nat) : Nat :=
  (((iTiles dir).filter (fun t => t / 16 == d)).map (fun t =>
    ((List.range (iL g)).map (fun s =>
      ((List.range 16).filter (fun b => isHeavy (iWord g (iOff dir 1 t) (iL g) (b * 64) s))).length)).foldl max 0)).sum

/-- A bit per number of a list. -/
def bitsOf (n : Nat) (l : List Nat) : BitVec n := l.foldl (fun w i => w ||| place n i 1 1) 0

/-- Used input and output queues, as port tables and routes name them (R68, R103). -/
def inQueues (g : Bytes) (dir : List ISect) : BitVec 64 :=
  bitsOf 64 ((iTiles dir).flatMap (fun t => (List.range 1024).filterMap (fun i =>
    let e := iPort g (iOff dir 4 t) i
    if fld e 14 2 = 1 then some (fld e 8 6) else none)))
def outQueues (g : Bytes) (dir : List ISect) : BitVec 64 :=
  bitsOf 64 ((iTiles dir).flatMap (fun t => (List.range 65536).filterMap (fun i =>
    let r := iFn g (iOff dir 3 t) i
    if fld r 30 2 = 3 ∧ r.getLsbD 0 then some (fld r 10 6) else none)))

/-- The PROBEMAP entries: tile, band, step, index (R168). -/
def iProbeMap (g : Bytes) (dir : List ISect) : List (Nat × Nat × Nat × Nat) :=
  let o := iOff dir 0x0E 0xFFFF
  (List.range (g 0x2C).toNat).map (fun i =>
    ((g (o + 8 * i)).toNat, (g (o + 8 * i + 1)).toNat, rd g (o + 8 * i + 2) 2, (g (o + 8 * i + 4)).toNat))

/-- HDR_MISMATCH (R164, R168). -/
def chkMismatch (g : Bytes) : Option IFail :=
  let dir := iDir g
  let any := locWord 0x3F 0 0 0xFFFF
  let hw := heavyWords g dir
  let probes := hw.filter (fun x => wARG x.2.2.2 == 0x1B)
  let qs := hw.filterMap (fun x =>
    let a := wARG x.2.2.2
    if 0x10 ≤ a ∧ a ≤ 0x17 then some (2 * x.1 + a / 4 % 2) else none)
  let breq := match iSect dir 9 0xFFFF with
    | some e => (List.range 128).filter (fun b => g (e.off + b) ≠ 0xFF)
    | none => []
  let pm := iProbeMap g dir
  let po := iOff dir 0x0E 0xFFFF
  if rd g 0x20 8 ≠ (bitsOf 64 (iTiles dir)).toNat then some (0x21, any)
  else if (List.range 4).any (fun d => (g (0x28 + d)).toNat ≠ min (peakD g dir d) 255) then some (0x21, any)
  else if (g 0x2C).toNat ≠ probes.length ∨ 64 < (g 0x2C).toNat then some (0x21, any)
  else if rd g 0x30 8 ≠ (inQueues g dir).toNat ∨ rd g 0x38 8 ≠ (outQueues g dir).toNat then some (0x21, any)
  else if rd g 0x60 16 ≠ (bitsOf 128 qs).toNat ∨ rd g 0x50 16 ≠ (bitsOf 128 breq).toNat then some (0x21, any)
  else if rd g 0x40 4 ≠ ((iTiles dir).map (fun t => ones 256 (iMbx g dir t).toNat)).sum then some (0x21, any)
  else if (pm.map (·.2.2.2)).eraseDups.length ≠ pm.length ∨ pm.any (fun e => decide (63 < e.2.2.2)) ∨
      (List.range pm.length).any (fun i => !allZero g (po + 8 * i + 5) 3) ∨
      probes.any (fun x => (pm.filter (fun e => e.1 == x.1 && e.2.1 == x.2.2.1 && e.2.2.1 == x.2.1)).length ≠ 1) then
    some (0x21, locWord 0x3F 0 0 (iIdx dir 0x0E 0xFFFF))
  else none

/-- TABLE_SIZE (R171, R176). -/
def chkSize (g : Bytes) : Option IFail :=
  let dir := iDir g
  let L := iL g
  if L < 32 ∨ (if iFlag g 0 then 2048 else 4096) < L ∨ 256 < iNumReg g then some (0x22, locWord 0x3F 0 0 0xFFFF)
  else (dir.zipIdx.find? (fun (e, _) => e.ty == 0x0C && decide (rd g e.off 4 < 1 ∨ 16 < rd g e.off 4))).map
    (fun (e, i) => (0x22, locWord e.tile 0 0 i))

/-- TABLE_MALFORMED (R69, R81, R163, R187).  DESIGN CHOICE (assumption 133): of several failing places the first is named in the
order of tiles, and in a tile PTAB, FTAB, DSINIT and ANNOT, each in the order of its entries. -/
def chkTables (g : Bytes) : Option IFail :=
  let dir := iDir g
  (iTiles dir).findSome? (fun t =>
    let po := iOff dir 4 t
    let fo := iOff dir 2 t
    let so := iOff dir 5 t
    let ao := iOff dir 7 t
    let p := (List.range 1024).find? (fun i =>
      let e := iPort g po i
      fld e 6 2 ≠ 0 ∨ (fld e 14 2 ≠ 1 ∧ fld e 8 6 ≠ 0))
    let f := (List.range 4096).find? (fun i => fld (iFn g fo i) 17 15 ≠ 0)
    let d := (List.range 1024).find? (fun n => (g (so + 80 * n)).toNat % 4 ≠ 2)
    let a := if iFlag g 0 then (List.range 1024).find? (fun n => (List.range (iL g)).any (fun s =>
      fld (iWord g ao (iL g) n s) 4 67 ≠ 0)) else none
    match p, f, d, a with
    | some i, _, _, _ => some (0x23, locWord t (i / 64) (i % 64) (iIdx dir 4 t))
    | none, some i, _, _ => some (0x23, locWord t (i / 256) (i % 256) (iIdx dir 2 t))
    | none, none, some n, _ => some (0x23, locWord t n 0 (iIdx dir 5 t))
    | none, none, none, some n => some (0x23, locWord t n 0 (iIdx dir 7 t))
    | none, none, none, none => none)

/-- IMEM_PARITY (R72, R179). -/
def chkParity (g : Bytes) : Option IFail :=
  let dir := iDir g
  (iTiles dir).findSome? (fun t => ([1] ++ if iFlag g 0 then [7] else []).findSome? (fun ty =>
    ((List.range 1024).find? (fun n => (List.range (iL g)).any (fun s =>
      !evenParity (iWord g (iOff dir ty t) (iL g) n s)))).map (fun n => (0x24, locWord t n 0 (iIdx dir ty t)))))

/-- END_MISSING (R77). -/
def chkEnd (g : Bytes) : Option IFail :=
  let dir := iDir g
  let L := iL g
  (iTiles dir).findSome? (fun t =>
    let o := iOff dir 1 t
    match (List.range 1024).find? (fun n => (List.range (L - 1)).any (fun s => isEnd (iWord g o L n s))) with
    | some n => some (0x0B, locWord t n 0 (iIdx dir 1 t))
    | none =>
      if (List.range 1024).any (fun n => isEnd (iWord g o L n (L - 1))) then none
      else some (0x0B, locWord t 0 0 (iIdx dir 1 t)))

/-- Is a route entry with V = 1 refused at load (R86)? -/
def routeBad (dev die devMask : Nat) (tiles : List Nat) (r : BitVec 32) : Bool :=
  let ty := fld r 30 2
  let rdev := fld r 26 4
  let rdie := fld r 24 2
  let unused := !tiles.contains (16 * rdie + fld r 20 4)
  if ty = 0 then decide (rdev ≠ dev ∨ rdie ≠ die) || unused
  else if ty = 1 then decide (rdev ≠ dev ∨ rdie = die) || unused
  else if ty = 2 then decide (rdev = dev) || !(devMask.testBit rdev)
  else decide (fld r 16 14 ≠ 0 ∨ fld r 1 3 ≠ 0)

/-- ROUTE_INVALID (R86, R87). -/
def chkRoutes (g : Bytes) : Option IFail :=
  let dir := iDir g
  let tiles := iTiles dir
  tiles.findSome? (fun t =>
    ((List.range 65536).find? (fun i =>
      let r := iFn g (iOff dir 3 t) i
      r.getLsbD 0 && routeBad (g 0x0A).toNat (t / 16) (rd g 0x0C 2) tiles r)).map
      (fun i => (0x04, locWord t (i / 64) (i % 64) (iIdx dir 3 t))))

/-- A QREGION entry (R165): its record (INIT_SECT as the section's offset) and its QINIT directory index. -/
def iRegion (g : Bytes) (dir : List ISect) (i : Nat) : QRegion × Nat :=
  let o := iOff dir 0x0A 0xFFFF + 40 * i
  let x := rd g (o + 20) 4
  ({ base := rd g o 8, len := rd g (o + 8) 8, rw := g (o + 16) == 1,
     init := if x = 0xFFFFFFFF then 0 else ((dir[x]?).map (·.off)).getD 0, mask := rd g (o + 24) 16 }, x)

/-- REGION_OVERLAP (R128, R165). -/
def chkRegions (g : Bytes) : Option IFail :=
  let dir := iDir g
  let n := iNumReg g
  let rs := (List.range n).map (iRegion g dir)
  let o := iOff dir 0x0A 0xFFFF
  let bad := (List.range n).any (fun i =>
    match rs[i]? with
    | none => false
    | some (r, x) =>
      r.base % 64 ≠ 0 ∨ r.len = 0 ∨ r.len % 64 ≠ 0 ∨ 2 ^ 41 < r.base + r.len ∨ 1 < (g (o + 40 * i + 16)).toNat ∨
      !allZero g (o + 40 * i + 17) 3 ∨ (r.rw ∧ ones 128 r.mask ≠ 1) ∨
      (x ≠ 0xFFFFFFFF ∧ !(match dir[x]? with
        | some e => e.ty == 0x0B && e.len == r.len && e.tile == i
        | none => false)) ∨
      (r.rw ∧ (rs.zipIdx).any (fun (r', j) => j ≠ i ∧ overlap r.base r.len r'.1.base r'.1.len)))
  if bad then some (0x25, locWord 0x3F 0 0 (iIdx dir 0x0A 0xFFFF))
  else (dir.zipIdx.find? (fun (e, i) => e.ty == 0x0B && (rs.filter (fun r => r.2 == i)).length ≠ 1)).map
    (fun (_, i) => (0x25, locWord 0x3F 0 0 i))

/-- BANK_CLAIM (R166). -/
def chkBanks (g : Bytes) : Option IFail :=
  let dir := iDir g
  match iSect dir 9 0xFFFF with
  | none => none
  | some e => ((List.range 128).find? (fun b =>
      let t := (g (e.off + b)).toNat
      decide (t ≠ 0xFF) && (!(iTiles dir).contains t || decide (t / 16 ≠ b / 32)))).map
      (fun b => (0x26, locWord (min 0x3F (g (e.off + b)).toNat) 0 0 (iIdx dir 9 0xFFFF)))

/-- The PROTECT entries: tile, first and last BP (R169). -/
def iProtect (g : Bytes) (dir : List ISect) : List (Nat × Nat × Nat) :=
  match iSect dir 0x0F 0xFFFF with
  | none => []
  | some e => (List.range (e.len / 8)).map (fun i =>
      ((g (e.off + 8 * i)).toNat, rd g (e.off + 8 * i + 2) 2, rd g (e.off + 8 * i + 4) 2))

/-- BIND (R167, R169). -/
def chkBind (g : Bytes) : Option IFail :=
  let dir := iDir g
  let tiles := iTiles dir
  let msg := match iSect dir 0x0D 0xFFFF with
    | none => false
    | some e => (List.range 16).any (fun f => g (e.off + f) ≠ 0xFF ∧ !tiles.contains (g (e.off + f)).toNat)
  let po := iOff dir 0x0F 0xFFFF
  let pr := (iProtect g dir).zipIdx.any (fun (x, i) =>
    !tiles.contains x.1 ∨ x.2.2 < x.2.1 ∨ 1023 < x.2.2 ∨ !allZero g (po + 8 * i + 1) 1 ∨ !allZero g (po + 8 * i + 6) 2)
  if msg then some (0x27, locWord 0x3F 0 0 (iIdx dir 0x0D 0xFFFF))
  else if pr then some (0x27, locWord 0x3F 0 0 (iIdx dir 0x0F 0xFFFF))
  else none

/-- MBX_DECL (R170, R179): a mailbox that an operand reads, or a route of TYPE 0b00 or 0b01 names, and the tile does not
declare. -/
def chkMbx (g : Bytes) : Option IFail :=
  let dir := iDir g
  let L := iL g
  (iTiles dir).findSome? (fun t =>
    let use := iMbx g dir t
    let o := iOff dir 1 t
    match (List.range 1024).find? (fun n => (List.range L).any (fun s =>
        let w := iWord g o L n s
        !isNop w && (List.range 4).any (fun j => decide (0x300 ≤ wS w j) && !use.getLsbD (wS w j - 0x300)))) with
    | some n => some (0x28, locWord t n 0 (iIdx dir 1 t))
    | none => ((List.range 65536).find? (fun i =>
        let r := iFn g (iOff dir 3 t) i
        r.getLsbD 0 && decide (fld r 30 2 < 2) &&
          !(iMbx g dir (16 * fld r 24 2 + fld r 20 4)).getLsbD (fld r 2 8))).map
        (fun i => (0x28, locWord t (i / 64) (i % 64) (iIdx dir 3 t))))

/-- DEV_MISMATCH. -/
def chkDev (g : Bytes) (dev : Nat) : Option IFail :=
  if (g 0x0A).toNat = dev ∧ (rd g 0x0C 2).testBit dev then none else some (0x29, locWord 0x3F 0 0 0xFFFF)

/-- The load checks in their order; the first failure ends them (R179). -/
def loadChecks (dev : Nat) (g : Bytes) (n : Nat) : Option IFail :=
  chkFormat g n <|> chkDev g dev <|> chkSize g <|> chkMismatch g <|> chkTables g <|> chkParity g <|> chkEnd g <|>
    chkRoutes g <|> chkRegions g <|> chkBanks g <|> chkBind g <|> chkMbx g

/-! ### What a swap writes (R163, R166, R405) -/

/-- The storage of a tile under the image: IMEM at steps 0 to L - 1, annotations from 2,048, NOP elsewhere, tables,
initial slots. -/
def imageStore (g : Bytes) (dir : List ISect) (t : Nat) (old : Store) : Store :=
  let L := iL g
  let debug := iFlag g 0
  let words := (List.range 1024).flatMap (fun n =>
    (List.range L).map (fun s => (n * 4096 + s, iWord g (iOff dir 1 t) L n s)) ++
    if debug then (List.range L).map (fun s => (n * 4096 + 2048 + s, iWord g (iOff dir 7 t) L n s)) else [])
  { Store.reset with
    imem := tblOf nopWord words
    imemFill := nopWord
    ftab := tblOf 0 ((List.range 4096).map (fun i => (i, BitVec.ofNat 17 (iFn g (iOff dir 2 t) i).toNat)))
    rtab := tblOf 0 ((List.range 65536).map (fun i => (i, iFn g (iOff dir 3 t) i)))
    ptab := tblOf 0 ((List.range 1024).map (fun i => (i, iPort g (iOff dir 4 t) i)))
    ds := tblOf false ((List.range 1024).flatMap (fun n => (List.range 638).map (fun i =>
      (n * 1024 + 2 + i, (g (iOff dir 5 t + 80 * n + (2 + i) / 8)).getLsbD ((2 + i) % 8)))))
    shadow := old.shadow
    cntShadow := old.cntShadow }

/-- The four counters of a tile's CNT unit at the start (R162). -/
def imageCounters (g : Bytes) (dir : List ISect) (t : Nat) : Tbl Word :=
  match iSect dir 0x10 t with
  | none => []
  | some e => tblOf 0 ((List.range 4).map (fun i => (i, BitVec.ofNat 64 (rd g (e.off + 8 * i) 8))))

/-- A WAITPROF record (R176).  DESIGN CHOICE (assumption 96): the spec gives no answer to reserved bytes that are not zero;
they are not looked at. -/
def waitRec (g : Bytes) (o : Nat) : WaitRec :=
  let b := fun i => (g (o + i)).toNat
  { dies := BitVec.ofNat 64 (rd g o 8), nTmem := b 8, nCnt := b 9, nQport := b 0xA, nSame := b 0xB, nOther := b 0xC,
    nDev := b 0xD, sumH := rd g (o + 0x10) 2, sumF := rd g (o + 0x12) 2, sumHsd := rd g (o + 0x14) 2,
    sumFsd := rd g (o + 0x16) 2, xsteps := rd g (o + 0x18) 2 }

/-- What the resident image declares. -/
def imageOf (g : Bytes) : Image :=
  let dir := iDir g
  let tiles := iTiles dir
  let hw := heavyWords g dir
  { len := iL g, debug := iFlag g 0, protect := iFlag g 1, devMask := rd g 0x0C 2
    runId := BitVec.ofNat 64 (rd g 0x18 8), tiles := BitVec.ofNat 64 (rd g 0x20 8)
    peakTok := BitVec.ofNat 32 (rd g 0x28 4), probeCnt := (g 0x2C).toNat
    inQ := BitVec.ofNat 64 (rd g 0x30 8), outQ := BitVec.ofNat 64 (rd g 0x38 8)
    qUsed := BitVec.ofNat 128 (rd g 0x60 16), banks := BitVec.ofNat 128 (rd g 0x50 16)
    regions := (List.range (iNumReg g)).map (fun i => (iRegion g dir i).1)
    bankReq := match iSect dir 9 0xFFFF with
      | none => []
      | some e => tblOf 0xFF ((List.range 128).map (fun b => (b, (g (e.off + b)).toNat)))
    msgBind := match iSect dir 0x0D 0xFFFF with
      | none => []
      | some e => tblOf 0xFF ((List.range 16).map (fun f => (f, (g (e.off + f)).toNat)))
    probeMap := iProbeMap g dir
    prot := iProtect g dir
    waitProf := tiles.filterMap (fun t => (iSect dir 0x0C t).map (fun e =>
      (t, (List.range (rd g e.off 4)).map (fun i => waitRec g (e.off + 8 + 32 * i)))))
    mbxUse := tblOf 0 (tiles.map (fun t => (t, iMbx g dir t)))
    devTargets := ((tiles.flatMap (fun t => (List.range 65536).filterMap (fun i =>
      let r := iFn g (iOff dir 3 t) i
      if r.getLsbD 0 ∧ fld r 30 2 = 2 then some (fld r 26 4, fld r 24 2, fld r 20 4) else none))).eraseDups)
    nTracept := ((tiles.flatMap (fun t => (List.range 1024).flatMap (fun n => (List.range (iL g)).filter (fun s =>
      isSys 3 (iWord g (iOff dir 1 t) (iL g) n s))))).length)
    nHeavy := tblOf 0 ((List.range 9).map (fun u => (u, (hw.filter (fun x => wARG x.2.2.2 / 4 == u)).length))) }

/-! ### Slots and the golden copy (R403, R405) -/

def slotSize (s : State) : Nat := regF s (ro pCfg 0x0A8) 0 16 * 2 ^ 26
def slotCount (s : State) : Nat := min 32 (regF s (ro pCfg 0x0A8) 16 6)
def slotBase (s : State) (k : Nat) : Nat := reg64 s (ro pCfg 0x0A0) (ro pCfg 0x0A4) + k * slotSize s
def slotOf (s : State) (k : Nat) : Slot := Tbl.get { st := 0, bbram := false } s.cfg.slots k
def putSlot (s : State) (k : Nat) (x : Slot) : State :=
  { s with cfg := { s.cfg with slots := Tbl.set { st := 0, bbram := false } s.cfg.slots k x } }

/-- Does a range overlap an image slot? -/
def hitsSlot (s : State) (a n : Nat) : Bool :=
  (List.range (slotCount s)).any (fun k => overlap a n (slotBase s k) (slotSize s))

/-- Does a range overlap a slot that is LOADING or VALID (R403)? -/
def hitsHeldSlot (s : State) (a n : Nat) : Bool :=
  (List.range (slotCount s)).any (fun k =>
    decide ((slotOf s k).st = 1 ∨ (slotOf s k).st = 2) && overlap a n (slotBase s k) (slotSize s))

/-- The queues that the tables of the image's tiles name: what a host write to a port or route table outside a run leaves
enabled (R68, R103). -/
def tableQueues (s : State) : State :=
  let ts := (runTiles s).map (fun p => (tileOf s p).st)
  let ins := ts.flatMap (fun st => st.ptab.filterMap (fun e => if fld e.2 14 2 = 1 then some (fld e.2 8 6) else none))
  let outs := ts.flatMap (fun st =>
    st.rtab.filterMap (fun e => if fld e.2 30 2 = 3 ∧ e.2.getLsbD 0 then some (fld e.2 10 6) else none))
  { s with img := { s.img with inQ := bitsOf 64 ins, outQ := bitsOf 64 outs } }

/-- Does a range overlap a QPORT region of the resident image? -/
def hitsRegion (s : State) (a n : Nat) : Bool := s.img.regions.any (fun r => overlap a n r.base r.len)

/-- The bytes of slot k in DRAM. -/
def slotSrc (s : State) (k : Nat) : Bytes := fun i => dramByte s (slotBase s k + i)

/-- Slot k decrypted block by block in counter mode (R405). -/
def slotPlain (s : State) (k : Nat) : Bytes :=
  let g := slotSrc s k
  let ks := conKeySlot g
  if ks = 0xFF then g
  else
    let key := slotKey s ks
    let iv := slice g 0x18 12
    fun i =>
      if i < 0x100 then g i
      else g i ^^^ ((aes key (iv ++ beBytes 4 (2 + (i - 0x100) / 16))).getD ((i - 0x100) % 16) 0)

/-- Where the slot of the resident image holds its bytes. -/
def goldenAt (s : State) : Option Nat :=
  let g := slotPlain s s.cfg.resSlot
  match findSect g 5 with
  | none => none
  | some sect =>
    match subFor g (devIdx s) sect with
    | .at off _ => some off
    | _ => none

/-- The resident image's golden copy: the image's bytes, if its slot still names it. -/
def golden (s : State) : Option Bytes :=
  (goldenAt s).map (fun off => let g := slotPlain s s.cfg.resSlot; fun i => g (off + i))

/-- A good step word of BP n at memory address s of logical tile l, from the golden copy. -/
def goldenWord (s : State) (l n a : Nat) : Option StepWord :=
  (golden s).bind (fun g =>
    let dir := iDir g
    let L := iL g
    let w := if a < L then iWord g (iOff dir 1 l) L n a
      else if iFlag g 0 ∧ 2048 ≤ a ∧ a < 2048 + L then iWord g (iOff dir 7 l) L n (a - 2048) else nopWord
    if evenParity w then some w else none)

/-- A good function, route or port table entry of a logical tile, from the golden copy. -/
def goldenFn (s : State) (l i : Nat) : Option (BitVec 17) :=
  (golden s).map (fun g => BitVec.ofNat 17 (iFn g (iOff (iDir g) 2 l) i).toNat)
def goldenRoute (s : State) (l i : Nat) : Option (BitVec 32) := (golden s).map (fun g => iFn g (iOff (iDir g) 3 l) i)
def goldenPort (s : State) (l i : Nat) : Option (BitVec 16) := (golden s).map (fun g => iPort g (iOff (iDir g) 4 l) i)

end Sys2Proof.Machine
end

