-- ==== Sys2Proof/Machine/DramAccess.lean ====
section
/-!
DEFINITION. How requests are served at the memory devices (08): a QRD's read with its error handling (R219), the age limit
(R214), and the reads and writes of every other requester (R212, R213, R218), the hub's reads of the golden copy among them.
-/
namespace Sys2Proof.Machine

/-! ### Requests of QPORTs (R213, R214, R219) -/

def Units.port (u : Units) (q : Nat) : QPort := if q = 0 then u.q0 else u.q1
def Units.setPort (u : Units) (q : Nat) (x : QPort) : Units := if q = 0 then { u with q0 := x } else { u with q1 := x }

def modUnits (s : State) (p : Nat) (f : Units → Units) : State :=
  let t := tileOf s p
  putTile s p { t with un := f t.un }

def modQReq (s : State) (p q id : Nat) (f : QReq → QReq) : State :=
  modUnits s p (fun u =>
    let x := u.port q
    u.setPort q { x with places := x.places.map (fun r => if r.id = id then f r else r) })

/-- Do two requests come from the same QPORT queue? -/
def sameQueue (a b : DReq) : Bool :=
  match a.src, b.src with
  | .qport p q _, .qport p' q' _ => p == p' && q == q'
  | _, _ => false

/-- The ring with fewer hops from position a to position b of n stops: 0 ascending, 1 descending, 0 on a tie (R95, R98). -/
def shorterRing (n a b : Nat) : Nat := if (b + n - a) % n ≤ (a + n - b) % n then 0 else 1

/-- The main-ring stops of a die's bridge and of a channel's controller (R14). -/
def bridgeStop (d : Nat) : Nat := 3 * d
def ddrStop (ch : Nat) : Nat := 3 * (ch / 2) + 1 + ch % 2

/-- The main ring on which a request comes from the bridge of its die: the shorter way. -/
def DReq.ring (r : DReq) (ch : Nat) : Nat :=
  match r.src with
  | .qport p _ _ => shorterRing 24 (bridgeStop (p / 17)) (ddrStop ch)
  | .other => 0

/-- The line of the image slot that holds the QINIT copy of a line of a read-only region, and the place of its bytes in the
slot, if there is one (R219). -/
def qinitAt (s : State) (line : Nat) : Option Nat :=
  match s.img.regions.find? (fun r => !r.rw && decide (r.init ≠ 0 ∧ r.base ≤ line * 64 ∧ line * 64 < r.base + r.len)) with
  | none => none
  | some r => if s.cfg.resValid then (goldenAt s).map (fun off => off + r.init + (line * 64 - r.base)) else none

def qinitLine (s : State) (line : Nat) : Option Nat :=
  (qinitAt s line).map (fun o => (slotBase s s.cfg.resSlot + o) / 64)

/-- An uncorrectable error of a QRD: where the slot's copy of the line reads without error, the line is rewritten from it
and read again; else the response is poisoned (R219). -/
def readUe (s : State) (line : Nat) : State × Bool :=
  let s := uncorrectable s line
  match qinitAt s line with
  | none => (s, true)
  | some o =>
    let l := (slotBase s s.cfg.resSlot + o) / 64
    let bad := decide (s.dram.ecc (lineErr s l) = .uncorrectable)
    let s := eccRead (activate (wakeLine s l) l) l
    if bad then (s, true)
    else
      let g := slotPlain s s.cfg.resSlot
      let s := activate s line
      ({ s with dram := (s.dram.putAll (64 * line) (slice g o 64)).mend line }, false)

/-- A transfer of a line is over. -/
def endTransfer (s : State) (line : Nat) : State := { s with dram := s.dram.unlink line }

/-- A QRD's line is read, from the buffer alone or from its row: whether the response is poisoned, and whether the line has been
rewritten. -/
def readRow (s : State) (line : Nat) : State × Bool × Bool :=
  if lineBuffered s line then (s, false, false)
  else
    let s := activate s line
    match s.dram.ecc (lineErr s line) with
    | .clean => (endTransfer s line, false, false)
    | .corrected kind dev => (endTransfer (corrected s line kind dev) line, false, false)
    | .uncorrectable =>
      let z := readUe s line
      (endTransfer z.1 line, z.2, !z.2)

/-- The data of a read reaches its requester: a QRD's reorder entry.  A line rewritten from its copy is read again, with the
bytes that writes accepted before the read have left in the buffer. -/
def readDone (s : State) (ch : Nat) (r : DReq) : State :=
  let x := readRow s r.line
  match r.src with
  | .other => x.1
  | .qport p q id => modQReq x.1 p q id (fun y => { y with
      stage := .reorder, poisoned := if x.2.1 then some ch else none
      resp := if x.2.2 then lineWords x.1 r.line else y.resp })

/-- Must the request wait for an older one past the age limit (R214)? -/
def Chan.heldBack (c : Chan) (r : DReq) : Bool := (c.readQ ++ c.wbuf).any (fun x => x.aged && decide (x.seq < r.seq))

/-- Buffered write `i` goes to memory; a partial line is read first, with whatever error it holds (R213, R217). -/
def drainOne (s : State) (ch i : Nat) : State :=
  let c := chanOf s ch
  match c.wbuf[i]? with
  | none => s
  | some r =>
    let s := activate (putChan s ch { c with wbuf := c.wbuf.eraseIdx i }) r.line
    let s := if r.mask = BitVec.allOnes 64 then s else eccRead s r.line
    { s with dram := (writeBack s.dram r).mend r.line }

/-- The request past the age limit that was accepted first, of the read queue or of the write buffer, is served. -/
def settleOne (s : State) (ch : Nat) : State :=
  let c := chanOf s ch
  let first := fun r : DReq => r.aged && !c.heldBack r
  match c.readQ.findIdx? first with
  | some i => match c.readQ[i]? with
    | some r => readDone (putChan s ch { c with readQ := c.readQ.eraseIdx i }) ch r
    | none => s
  | none => match c.wbuf.findIdx? first with
    | some i => drainOne s ch i
    | none => s

/-- A request that is served at once comes after every older one past the age limit (R214). -/
def settleAged (s : State) (ch : Nat) : State :=
  let c := chanOf s ch
  (List.range ((c.readQ ++ c.wbuf).countP (·.aged))).foldl (fun s _ => settleOne s ch) s

/-! ### Requesters other than QPORTs (R212 to R214, R218, R219, R222) -/

/-- The main-ring stops of R14 behind the port groups: PCI Express and Saiga, Markhor, Chital, Chamois and the loader. -/
def pcieStop : Nat := 18
def mkhStop : Nat := 19
def trcStop : Nat := 20
def loadStop : Nat := 21

/-- A request for a line from ring stop `stp` is accepted; one from main ring 1 keeps those of ring 0 for the next HUBCLK period
(R212; assumption 122). -/
def arrives (s : State) (line stp : Nat) : State :=
  let ch := channelOf (64 * line)
  let s := wakeLine s line
  if shorterRing 24 stp (ddrStop ch) = 1 then putChan s ch { chanOf s ch with ring1At := some (s.tb.toNat / 256) } else s

/-- A line is read: from the buffer alone, or from its row with whatever error it holds. -/
def readLine (stp : Nat) (s : State) (line : Nat) : State :=
  let s := arrives s line stp
  if lineBuffered s line then s else eccRead (activate (settleAged s (channelOf (64 * line))) line) line

/-- The lines that `n` bytes at `a` touch. -/
def linesOf (a n : Nat) : List Nat := (List.range ((a + n + 63) / 64 - a / 64)).map (a / 64 + ·)

/-- What a read of `n` bytes at `a` leaves behind; the bytes are those of `dramRead`. -/
def dramFetch (s : State) (a n : Nat) (stp : Nat := pcieStop) : State :=
  if n = 0 then s else (linesOf a n).foldl (readLine stp) s

/-- Does a read of these bytes meet an uncorrectable error? -/
def fetchBad (s : State) (a n : Nat) : Bool :=
  decide (0 < n) && (linesOf a n).any (fun l => !lineBuffered s l && decide (s.dram.ecc (lineErr s l) = .uncorrectable))

/-- The controller accepts a write of the masked bytes of a line.  With all 64 entries in use the write waits in the hub
until the oldest line has drained, behind what is past the age limit (R213, R214). -/
def writeLine (s : State) (stp line : Nat) (mask : BitVec 64) (data : BitVec 512) : State :=
  let ch := channelOf (64 * line)
  let s := arrives s line stp
  let s := if 64 ≤ (chanOf s ch).wbuf.length then
      let s := settleAged s ch
      if 64 ≤ (chanOf s ch).wbuf.length then drainOne s ch 0 else s
    else s
  let c := chanOf s ch
  let r : DReq := { src := .other, write := true, line := line, mask := mask, data := data, aged := false, seq := c.accepted }
  putChan s ch { c with accepted := c.accepted + 1, wbuf := bufferWrite c.wbuf r }

/-- Bytes written by a requester other than a QPORT, those that `keep` allows, line by line. -/
def dramWriteSome (s : State) (a : Nat) (bs : List Byte) (keep : Nat → Bool) (stp : Nat := pcieStop) : State :=
  if bs.isEmpty then s
  else (linesOf a bs.length).foldl (fun s line =>
    let at_ := fun k : Nat => 64 * line + k
    let mask := (List.range 64).foldl (fun (m : BitVec 64) k =>
      if a ≤ at_ k ∧ at_ k < a + bs.length ∧ keep (at_ k) then m ||| place 64 k 1 1 else m) 0
    if mask = 0 then s
    else writeLine s stp line mask (BitVec.ofNat 512 (leNat ((List.range 64).map (fun k =>
      if a ≤ at_ k then (bs[at_ k - a]?).getD 0 else 0))))) s

/-- A byte string written by a requester other than a QPORT. -/
def dramWrite (s : State) (a : Nat) (bs : List Byte) (stp : Nat := pcieStop) : State :=
  dramWriteSome s a bs (fun _ => true) stp

/-! ### Reads of the golden copy (R405, R413, R418, R431) -/

/-- The hub reads `n` bytes of the golden copy from offset `o` of the image, and whether they can be had: an uncorrectable error
of DRAM leaves none (R219). -/
def goldenFetch (s : State) (o n : Nat) : State × Bool :=
  match goldenAt s with
  | none => (s, false)
  | some off =>
    let a := slotBase s s.cfg.resSlot + off + o
    (dramFetch s a n loadStop, !fetchBad s a n)

/-- Where the golden copy holds an item of a logical tile, by its storage (0 step words, 1 function, 2 route, 3 port table). -/
def itemSpan (s : State) (l storage k : Nat) : Nat × Nat :=
  match golden s with
  | none => (0, 0)
  | some g =>
    let dir := iDir g
    let L := iL g
    let a := k % 4096
    match storage with
    | 0 =>
      if a < L then (iOff dir 1 l + (k / 4096 * L + a) * 9, 9)
      else if iFlag g 0 ∧ 2048 ≤ a ∧ a < 2048 + L then (iOff dir 7 l + (k / 4096 * L + (a - 2048)) * 9, 9)
      else (0, 0)
    | 1 => (iOff dir 2 l + 4 * k, 4)
    | 2 => (iOff dir 3 l + 4 * k, 4)
    | _ => (iOff dir 4 l + 2 * k, 2)

/-- The hub reads an item of the golden copy, where it can be had. -/
def fetchItem (s : State) (l storage k : Nat) : State × Bool :=
  let x := itemSpan s l storage k
  goldenFetch s x.1 x.2

end Sys2Proof.Machine
end

