-- ==== Sys2Proof/Machine/Array.lean ====
section
/-!
DEFINITION. Array steps (02, 03): the issue checks and the refetch from the golden copy (R79, R413), what a step waits for
(R60), and its completion (R59) with sends into windows (R88 to R90, R104), heavy issues, SYS operations and trace.
-/
namespace Sys2Proof.Machine

/-! ### Hard errors and tile death (R414 to R419) -/

/-- A map entry changes its PHYS: the epoch advances (R115, R118). -/
def remap (s : State) (l k : Nat) : State :=
  setReg s (mapReg l) (place 32 0 5 k ||| place 32 8 8 (epochOf s l + 1))

/-- The spare of a die: its one physical tile neither fenced nor named by an entry (R418). -/
def spareOf (s : State) (d : Nat) : Option Nat :=
  (List.range 17).find? (fun k => !fenced s (17 * d + k) && (logicalOf s (17 * d + k)).isNone)

/-- A map word for every device of the link maps: KIND 0b11, this device's die, tile, new PHYS and epoch (R94, R113). -/
def mapWord (s : State) (dev l : Nat) : Word :=
  place 64 62 2 3 ||| place 64 58 4 dev ||| place 64 56 2 (l / 16) ||| place 64 52 4 (l % 16) |||
    place 64 47 5 (regF s (mapReg l) 0 5) ||| place 64 43 4 (devIdx s) ||| place 64 24 8 (epochOf s l)

/-- The ports of LINK_MAP[dev], lowest first (R107). -/
def linkPorts (s : State) (dev : Nat) : List Nat :=
  (List.range 16).filter (fun n => regBit s (ro pGlb (0x340 + 4 * dev)) n)

/-- Queue a packet on virtual channel `vc` of a port. -/
def queuePkt (s : State) (n vc kind : Nat) (ws : List Word) : State :=
  let x := portOf s n
  putPort s n { x with rdy := x.rdy ++ [{ vc := vc, kind := kind, seq := 0, words := ws }] }

/-- Map words on every port of every link map, while a run spans devices (R113). -/
def sendMapWords (s : State) (l : Nat) : State :=
  if !s.run.active then s
  else (List.range 16).foldl (fun s dev =>
    (linkPorts s dev).foldl (fun s n => queuePkt s n 0 0 [mapWord s dev l]) s) s

/-- The spare takes the place of a fenced tile and leaves retention (R152), or NO_SPARE (R418).  DESIGN CHOICE (assumption 116):
a self-test that it is under ends there. -/
def sparing (s : State) (l : Nat) : State :=
  let d := l / 16
  match spareOf s d with
  | none => logEvent s pGlb 0x0069 (place 32 0 2 d ||| place 32 7 4 (l % 16))
  | some k =>
    let p := 17 * d + k
    let s := putTile s p { (tileOf s p).rise (opMv s p) with unloaded := true, testing := false }
    let s := sendMapWords (remap s l k) l
    logEvent s pGlb 0x0068 (place 32 0 2 d ||| place 32 2 5 k ||| place 32 7 4 (l % 16) ||| place 32 11 8 (epochOf s l))

/-- The hub declares a tile dead: fence, event, spare; a run with recovery and a spare goes on through a rollback, any other
run stops under R44 (R417 to R419). -/
def killTile (s : State) (p kind : Nat) : State :=
  let l := logicalNo s p
  let mapped := logicalOf s p
  let hadSpare := (spareOf s (p / 17)).isSome
  let member := inRun s p
  let s := orReg s (fenceReg (p / 17)) (place 32 (p % 17) 1 1)
  let s := logEvent s pGlb 0x0067
    (place 32 0 2 (p / 17) ||| place 32 2 5 (p % 17) ||| place 32 7 4 (l % 16) ||| place 32 11 1 kind)
  let t := tileOf s p
  let s := putTile s p { t.rest with testOk := false, testFenced := false, dead := true, phase := if member then .faulted else t.phase }
  let s := match mapped with | some l => sparing s l | none => s
  if member then
    if s.recov.active && hadSpare then { s with run := { s.run with holds := s.run.holds ++ [.rollback] } }
    else checkRunEnd (signalFault s)
  else s

/-- A hard error of a tile (R414, R415, R416): HERR_LAST, HERR_CNT, HARD_ERROR; DEAD_COUNT of them within DEAD_WINDOW ms
kill the tile. -/
def hardError (s : State) (p kind bp idx : Nat) : State :=
  let g := pTil p
  let v := place 32 0 2 kind ||| place 32 2 10 bp ||| place 32 12 12 idx ||| place 32 31 1 1
  let s := logEvent (bump (setReg s (ro g 0x224) v) (ro g 0x220) 1) g 0x0066 v
  let t := tileOf s p
  let window := regF s (ro pGlb 0x424) 16 16 * 256000000
  let recent := (t.hardTimes ++ [s.tb]).filter (fun x => decide ((s.tb - x).toNat ≤ window))
  let s := putTile s p { t with hardTimes := recent }
  if max 1 (regF s (ro pGlb 0x424) 0 4) ≤ recent.length then killTile s p 0 else s

/-! ### Step issue (R79, R413) -/

/-- A stored bit flips: in a word, in a table entry, or in the parity bit of an entry. -/
def Store.upset (st : Store) (step : Nat) : Upset → Store
  | .word bp bit =>
    let k := bp * 4096 + step
    { st with imem := Tbl.set st.imemFill st.imem k (Tbl.get st.imemFill st.imem k ^^^ place 72 bit 1 1) }
  | .ftab b e bit =>
    let k := b * 256 + e
    { st with ftab := Tbl.set 0 st.ftab k (Tbl.get 0 st.ftab k ^^^ place 17 bit 1 1)
              badParity := if (1, k) ∈ st.badParity then st.badParity.erase (1, k) else (1, k) :: st.badParity }
  | .rtab bp e bit =>
    let k := bp * 64 + e
    { st with rtab := Tbl.set 0 st.rtab k (Tbl.get 0 st.rtab k ^^^ place 32 bit 1 1)
              badParity := if (2, k) ∈ st.badParity then st.badParity.erase (2, k) else (2, k) :: st.badParity }
  | .ptab b e bit =>
    let k := b * 64 + e
    { st with ptab := Tbl.set 0 st.ptab k (Tbl.get 0 st.ptab k ^^^ place 16 bit 1 1)
              badParity := if (3, k) ∈ st.badParity then st.badParity.erase (3, k) else (3, k) :: st.badParity }

/-- What the checks of every BP find at the tile's step, in BP order. -/
def issueFindings (s : State) (t : Tile) : List (Nat × Check) :=
  let ends := t.st.endsAt t.step
  (List.range 1024).filterMap (fun n => (t.st.check s.img.debug ends t.step n).map (fun c => (n, c)))

/-! ### What a step waits for (R60) -/

/-- QRDs of the queue that hold a place: outstanding or ready (R132). -/
def QPort.reads (x : QPort) : List QReq := x.places.filter (fun r => !r.write)

/-- Ready responses of the queue (R133, R134). -/
def QPort.readyCount (x : QPort) : Nat := ((x.reads).filter (fun r => r.stage == .ready)).length

/-- The latch of a queue once the issues before have been applied (R130). -/
def latchAfter (latch : Word) (is : List Issue) : Word := is.foldl (fun l i => if i.op = 1 then i.word else l) latch

/-- Places that the pending and new issues of a queue will take: every QRD, and every QWD whose latched WEN is 1
(R130, R132). -/
def placesNeeded (latch : Word) : List Issue → Nat
  | [] => 0
  | i :: is =>
    if i.op = 0 then 1 + placesNeeded latch is
    else if i.op = 1 then placesNeeded i.word is
    else if i.op = 2 ∧ qwWen latch then 1 + placesNeeded latch is
    else placesNeeded latch is

/-- Flits that a window of n records becomes (R89). -/
def flitsOf (n : Nat) : Nat := (n + 63) / 64

/-- Add a record to the window of its target, opening one at time `now` where none is open (R88). -/
def addRec (now : Word) (cyc : Nat) (ws : List Window) (x : Target × Rec) : List Window :=
  if ws.any (fun w => w.tgt == x.1) then
    ws.map (fun w => if w.tgt == x.1 then { w with recs := w.recs ++ [x.2] } else w)
  else ws ++ [{ tgt := x.1, recs := [x.2], cyc := cyc, opened := now, steps := 0 }]

/-- A further step has completed: every open window counts it (R88). -/
def ageWindows (ws : List Window) : List Window := ws.map (fun w => { w with steps := w.steps + 1 })

/-- Places of the combining buffer in use: open windows and released flits (R90). -/
def combineUse (ws : List Window) (rel : List Flit) : Nat := (ws.map (fun w => flitsOf w.recs.length)).sum + rel.length

/-- The output queues that the SENDs of a step name. -/
def outTargets (xs : List (Target × Rec)) : List Nat :=
  (xs.filterMap (fun x => match x.1 with | .outQueue => some x.2.a | .tile _ _ _ => none)).eraseDups

/-- An output queue has no place for the entry of cycle c (R104). -/
def outBlocked (s : State) (c q : Nat) : Bool :=
  let l := outqOf s q
  !(l.any (fun e => e.cyc == c)) && decide (64 ≤ l.length)

/-- What a step of a tile does once it completes. -/
structure StepWork where
  results : Tbl Bool
  sends : List (Target × Rec)
  issues : List Issue
  windows : List Window
  deriving DecidableEq, Repr

def stepWork (now : Word) (t : Tile) : StepWork :=
  let rs := boolTbl ((List.range 1024).map (t.st.result t.cycle t.step))
  let sends := t.st.sendsOf t.step rs
  { results := rs, sends := sends, issues := t.st.issuesOf t.step t.cycle rs,
    windows := ageWindows (sends.foldl (addRec now t.cycle) t.windows) }

/-- The lowest BP and operand whose mailbox is absent (R33). -/
def mailboxWait (t : Tile) : Option Nat :=
  (List.range 1024).findSome? (fun n =>
    let w := t.st.word n t.step
    if isNop w then none
    else ((List.range 4).find? (fun j => !t.st.present t.cycle n (wS w j))).map (fun j => wS w j))

/-- A queue that a WAITQ of the step must wait for: too few ready responses, or issues of the queue not yet applied. -/
def waitqBlocked (t : Tile) (q : Nat) : Bool :=
  (t.st.waitqBp t.step q).isSome &&
    (decide ((t.un.port q).readyCount ≤ (t.un.port q).credits) || t.un.issues.any (fun i => i.unit == 4 + q))

/-- What a begun step still waits for, as a stall cause with its DS address (R45, R60, R184).  DESIGN CHOICE (assumption
84): of several waits at once the first of mailbox, WAITQ, QPORT place, output queue, combining buffer, tokens is the
cause recorded, and of absent mailboxes the one of the lowest BP and operand.  DESIGN CHOICE (assumption 85): a QPOP of
the same step frees no place for its QRD. -/
def stepBlock (s : State) (p : Nat) : Option (Nat × Nat) :=
  let t := (tileOf s p).seen
  let w := stepWork s.tb t
  match mailboxWait t with
  | some a => some (0, a)
  | none =>
    if waitqBlocked t 0 || waitqBlocked t 1 then some (1, 0)
    else if [0, 1].any (fun q =>
        let old := t.un.issues.filter (fun i => i.unit == 4 + q)
        let new := w.issues.filter (fun i => i.unit == 4 + q)
        let x := t.un.port q
        decide (64 < x.places.length + placesNeeded x.latch (old ++ new))
          && decide (0 < placesNeeded (latchAfter x.latch old) new)) then some (2, 0)
    else if (outTargets w.sends).any (outBlocked s t.cycle) then some (3, 0)
    else if 128 < combineUse w.windows t.released then some (4, 0)
    else if t.un.tokens < t.st.heavyCount t.step then some (5, 0)
    else none

/-! ### Issue -/

/-- The checks of a step: bad parity stalls the tile for a refetch; a fault names the lowest BP and counts every BP that
faulted (R79, R80); else the step begins and waits (R60). -/
def runChecks (s : State) (p : Nat) : State :=
  let t := tileOf s p
  let fs := issueFindings s t.seen
  if fs.any (fun f => f.2.isParity) then
    putTile s p { t with phase := .refetch }
  else match fs with
    | (n, .fault c d) :: _ => tileFault s p c n t.step false t.cycle d fs.length
    | _ => putTile s p { t with phase := .waiting, wait := stepBlock s p }

/-- A tile begins its step: the upsets that struck are in the store, and the checks run; a wait for trace staging is counted once
(R452), and its code 0xF is one that no packet shows (R449). -/
def stepIssue (p : Nat) (ups : List Upset) (s : State) : State :=
  let t := tileOf s p
  if onClock s p && decide (t.phase = .ready) && !fenced s p && !trcHolds s (p / 17) &&
      (decide (t.step ≠ 0) || paceOpen s t.cycle) then
    let st := ups.foldl (fun st u => st.upset t.step u) t.st
    runChecks (putTile s p { t with st := st, since := s.tb, un := { t.un with tokens := 0 } }) p
  else if onClock s p && decide (t.phase = .ready) && trcHolds s (p / 17) && t.wait != some (0xF, 0) then
    bump (putTile s p { t with wait := some (0xF, 0) }) (ro pTrc 0x0A8) 1
  else s

def execStepIssue (p : Nat) (ups : List Upset) (s : State) : Host.Outcome State Fault Refusal :=
  finish (stepIssue p ups s)

/-- A STALL packet when a wait of at least STALL_MIN periods ends (R448, R449). -/
def traceStall (s : State) (p cause step : Nat) (close : Bool) (dsAddr : Nat) : State :=
  if !trcClass s 3 then s
  else
    let t := tileOf s p
    let n := periodsIn s (p / 17) (s.tb - t.since)
    if n < max 16 (regF s (ro pTrc 0x0A0) 0 16) then s
    else tracePkt s (p / 17) t.cycle 0x04
      (place 32 0 4 cause ||| place 32 4 4 (logicalNo s p % 16) ||| place 32 8 12 step ||| place 32 20 1 close.toNat).toNat
      [place 64 0 32 (min 0xFFFFFFFF n) ||| place 64 32 10 dsAddr]

/-- A REPLAY packet for a refetch (R448). -/
def traceRefetch (s : State) (p bp : Nat) : State :=
  let t := tileOf s p
  if trcClass s 6 then
    tracePkt s (p / 17) t.cycle 0x06 (place 32 2 4 (logicalNo s p % 16)).toNat
      [place 64 0 10 bp ||| place 64 10 12 t.step]
  else s

/-- A refetch is counted and traced, and the stall that it ends: STALL cause REFETCH (R414, R448, R449). -/
def refetched (s : State) (p bp step : Nat) (close : Bool) : State :=
  let s := traceStall (traceRefetch (bump s (ro (pTil p) 0x22C) 1) p bp) p 9 step close 0
  putTile s p { tileOf s p with since := s.tb }

/-- The lowest port table entry with wrong parity: no tile latches its port slots before it is rewritten (R413). -/
def Store.badPort (st : Store) : Option Nat := (List.range 1024).find? (fun k => decide ((3, k) ∈ st.badParity))

/-- Does the tile stand where it reads its port table: its next record is there (R42, R67)? -/
def readsPorts (s : State) (t : Tile) : Bool :=
  match t.phase, s.run.record with
  | .close 5, some r => decide (r.cyc = t.cycle + 1)
  | .start, some r => decide (r.cyc = s.run.first)
  | _, _ => false

/-- What the hub puts back for an item that failed parity: the item rewritten, or, where the rewrite does not hold, the word
handed to the tile for this one use, which is a hard error (R413, R414). -/
def giveWord (s : State) (p storage k v : Nat) (held : Bool) (kind bp idx : Nat) : State :=
  let t := tileOf s p
  if held then putTile s p { t with st := t.st.setItem storage k v }
  else hardError (putTile s p { t with lent := (storage, k, v) :: t.lent }) p kind bp idx

/-- The hub rewrites port table entry `k` from the golden copy (R413, R414). -/
def refetchPort (s : State) (p k : Nat) (held : Bool) : State :=
  let t := tileOf s p
  let x := fetchItem s (logicalNo s p) 3 k
  let good := goldenPort s (logicalNo s p) k
  let s := refetched x.1 p (k / 64 * 64) 6 true
  match if x.2 then good else none with
  | none => tileFault s p 0x0D (k / 64 * 64) 6 true t.cycle 0 1
  | some e =>
    tableQueues (giveWord s p 3 k e.toNat held 2 (k / 64 * 64) (k % 64))

/-- The hub rewrites what failed parity for BP `bp` from the golden copy, and the checks of the step run again, also where
Chamois has repaired the word meanwhile (R413, R414, R431). -/
def refetch (p bp : Nat) (held : Bool) (s : State) : State :=
  let t := (tileOf s p).seen
  let l := logicalNo s p
  let ends := t.st.endsAt t.step
  match t.phase, t.st.check s.img.debug ends t.step bp with
  | .refetch, some (.parity what key) =>
    let x := fetchItem s l what key
    let good : Option Nat :=
      match what with
      | 0 => (goldenWord s l bp t.step).map (·.toNat)
      | 1 => (goldenFn s l key).map (·.toNat)
      | _ => (goldenRoute s l key).map (·.toNat)
    let s := refetched x.1 p bp t.step false
    match if x.2 then good else none with
    | none => tileFault s p 0x0D bp t.step false t.cycle 0 1
    | some v =>
      let s := giveWord s p what key v held (if what = 0 then 0 else 2) bp
        (match what with | 0 => t.step | 1 => key % 256 | _ => key % 64)
      if (tileOf s p).phase = .refetch then runChecks s p else s
  | .refetch, _ =>
    if (issueFindings s t).any (fun f => f.2.isParity) then s
    else runChecks (refetched s p bp t.step false) p
  | _, _ =>
    match t.st.badPort with
    | some k => if readsPorts s t && decide (k / 64 = bp / 64) then refetchPort s p k held else s
    | none => s

def execStepWordRefetch (p bp : Nat) (held : Bool) (s : State) : Host.Outcome State Fault Refusal :=
  finish (refetch p bp held s)

/-! ### Completion of a step (R59, R60) -/

/-- A flit of a window at the stop of tile `p`; DST_PHYS is filled in for the sending die, at the release of the window
(R92, R112).  DESIGN CHOICE (assumption 86): the period of translation is the release, and DST_PHYS reads 0 until the
bridge stop of the target die fills it in, and in an output flit. -/
def newFlit (s : State) (p : Nat) (tgt : Target) (cyc : Nat) (rs : List Rec) : Flit :=
  let l := logicalNo s p
  let dst : Nat × Nat × Nat := match tgt with | .tile dev die tile => (dev, die, tile) | .outQueue => (0, 0, 0)
  let same := decide (dst.1 = devIdx s ∧ dst.2.1 = p / 17) && (match tgt with | .outQueue => false | .tile _ _ _ => true)
  { out := match tgt with | .outQueue => true | .tile _ _ _ => false
    dstDev := dst.1, dstDie := dst.2.1, dstTile := dst.2.2
    dstPhys := if same then regF s (mapReg (16 * dst.2.1 + dst.2.2)) 0 5 else 0
    srcDev := devIdx s, srcDie := p / 17, srcTile := l % 16, srcPhys := p % 17, srcEpoch := epochOf s l
    cyc := cyc, recs := rs, loc := .stop }

/-- Cut a list into pieces of 64 (R89). -/
def chunks64 : Nat → List Rec → List (List Rec)
  | 0, _ => []
  | fuel + 1, rs => if rs.isEmpty then [] else rs.take 64 :: chunks64 fuel (rs.drop 64)

/-- Release windows: their flits wait at the stop; a flit for the sending tile itself enters neither ring (R88, R95).
DESIGN CHOICE (assumption 87): such a flit is not injected, so FLIT_TX does not count it. -/
def releaseWindows (s : State) (p : Nat) (ws : List Window) (keep : List Window) : State :=
  let t := tileOf s p
  let fl := ws.flatMap (fun w => (chunks64 (w.recs.length / 64 + 1) w.recs).map (newFlit s p w.tgt w.cyc))
  let self := fun f : Flit => !f.out && decide (f.dstDev = devIdx s ∧ f.dstDie = p / 17 ∧ f.dstPhys = p % 17)
  let s1 := putTile s p { t with windows := keep, released := t.released ++ fl.filter (fun f => !self f) }
  { s1 with ex := { s1.ex with
      flits := s1.ex.flits ++ (fl.filter self).map (fun f => { f with loc := .home (p / 17) }) } }

/-- The windows of tile `p` that are due: four steps have completed since they opened, or four STEPCLK periods have passed
(R88). -/
def dueWindow (s : State) (p : Nat) (w : Window) : Bool :=
  decide (4 ≤ w.steps) || decide (4 ≤ periodsIn s (p / 17) (s.tb - w.opened))

/-- A window is released in period p + 4, before any later step joins it (R88). -/
def releaseDue (s : State) (p : Nat) : State :=
  let ws := (tileOf s p).windows
  if ws.any (dueWindow s p) then
    releaseWindows s p (ws.filter (dueWindow s p)) (ws.filter (fun w => !dueWindow s p w))
  else s

/-- The output queue entries that a cycle's first SENDs take, in cycle order (R103, R104). -/
def takeOutPlaces (s : State) (c : Nat) (qs : List Nat) : State :=
  qs.foldl (fun s q =>
    let l := outqOf s q
    if l.any (fun e => e.cyc == c) then s
    else putOutq s q (l.takeWhile (fun e => decide (e.cyc < c)) ++
      { cyc := c, bits := 0, got := 0, visible := false, valid := false } ::
      l.dropWhile (fun e => decide (e.cyc < c)))) s

/-- Is BP n of a logical tile protected and the image not unlocked (R458)? -/
def protectedBp (s : State) (l n : Nat) : Bool :=
  s.img.protect && !s.trc.unlocked && s.img.prot.any (fun x => x.1 == l && decide (x.2.1 ≤ n ∧ n ≤ x.2.2))

/-- Trace of a completed step: HEAVY, TRACEPT in BP order, DATA of selected band words (R78, R448, R450, R458). -/
def traceStep (s : State) (p : Nat) (t : Tile) (w : StepWork) : State :=
  if !regBit s trcCtl 0 then s
  else
    let l := logicalNo s p
    let k := p / 17
    let s := if trcClass s 4 then w.issues.foldl (fun s i =>
        if regBit s trcCtl (16 + i.unit) then
          tracePkt s k t.cycle 0x05 (place 32 0 4 (l % 16) ||| place 32 4 4 i.band ||| place 32 8 6 (4 * i.unit + i.op) |||
            place 32 14 12 t.step).toNat []
        else s) s else s
    let s := if trcClass s 5 then (List.range 1024).foldl (fun s n =>
        if isSys 3 (t.st.word n t.step) then
          let r := Tbl.get false w.results n && !protectedBp s l n
          tracePkt s k t.cycle 0x0A (place 32 0 4 (l % 16) ||| place 32 4 10 n ||| place 32 14 12 t.step |||
            place 32 26 1 r.toNat).toNat []
        else s) s else s
    if trcClass s 8 then (List.range 64).foldl (fun s i =>
        let e := getReg s (ro pTrc (0x200 + 4 * i))
        if e.getLsbD 31 ∧ fld e 0 6 = l ∧ fld e 10 12 = t.step then
          let b := fld e 6 4
          let m := (List.range 64).foldl (fun (v : Word) j =>
            if Tbl.get false w.results (b * 64 + j) && !protectedBp s l (b * 64 + j) then v ||| place 64 j 1 1 else v) 0
          tracePkt s k t.cycle 0x0B i [m]
        else s) s else s

/-- HALT: the run stops after cycle c + 1, once, with event HALT (R43, R76, R78). -/
def haltRun (s : State) (c : Nat) : State :=
  if s.run.cause = some 1 then stopRun s 1 (c + 1)
  else logEvent (stopRun s 1 (c + 1)) pGlb 0x0001 (BitVec.ofNat 32 c)

/-- A DS row fails parity when a step reads it (R415): a rollback with recovery active, else PARITY_UNRECOVERED; again at
its first write after a rollback it is a hard error. -/
def dsParity (s : State) (p bp row : Nat) : State :=
  let t := tileOf s p
  let detail := place 32 0 2 1 ||| place 32 2 5 row
  let s := if (bp, row) ∈ t.dsBad then hardError s p 1 bp row else s
  if fenced s p then
    if s.run.holds.contains .rollback then s else faultRecord s p 0x0D bp t.step false t.cycle detail 1
  else if s.recov.active then
    let t := tileOf s p
    let s := putTile s p { t with dsHit := (bp, row) :: t.dsHit }
    { s with run := { s.run with holds := s.run.holds ++ [.rollback] } }
  else tileFault s p 0x0D bp t.step false t.cycle detail 1

/-- All BPs of the tile complete the step together. -/
def completeStep (s : State) (p : Nat) : State :=
  let t := (tileOf s p).seen
  let w := stepWork s.tb t
  let st := t.st
  let writes := st.writesOf t.step w.results
  let waits := [0, 1].filter (fun q => (st.waitqBp t.step q).isSome)
  let ended := st.endsAt t.step
  let halted := (List.range 1024).any (fun n => isSys 4 (st.word n t.step))
  let un := waits.foldl (fun u q => let x := Units.port u q; Units.setPort u q { x with credits := x.credits + 1 })
    { t.un with issues := t.un.issues ++ w.issues, tokens := 0 }
  let st1 := { (tileOf s p).st with
    ds := Tbl.setAll false st.ds writes
    win := w.results
    written := if s.img.debug then Tbl.setAll false st.written (writes.map (fun x => (x.1, true))) else st.written }
  let t1 := { t with
    st := st1, un := un, windows := w.windows, lent := []
    dsBad := t.dsBad.filter (fun x => !writes.any (fun y => y.1 / 1024 == x.1 && y.1 % 1024 / 32 == x.2))
    step := if ended then t.step else t.step + 1
    phase := if ended then .close 2 else .ready }
  let s := traceStep s p t w
  let s := takeOutPlaces (putTile s p t1) t.cycle (outTargets w.sends)
  let s := if halted then haltRun s t.cycle else s
  if ended then
    let t2 := tileOf s p
    releaseWindows (putTile s p { t2 with since := s.tb }) p t2.windows []
  else s

/-- QPOP_EMPTY of a WAITQ that could never end: outstanding QRDs do not exceed the pop credits (R135). -/
def waitqHopeless (t : Tile) (q : Nat) : Option Nat :=
  match t.st.waitqBp t.step q with
  | none => none
  | some n =>
    let x := t.un.port q
    if !t.un.issues.any (fun i => i.unit == 4 + q) ∧ x.reads.length ≤ x.credits then some n else none

/-- The step of tile `p` completes if everything it waits for is there (R60); SENDs that do not fit release every open
window (R90). -/
def tryComplete (p : Nat) (s : State) : State :=
  let s := if onClock s p && decide ((tileOf s p).phase = .waiting) then releaseDue s p else s
  let t := (tileOf s p).seen
  if onClock s p && decide (t.phase = .waiting) then
    match waitqHopeless t 0, waitqHopeless t 1 with
    | some n, _ => tileFault s p 0x07 n t.step false t.cycle (place 32 1 1 1) 1
    | none, some n => tileFault s p 0x07 n t.step false t.cycle (place 32 0 1 1 ||| place 32 1 1 1) 1
    | none, none =>
      match stepBlock s p with
      | none => completeStep (match t.wait with | some (c, a) => traceStall s p c t.step false a | none => s) p
      | some (4, _) => releaseWindows s p t.windows []
      | some _ => s
  else s

/-- The completion that a SYS or SEND word of BP `bp` takes part in: the words of one step complete together (R60). -/
def completeWith (p bp : Nat) (c : StepWord → Bool) (s : State) : State :=
  let t := (tileOf s p).seen
  if c (t.st.word bp t.step) then tryComplete p s else s

def execEval (p : Nat) (dsRow : Option (Nat × Nat)) (s : State) : Host.Outcome State Fault Refusal :=
  finish (match dsRow with
    | some (bp, row) => if inRun s p && decide ((tileOf s p).phase = .waiting) then dsParity s p bp row else s
    | none => tryComplete p s)

def execSend (p bp : Nat) (s : State) : Host.Outcome State Fault Refusal := finish (completeWith p bp isSend s)
def execNop (p bp : Nat) (s : State) : Host.Outcome State Fault Refusal := finish (completeWith p bp isNop s)
def execWaitq (p bp : Nat) (s : State) : Host.Outcome State Fault Refusal := finish (completeWith p bp isWaitq s)
def execEndStep (p bp : Nat) (s : State) : Host.Outcome State Fault Refusal := finish (completeWith p bp isEnd s)
def execTracept (p bp : Nat) (s : State) : Host.Outcome State Fault Refusal := finish (completeWith p bp (isSys 3) s)
def execHalt (p bp : Nat) (s : State) : Host.Outcome State Fault Refusal := finish (completeWith p bp (isSys 4) s)

end Sys2Proof.Machine
end

