-- ==== Sys2Proof/Machine/Heavy.lean ====
section
/-!
DEFINITION. The heavy units (05): TMEM, QPORT, CMP, MSG and CNT operations in the order of R120, their returns, and the
token offer.
-/
namespace Sys2Proof.Machine

/-! ### Deliveries (R34, R35, R100) -/

/-- What became of the records delivered so far: late ones, and the first that found presence: BP, mailbox, target cycle,
found at the hold store. -/
structure Judged where
  t : Tile
  late : Nat
  dbl : Option (Nat × Nat × Nat × Bool)
  deriving DecidableEq, Repr

/-- Judge one value for mailbox m of BP n by its target cycle against the mailbox cycle (R34). -/
def Judged.deliver (j : Judged) (n m tgt : Nat) (v : Bool) : Judged :=
  let t := j.t
  let st := t.st
  if tgt = t.mbxCycle ∨ tgt = t.mbxCycle + 1 then
    let k := mbxKey (tgt % 2) n m
    if Tbl.get false st.mbxHere k then { j with dbl := j.dbl <|> some (n, m, tgt, false) }
    else { j with t := { t with st := { st with
      mbxHere := Tbl.set false st.mbxHere k true, mbxVal := Tbl.set false st.mbxVal k v } } }
  else if tgt = t.mbxCycle + 2 then
    let k := n * 256 + m
    if Tbl.get false st.holdHere k then { j with dbl := j.dbl <|> some (n, m, tgt, true) }
    else { j with t := { t with st := { st with
      holdHere := Tbl.set false st.holdHere k true, holdVal := Tbl.set false st.holdVal k v } } }
  else if tgt + 1 = t.mbxCycle then { j with late := j.late + 1 }
  else j

/-- The step a tile stands at: a step, or a close step (R101, R182). -/
def Tile.standing (t : Tile) : Nat × Bool :=
  match t.phase with
  | .close k => (k, true)
  | _ => (t.step, false)

/-- DD_SRC (R119). -/
def ddSrc (dev die tile : Nat) (hold : Bool) : Reg :=
  place 32 0 4 dev ||| place 32 4 2 die ||| place 32 6 4 tile ||| place 32 10 1 hold.toNat

/-- Values arrive at tile `p` from a source: written, held or discarded as late; a value that finds presence is
DOUBLE_DELIVERY (R35, R101). -/
def deliverAll (s : State) (p : Nat) (items : List (Nat × Nat × Nat × Bool)) (lateUnit : Nat) (src : Nat × Nat × Nat) :
    State :=
  let j := items.foldl (fun j x => j.deliver x.1 x.2.1 x.2.2.1 x.2.2.2)
    ({ t := tileOf s p, late := 0, dbl := none } : Judged)
  let s := putTile s p j.t
  let s := if j.late = 0 then s else bump s (ro (pTil p) 0x180) ((j.late + lateUnit - 1) / lateUnit)
  match j.dbl with
  | none => s
  | some (n, m, tgt, hold) =>
    if j.t.halted then s
    else
      let st := j.t.standing
      tileFault (setReg s (ro (pTil p) 0x190) (ddSrc src.1 src.2.1 src.2.2 hold)) p 0x05 n st.1 st.2 tgt
        (place 32 0 8 m ||| place 32 8 1 hold.toNat) 1

/-! ### Operations that leave the array during re-execution (R425, R427) -/

/-- Count an operation that leaves the array; while re-executing, one already made is discarded. -/
def leaveArray (s : State) (key : Nat) : State × Bool :=
  let r := s.recov
  if 0 < Tbl.get 0 r.skip key then ({ s with recov := { r with skip := Tbl.upd 0 r.skip key (· - 1) } }, false)
  else if r.active then ({ s with recov := { r with counts := Tbl.upd 0 r.counts key (· + 1) } }, true)
  else (s, true)

/-! ### Issues -/

/-- The oldest issue of the tile that satisfies `c`. -/
def headIssue (t : Tile) (c : Issue → Bool) : Option Issue := t.un.issues.find? c

/-- The issue has been applied. -/
def dropIssue (s : State) (p : Nat) (i : Issue) : State :=
  let t := tileOf s p
  putTile s p { t with un := { t.un with issues := t.un.issues.erase i } }

/-- A return on its way to the mailboxes of a band (R123). -/
def addReturn (s : State) (p : Nat) (i : Issue) (base : Nat) (ws : List Word) : State :=
  modUnits s p (fun u => { u with returns := u.returns ++ [{ band := i.band, base := base, words := ws, cyc := i.cyc }] })

/-- Apply the oldest issue of unit `u` (6 CMP, 7 MSG, 8 CNT; 4 and 5 QPORT) if it is operation `op`; a fenced tile's is
dropped (R417). -/
def applyUnit (s : State) (p u op : Nat) (f : State → Issue → State) : State :=
  match headIssue (tileOf s p) (fun i => i.unit == u) with
  | some i => if i.op = op then (if fenced s p then dropIssue s p i else f (dropIssue s p i) i) else s
  | none => s

/-! ### TMEM (R126, R127, R196 to R204) -/

/-- The pending owner takes the bank, and OWN_CYC records the cycle; a region of it under test is restored first (R196). -/
def handover (s : State) (b cyc : Nat) : State :=
  let o := bankPendOwner s b
  let s := testOff s b
  let s := setReg s (ownerReg b) (place 32 0 7 o ||| place 32 8 7 o)
  let s := setReg64 s (ro (pBnk b) 0x0A0) (ro (pBnk b) 0x0A4) (cyc % cycleLimit)
  putBank s b { bankOf s b with due := none }

/-- Event FENCED_SPEAKER with the SRC fields (R114, R374). -/
def fencedSpeaker (s : State) (pg dev die tile phys : Nat) : State :=
  logEvent s pg 0x0060 (place 32 0 4 dev ||| place 32 4 2 die ||| place 32 6 4 tile ||| place 32 10 5 phys)

/-- Is the owner code a tile of the active run? -/
def runOwner (s : State) (o : Nat) : Bool := s.run.active && decide (o < 64) && (usedTiles s).contains o

/-- Has the bank's owner, a tile, a TMEM access of a cycle below c that is not applied, in a run or after it? -/
def accessOpen (s : State) (b c : Nat) : Bool :=
  decide (bankOwner s b < 64) &&
    (tileOf s (physOf s (bankOwner s b))).un.issues.any (fun i => decide (i.unit < 4 ∧ i.cyc < c))

/-- The last checkpoint that holds a bank, as far as its journal does. -/
def ckptBank (s : State) (b : Nat) : Option (Tbl BankWord) :=
  if !s.recov.active then none
  else (s.recov.next <|> s.recov.last).bind (fun c => (c.banks.find? (fun e => e.1 == b)).map (·.2))

/-- Does the journal of the last checkpoint hold the region as it stands: unwritten since, and its copy taken (R200)?
DEDUCED (assumption 98): a region whose copy is still pending has none. -/
def journalCopy (s : State) (b w : Nat) : Bool :=
  (ckptBank s b).isSome && !Tbl.get false (bankOf s b).dirty (w / 64) && !Tbl.get false (bankOf s b).pend (w / 64)

/-- Does the slot of the resident image hold the region as it stands: initialised at the swap and unwritten since (R200)? -/
def swapCopy (s : State) (b w : Nat) : Bool :=
  s.cfg.resValid && decide (Tbl.get 0xFF s.img.bankReq b ≠ 0xFF) && !Tbl.get false (bankOf s b).touched (w / 64)

/-- Does a region of a bank have a copy (R200)?  Only a bank that a tile owns has any. -/
def hasCopy (s : State) (b w : Nat) : Bool :=
  decide (bankOwner s b < 0x40) && (swapCopy s b w || journalCopy s b w)

/-- The access of a TMEM issue that passed every wait: READ, WRITE or SWAP. -/
def tmemEffect (s : State) (p : Nat) (i : Issue) : State :=
  let a := if i.op = 0 then i.word else Tbl.get 0 (tileOf s p).un.tmem i.unit
  let b := tmBank (p / 17) a
  let w := tmWord a
  let old := (bankOf s b).word w
  let s := dropIssue s p i
  let s := if i.op = 0 ∨ i.op = 3 then addReturn s p i (tmMbx a) [old] else s
  if (i.op = 2 ∨ i.op = 3) ∧ tmWen a then bankWrite s b w i.word else s

/-- A parity error in a word without a copy (R200): a run that can recover rolls back; else the error is unrecovered, for a tile
owner the tile's fault.  `wt` is the TMEM access that read the word. -/
def bankErrBare (s : State) (b w : Nat) (wt : Option Waiting) : State :=
  let o := bankOwner s b
  if decide (0x40 ≤ o) then unrecovered s b w
  else if s.recov.active then
    let s := recordPerr s b w 1
    { s with run := { s.run with holds := s.run.holds ++ [.rollback] } }
  else
    let p := physOf s o
    let t := tileOf s p
    let cyc := match wt with | some x => x.iss.cyc | none => t.cycle
    let s := stick (recordPerr s b w 2) (pBnk b) 4
    tileFault s p 0x0D 0 t.standing.1 t.standing.2 cyc (place 32 0 2 2 ||| place 32 2 7 b ||| place 32 9 18 w) 1

/-- A parity error in a word that a requester reads (R200): where the word has a copy, the hub rewrites it while the requester
waits. -/
def bankErr (s : State) (b w : Nat) (wt : Option Waiting) : State :=
  if hasCopy s b w then
    if (bankOf s b).repair.isSome then s else putBank s b { bankOf s b with repair := some (w, wt) }
  else bankErrBare s b w wt

/-- Does a repair of a word of the bank wait for the hub? -/
def repairing (s : State) (b : Nat) : Bool := (bankOf s b).repair.isSome

/-- A region of a bank is read by a requester that does not own it: its words with a parity error, and whether the read can
go on (R200). -/
def regionErrs (s : State) (b r : Nat) : State × Bool :=
  match (bankOf s b).badWords (64 * r) 64 with
  | [] => (s, true)
  | w :: ws =>
    if hasCopy s b w then (bankErr s b w none, false)
    else
      let back := decide (bankOwner s b < 0x40) && s.recov.active
      ((if back then [w] else w :: ws).foldl (fun s w => bankErr s b w none) s, !back)

/-- A READ, WRITE or SWAP of a tile at its bank: ownership in the cycle of issue, waits on a test, a repair or a pending
copy, parity, then the access (R127, R196, R197, R200, R202, R204). -/
def tmemAccess (s : State) (p : Nat) (i : Issue) : State :=
  let a := if i.op = 0 then i.word else Tbl.get 0 (tileOf s p).un.tmem i.unit
  let d := p / 17
  let b := tmBank d a
  let w := tmWord a
  if fenced s p then fencedSpeaker (dropIssue s p i) (pBnk b) (devIdx s) d (logicalNo s p % 16) (p % 17)
  else
    let s := match (bankOf s b).due with
      | some c =>
        if c ≤ i.cyc ∧ !accessOpen s b c then handover s b c else s
      | none => s
    let writes := decide (i.op = 2 ∨ i.op = 3) && tmWen a
    if bankOwner s b ≠ logicalNo s p then
      tileFault (dropIssue s p i) p 0x09 (i.band * 64) i.step false i.cyc (place 32 0 7 b ||| place 32 7 2 i.unit) 1
    else if i.op = 2 ∧ !tmWen a then dropIssue s p i
    else if underTest s b (w / 64) then putDie s d { dieOf s d with ttAbort := true }
    else if writes ∧ Tbl.get false (bankOf s b).pend (w / 64) then s
    else if s.banks.any (fun e => match e.2.repair with | some (_, some x) => x.tile == p | _ => false) then s
    else if i.op ≠ 2 ∧ badWord (Tbl.get 0 (bankOf s b).words w) then bankErr s b w (some { tile := p, iss := i })
    else tmemEffect s p i

/-- The oldest TMEM issue of the tile, if it is operation `op` of unit `u`: TMEM accesses apply in step order, and within
a step in ascending unit (R32). -/
def tmemHead (s : State) (p u op : Nat) : Option Issue :=
  match headIssue (tileOf s p) (fun i => decide (i.unit < 4)) with
  | some i => if i.unit = u ∧ i.op = op then some i else none
  | none => none

/-- The bank and the word that a TMEM issue addresses. -/
def tmemPlace (s : State) (p : Nat) (i : Issue) : Nat × Nat :=
  let a := if i.op = 0 then i.word else Tbl.get 0 (tileOf s p).un.tmem i.unit
  (tmBank (p / 17) a, tmWord a)

/-- The command of a TMEM access; `up` is a stored bit of the word it addresses that has flipped. -/
def tmemCommand (s : State) (p u op : Nat) (up : Option Nat) : State :=
  match tmemHead s p u op with
  | some i =>
    let x := tmemPlace s p i
    tmemAccess (match up with | some k => bankUpset s { bank := x.1, word := x.2, bit := k } | none => s) p i
  | none => s

/-- ADDR stores the address word in the unit's latch (R127). -/
def tmemLatch (s : State) (p u : Nat) : State :=
  match tmemHead s p u 1 with
  | some i => modUnits (dropIssue s p i) p (fun x => { x with tmem := Tbl.set 0 x.tmem u i.word })
  | none => s

def execTmemRead (p u : Nat) (up : Option Nat) (s : State) : Host.Outcome State Fault Refusal :=
  finish (tmemCommand s p u 0 up)
def execTmemAddr (p u : Nat) (s : State) : Host.Outcome State Fault Refusal := finish (tmemLatch s p u)
def execTmemWrite (p u : Nat) (s : State) : Host.Outcome State Fault Refusal := finish (tmemCommand s p u 2 none)
def execTmemSwap (p u : Nat) (up : Option Nat) (s : State) : Host.Outcome State Fault Refusal :=
  finish (tmemCommand s p u 3 up)

/-! ### QPORT (R128 to R135) -/

/-- May queue q of logical tile l read, or write, at a byte address (R129)? -/
def regionAllows (s : State) (l q a : Nat) (write : Bool) : Bool :=
  s.img.regions.any (fun r =>
    r.mask.testBit (2 * l + q) && (!write || r.rw) && decide (r.base ≤ a ∧ a < r.base + r.len))

/-- Add to QP_OOR (R154): QPORT0 in [15:0], QPORT1 in [31:16]. -/
def countOor (s : State) (p q : Nat) : State := bumpF s (ro (pTil p) 0x1C8) (16 * q) 16 1

/-- A request takes its place; inside its region it goes to the controller of its channel (R129, R132). -/
def takePlace (s : State) (p q : Nat) (write : Bool) (w : Word) (data : Word) : State :=
  let a := qpAddr w / (if write then 8 else 64) * (if write then 8 else 64)
  let l := logicalNo s p
  let oor := decide (fld w 41 22 ≠ 0) || !regionAllows s l q a write
  let x := (tileOf s p).un.port q
  let r : QReq := { id := x.nextId, write := write, addr := a, data := data, oor := oor
                    stage := if oor ∧ !write then .reorder else .hub, resp := List.replicate 8 0, poisoned := none
                    t0 := s.tb }
  let s := modUnits s p (fun u => u.setPort q { x with places := x.places ++ [r], nextId := x.nextId + 1 })
  if oor then countOor s p q
  else
    let ch := channelOf a
    let c := chanOf s ch
    let mask := if write then place 64 (a % 64) 8 0xFF else 0
    putChan s ch { c with arriving := c.arriving ++ [
      { src := .qport p q r.id, write := write, line := a / 64, mask := mask,
        data := BitVec.ofNat 512 (data.toNat * 2 ^ (8 * (a % 64))), aged := false, seq := 0 }] }

def qrdApply (q p : Nat) (s : State) (i : Issue) : State := takePlace s p q false i.word 0

def qwaApply (q p : Nat) (s : State) (i : Issue) : State :=
  modUnits s p (fun u => u.setPort q { u.port q with latch := i.word })

def qwdApply (q p : Nat) (s : State) (i : Issue) : State :=
  let a := ((tileOf s p).un.port q).latch
  if qwWen a then takePlace s p q true a i.word else s

/-- QPOP (R130, R134, R135, R219): a pop credit, the oldest ready response, eight words to eight mailboxes. -/
def qpop (p q : Nat) (s : State) : State :=
  match headIssue (tileOf s p) (fun i => i.unit == 4 + q) with
  | none => s
  | some i =>
    let x := (tileOf s p).un.port q
    if i.op ≠ 3 then s
    else if x.credits = 0 then
      tileFault (dropIssue s p i) p 0x07 (i.band * 64) i.step false i.cyc (place 32 0 1 q) 1
    else match x.reads.head? with
      | none => s
      | some r =>
        if r.stage ≠ .ready then s
        else match r.poisoned with
          | some ch => tileFault (dropIssue s p i) p 0x0D (i.band * 64) i.step false i.cyc
              (place 32 0 2 3 ||| place 32 2 3 ch) 1
          | none =>
            let s := dropIssue s p i
            let s := modUnits s p (fun u => u.setPort q { x with places := x.places.erase r, credits := x.credits - 1 })
            addReturn s p i (fld i.word 0 8) r.resp

def execQrd (p q : Nat) (s : State) : Host.Outcome State Fault Refusal := finish (applyUnit s p (4 + q) 0 (qrdApply q p))
def execQwa (p q : Nat) (s : State) : Host.Outcome State Fault Refusal := finish (applyUnit s p (4 + q) 1 (qwaApply q p))
def execQwd (p q : Nat) (s : State) : Host.Outcome State Fault Refusal := finish (applyUnit s p (4 + q) 2 (qwdApply q p))
def execQpop (p q : Nat) (s : State) : Host.Outcome State Fault Refusal := finish (qpop p q s)

/-- The response of the oldest read that is not ready passes to the tile's response buffer (R216); LAT_MAX of its channel
counts it unless it was out of region (R237). -/
def qrdReady (p q : Nat) (s : State) : State :=
  let x := (tileOf s p).un.port q
  match x.reads.find? (fun r => r.stage != .ready) with
  | none => s
  | some r =>
    if r.stage ≠ .reorder then s
    else
      let s := modUnits s p (fun u => u.setPort q { x with
        places := x.places.map (fun r' => if r'.id = r.id then { r' with stage := .ready } else r') })
      if r.oor then s
      else
        let a := ro (pDdr (channelOf r.addr)) 0x0A0
        let ns := min 0xFFFF ((s.tb - r.t0).toNat / 256)
        if (getReg s a).toNat < ns then setReg s a (BitVec.ofNat 32 ns) else s

def execQrdResponseReady (p q : Nat) (s : State) : Host.Outcome State Fault Refusal := finish (qrdReady p q s)

/-- A QWD that the controller's write buffer has taken, or that was out of region, frees its place (R129, R132). -/
def qwdHandoff (p q : Nat) (s : State) : State :=
  let x := (tileOf s p).un.port q
  match x.places.find? (fun r => r.write && (r.oor || r.stage == .atController)) with
  | none => s
  | some r => modUnits s p (fun u => u.setPort q { x with places := x.places.erase r })

def execQwdHandoff (p q : Nat) (s : State) : Host.Outcome State Fault Refusal := finish (qwdHandoff p q s)

/-! ### CMP (R137 to R139) -/

/-- A match raises one CMP event, routed by CMP_CFG (R138). -/
def matchApply (p : Nat) (s : State) (i : Issue) : State :=
  let u := (tileOf s p).un
  if (i.word ^^^ u.cmpVal) &&& u.cmpMask ≠ 0 then s
  else
    let (s, out) := leaveArray s (100 + logicalNo s p)
    if !out then s
    else
      let cfg := getReg s (ro (pTil p) 0x1C0)
      let s := bump s (ro (pTil p) 0x1C4) 1
      let s := if cfg.getLsbD 16 then setFlag s (fld cfg 8 8) (fld cfg 0 6) (some i.cyc) else s
      if cfg.getLsbD 17 then
        mkhEvent s { plainEvent s 0x20 i.cyc with tag := some (p / 17, logicalNo s p, i.band) }
      else s

/-- A probe word goes to Markhor under the index that PROBEMAP gives its tag (R139, R168, R318). -/
def probeApply (p : Nat) (s : State) (i : Issue) : State :=
  match s.img.probeMap.find? (fun e => e.1 == logicalNo s p && e.2.1 == i.band && e.2.2.1 == i.step) with
  | none => s
  | some e =>
    let (s, out) := leaveArray s (200 + e.2.2.2)
    if out then { s with mkh := { s.mkh with probes := s.mkh.probes ++ [(e.2.2.2, i.cyc, i.word)] } } else s

def execSetmask (p : Nat) (s : State) : Host.Outcome State Fault Refusal :=
  finish (applyUnit s p 6 0 (fun s i => modUnits s p (fun u => { u with cmpMask := i.word })))
def execSetval (p : Nat) (s : State) : Host.Outcome State Fault Refusal :=
  finish (applyUnit s p 6 1 (fun s i => modUnits s p (fun u => { u with cmpVal := i.word })))
def execMatchOp (p : Nat) (s : State) : Host.Outcome State Fault Refusal := finish (applyUnit s p 6 2 (matchApply p))
def execProbe (p : Nat) (s : State) : Host.Outcome State Fault Refusal := finish (applyUnit s p 6 3 (probeApply p))

/-! ### MSG (R140 to R142, R369, R370) -/

/-- Words that a FIFO holds. -/
def MsgFifo.held (x : MsgFifo) : Nat := (x.vis.map List.length).sum + x.opn.length

/-- Discard the oldest visible packet that is not claimed, until a word fits; packets and words lost (R370). -/
def MsgFifo.makeRoom : Nat → MsgFifo → Nat × Nat → MsgFifo × Nat × Nat
  | 0, x, n => (x, n)
  | fuel + 1, x, n =>
    if x.held < 4096 then (x, n)
    else
      let i := if x.claimed then 1 else 0
      match x.vis[i]? with
      | none => (x, n)
      | some pk => MsgFifo.makeRoom fuel { x with vis := x.vis.eraseIdx i } (n.1 + 1, n.2 + pk.length)

/-- The open packet ends and becomes visible. -/
def MsgFifo.endPacket (x : MsgFifo) : MsgFifo :=
  if x.opn.isEmpty then x else { x with vis := x.vis ++ [x.opn], opn := [] }

/-- Append a word; a packet that reaches 32 words ends on its 32nd (R140). -/
def msgAppend (s : State) (f : Nat) (w : Word) (eop : Bool) : State :=
  let (x, n) := MsgFifo.makeRoom 4097 (fifoOf s f) (0, 0)
  let x := { x with opn := x.opn ++ [w] }
  let x := if eop || decide (32 ≤ x.opn.length) then x.endPacket else x
  let g := 0x20 * f
  let s := putFifo s f x
  if n.1 = 0 then s
  else orReg (bump (bump s (ro pMsg (0x110 + g)) n.1) (ro pMsg (0x114 + g)) n.2) (ro pMsg (0x10C + g)) 2

/-- An operation on the selected FIFO: nothing while ENABLE is 0; discarded and counted from a tile that the FIFO is not
bound to (R140, R141). -/
def msgGate (p : Nat) (f : State → Nat → State) (s : State) : State :=
  let m := (tileOf s p).un.msg
  let k := fld m 0 4
  if !m.getLsbD 8 then s
  else if Tbl.get 0xFF s.img.msgBind k ≠ logicalNo s p then bump s (ro (pTil p) 0x1D0) 1
  else
    let (s, out) := leaveArray s k
    if out then f s k else s

def msgPushApply (p : Nat) (eop : Bool) (s : State) (i : Issue) : State :=
  msgGate p (fun s k => msgAppend s k i.word eop) s

def msgEopApply (p : Nat) (s : State) (i : Issue) : State :=
  if i.word.getLsbD 0 then msgGate p (fun s k => putFifo s k (fifoOf s k).endPacket) s else s

def execMsgCtl (p : Nat) (s : State) : Host.Outcome State Fault Refusal :=
  finish (applyUnit s p 7 0 (fun s i => modUnits s p (fun u => { u with msg := i.word })))
def execMsgPush (p : Nat) (s : State) : Host.Outcome State Fault Refusal :=
  finish (applyUnit s p 7 1 (msgPushApply p false))
def execPushEop (p : Nat) (s : State) : Host.Outcome State Fault Refusal :=
  finish (applyUnit s p 7 2 (msgPushApply p true))
def execMsgEop (p : Nat) (s : State) : Host.Outcome State Fault Refusal := finish (applyUnit s p 7 3 (msgEopApply p))

/-! ### CNT (R143) -/

def cntIncApply (p : Nat) (s : State) (i : Issue) : State :=
  modUnits s p (fun u => { u with cnt := (List.range 4).foldl (fun c k =>
    if i.word.getLsbD k then Tbl.upd 0 c k (· + 1) else c) u.cnt })

def cntLoadApply (p : Nat) (s : State) (i : Issue) : State :=
  modUnits s p (fun u => { u with cnt := Tbl.set 0 u.cnt u.ldsel i.word })

def cntReadApply (p : Nat) (s : State) (i : Issue) : State :=
  addReturn s p i (fld i.word 8 8) [Tbl.get 0 (tileOf s p).un.cnt (fld i.word 0 2)]

def execCntInc (p : Nat) (s : State) : Host.Outcome State Fault Refusal := finish (applyUnit s p 8 0 (cntIncApply p))
def execLdsel (p : Nat) (s : State) : Host.Outcome State Fault Refusal :=
  finish (applyUnit s p 8 1 (fun s i => modUnits s p (fun u => { u with ldsel := fld i.word 0 2 })))
def execCntLoad (p : Nat) (s : State) : Host.Outcome State Fault Refusal := finish (applyUnit s p 8 2 (cntLoadApply p))
def execCntRead (p : Nat) (s : State) : Host.Outcome State Fault Refusal := finish (applyUnit s p 8 3 (cntReadApply p))

/-! ### Tokens (R144, R145) -/

/-- Tokens a tile still needs at its step. -/
def tokenNeed (s : State) (p : Nat) : Nat :=
  let t := tileOf s p
  if inRun s p && decide (t.phase = .waiting) then t.seen.st.heavyCount t.step - t.un.tokens else 0

/-- One period of a die: B tokens go to its waiting tiles from the pointer on; each takes what it needs of what is left. -/
def tokenOffer (d : Nat) (s : State) : State :=
  let ptr := (dieOf s d).tokPtr
  let b := regF s (ro pPwr (0x0A0 + 4 * d)) 0 8
  let r := (List.range 17).foldl (fun (x : State × Nat × Bool) k =>
    let p := 17 * d + (ptr + k) % 17
    let need := tokenNeed x.1 p
    if need = 0 then x
    else
      let take := min need x.2.1
      let s := modUnits x.1 p (fun u => { u with tokens := u.tokens + take })
      if take < need then (bump s (ro (pTil p) 0x1D4) 1, x.2.1 - take, true) else (s, x.2.1 - take, x.2.2)) (s, b, false)
  let s := putDie r.1 d { dieOf r.1 d with tokPtr := (ptr + 1) % 17 }
  if r.2.2 then bump s (ro pPwr (0x0D0 + 4 * d)) 1 else s

def execTokenOffer (d : Nat) (s : State) : Host.Outcome State Fault Refusal := finish (tokenOffer d s)

/-! ### Returns (R123) -/

/-- The values of a return: word j, bit k to member k, mailbox (base + j) mod 256. -/
def Ret.items (r : Ret) : List (Nat × Nat × Nat × Bool) :=
  r.words.zipIdx.flatMap (fun (w, j) =>
    (List.range 64).map (fun k => (r.band * 64 + k, (r.base + j) % 256, r.cyc, w.getLsbD k)))

/-- A return reaches its mailboxes.  DESIGN CHOICE (assumption 93): DD_SRC of one that finds presence names the tile itself. -/
def heavyReturn (p i : Nat) (s : State) : State :=
  match (tileOf s p).un.returns[i]? with
  | none => s
  | some r =>
    let s := modUnits s p (fun u => { u with returns := u.returns.eraseIdx i })
    deliverAll s p r.items 64 (devIdx s, p / 17, logicalNo s p % 16)

def execHeavyReturn (p i : Nat) (s : State) : Host.Outcome State Fault Refusal := finish (heavyReturn p i s)

end Sys2Proof.Machine
end

