-- ==== Sys2Proof/Machine/Exchange.lean ====
section
/-!
DEFINITION. The exchange (04): windows become flits, flits cross rings, bridges and main rings, tile stops and the rim stop
take them, and devices tell each other which cycle they have begun.
-/
namespace Sys2Proof.Machine

/-! ### Windows and injection (R88 to R96) -/

/-- Window `i` of the tile's stop is released. -/
def windowRelease (p i : Nat) (s : State) : State :=
  let t := tileOf s p
  match t.windows[i]? with
  | none => s
  | some w => releaseWindows s p [w] (t.windows.eraseIdx i)

def execCombineWindowRelease (p i : Nat) (s : State) : Host.Outcome State Fault Refusal := finish (windowRelease p i s)

/-- The position at which the flit leaves the rings of die `d`: its tile's, or the bridge stop's, 17 (R95, R97). -/
def Flit.exitPos (f : Flit) (s : State) (d : Nat) : Nat :=
  if !f.out && decide (f.dstDev = devIdx s ∧ f.dstDie = d) then f.dstPhys else 17

/-- The ring that a flit takes at the stop of tile `p`. -/
def Flit.ringAt (f : Flit) (s : State) (p : Nat) : Nat := shorterRing 18 (p % 17) (f.exitPos s (p / 17))

/-- The oldest released flit for ring `r` enters it; its epoch is the sending tile's at injection (R92, R95, R96, R119). -/
def inject (p r : Nat) (s : State) : State :=
  let t := tileOf s p
  match t.released.find? (fun f => f.ringAt s p == r) with
  | none => s
  | some f =>
    let e := match logicalOf s p with | some l => epochOf s l | none => f.srcEpoch
    let s := bumpWrap (putTile s p { t with released := t.released.erase f }) (ro (pTil p) 0x188) 1
    { s with ex := { s.ex with flits := s.ex.flits ++ [{ f with srcEpoch := e, loc := .ring (p / 17) r }] } }

def execFlitInject (p r : Nat) (s : State) : Host.Outcome State Fault Refusal := finish (inject p r s)

/-! ### Delivery at a tile stop (R97, R99, R114) -/

/-- Take flit `i` out of the exchange. -/
def dropFlit (s : State) (i : Nat) : State := { s with ex := { s.ex with flits := s.ex.flits.eraseIdx i } }

def Flit.srcTileNo (f : Flit) : Nat := 17 * f.srcDie + f.srcPhys

/-- The tile map copy for the flit's source holds its SRC_PHYS and SRC_EPOCH, and that physical tile is not fenced
(R113, R114). -/
def mayspeak (s : State) (f : Flit) : Bool :=
  if f.srcDev = devIdx s then
    let l := 16 * f.srcDie + f.srcTile
    regF s (mapReg l) 0 5 == f.srcPhys && epochOf s l == f.srcEpoch && !fenced s f.srcTileNo
  else Tbl.get (f.srcTile, 0) s.ex.peerMap (f.srcDev * 64 + f.srcDie * 16 + f.srcTile) == (f.srcPhys, f.srcEpoch)

/-- Records with GEN = 1 are logged for the checkpoint of their target cycle, in every run: a run that resumes takes its
first checkpoint with the values already delivered for its first cycle (R423, R170). -/
def logGen (s : State) (p : Nat) (f : Flit) : State :=
  let t := tileOf s p
  let keep := match s.recov.next with | some c => c.cyc | none => t.mbxCycle
  let new := (f.recs.filter (·.gen)).map (fun r => (f.cyc + 1, r.a * 256 + r.m, r.res))
  putTile s p { t with genLog := t.genLog.filter (fun x => decide (keep ≤ x.1)) ++ new }

/-- The records of a delivery flit: BP, mailbox, target cycle, value. -/
def Flit.items (f : Flit) : List (Nat × Nat × Nat × Bool) :=
  f.recs.map (fun r => (r.a, r.m, f.cyc + r.gen.toNat, r.res))

/-- Is the flit on a ring of die `d`, or at its own stop there? -/
def Flit.onDie (f : Flit) (d : Nat) : Bool :=
  match f.loc with
  | .ring d' _ => d' == d
  | .home d' => d' == d
  | _ => false

/-- Is the flit addressed to the stop of tile `p`, and on its die? -/
def Flit.isFor (f : Flit) (s : State) (p : Nat) : Bool :=
  !f.out && f.onDie (p / 17) && decide (f.dstDev = devIdx s ∧ f.dstDie = p / 17 ∧ f.dstPhys = p % 17)

/-- The stop of tile `p` takes flit `i`, if the flit is for it: FLIT_RX counts it, written or dropped (R97, R114, R119). -/
def deliver (p i : Nat) (s : State) : State :=
  match s.ex.flits[i]? with
  | none => s
  | some f =>
    if !f.isFor s p then s
    else
      let s := bumpWrap (dropFlit s i) (ro (pTil p) 0x18C) 1
      if fenced s p then bump s (ro (pTil p) 0x184) 1
      else if !mayspeak s f then
        fencedSpeaker (bump s (ro (pTil p) 0x184) 1) (pTil p) f.srcDev f.srcDie f.srcTile f.srcPhys
      else deliverAll (logGen s p f) p f.items 1 (f.srcDev, f.srcDie, f.srcTile)

/-- Is flit `i` on ring 1 of its die? -/
def onRing1 (s : State) (i : Nat) : Bool :=
  match s.ex.flits[i]? with
  | some f => (match f.loc with | .ring _ r => r == 1 | _ => false)
  | none => false

/-- Two flits that arrive at a stop in one period, on different rings: ring 0's is judged first (R99). -/
def deliverPair (p i j : Nat) (s : State) : State :=
  match s.ex.flits[i]?, s.ex.flits[j]? with
  | some f, some g =>
    if decide (i = j) || !f.isFor s p || !g.isFor s p || onRing1 s i == onRing1 s j then deliver p i s
    else
      let (a, b) := if onRing1 s i then (j, i) else (i, j)
      deliver p (if a < b then b - 1 else b) (deliver p a s)
  | _, _ => deliver p i s

def execFlitDeliver (p i : Nat) (also : Option Nat) (s : State) : Host.Outcome State Fault Refusal :=
  finish (match also with | none => deliver p i s | some j => deliverPair p i j s)

/-! ### Bridges and main rings (R97, R98, R107, R112) -/

def setFlit (s : State) (i : Nat) (f : Flit) : State := { s with ex := { s.ex with flits := s.ex.flits.set i f } }

/-- Is the flit on the rings of die `d`, on its way out of the die? -/
def Flit.leaves (f : Flit) (s : State) (d : Nat) : Bool :=
  f.onDie d && (f.out || decide (f.dstDev ≠ devIdx s ∨ f.dstDie ≠ d))

/-- Flits in a place of the exchange. -/
def flitsAt (s : State) (l : Loc) : Nat := (s.ex.flits.filter (fun g => decide (g.loc = l))).length

/-- The bridge stop of die `d` takes flit `i` into the interface queue of 128; a full queue sends it round again (R21,
R97), and a fenced tile's flit is dropped (R417).  DESIGN CHOICE (assumption 88): a bridge stop has no page, so the event
FENCED_SPEAKER of a flit that it drops names GLB. -/
def bridge (d i : Nat) (s : State) : State :=
  match s.ex.flits[i]? with
  | none => s
  | some f =>
    if !f.leaves s d then s
    else if !mayspeak s f then fencedSpeaker (dropFlit s i) pGlb f.srcDev f.srcDie f.srcTile f.srcPhys
    else if 128 ≤ flitsAt s (.iface d) then s
    else setFlit s i { f with loc := .iface d }

def execBridgeTake (d i : Nat) (s : State) : Host.Outcome State Fault Refusal := finish (bridge d i s)

/-- A flit's 21 words (R92, R93). -/
def Flit.words (f : Flit) : List Word :=
  let head := place 64 62 2 f.out.toNat ||| place 64 58 4 f.dstDev ||| place 64 56 2 f.dstDie |||
    place 64 52 4 f.dstTile ||| place 64 47 5 f.dstPhys ||| place 64 43 4 f.srcDev ||| place 64 41 2 f.srcDie |||
    place 64 37 4 f.srcTile ||| place 64 32 5 f.srcPhys ||| place 64 24 8 f.srcEpoch ||| place 64 22 2 f.cyc |||
    place 64 15 7 f.recs.length
  let vals := f.recs.zipIdx.foldl (fun (v : Word) x => v ||| place 64 x.2 1 x.1.res.toNat) 0
  let body := f.recs.zipIdx.foldl (fun n x =>
    n + (if f.out then x.1.a % 64 * 2 ^ 13 + x.1.m % 64 * 2 ^ 7
         else x.1.a % 1024 * 2 ^ 9 + x.1.m % 256 * 2 + x.1.gen.toNat) * 2 ^ (19 * x.2)) 0
  head :: vals :: (List.range 19).map (fun j => BitVec.ofNat 64 (body / 2 ^ (64 * j)))

/-- The link port for a flit to device d: port k of the n in its link map, k = (16 DST_DIE + DST_TILE) mod n (R107). -/
def flitPort (s : State) (f : Flit) : Option Nat :=
  let ps := linkPorts s f.dstDev
  if ps.isEmpty then none else ps[(f.dstDie * 16 + f.dstTile) % ps.length]?

/-- A flit enters the rings of its target die at the bridge stop, which fills in DST_PHYS from the current map and gives it
the shorter ring (R95, R98, R112). -/
def Flit.enter (f : Flit) (s : State) : Flit :=
  let k := regF s (mapReg (16 * f.dstDie + f.dstTile)) 0 5
  { f with dstPhys := k, loc := .ring f.dstDie (shorterRing 18 17 k) }

/-- Main-ring stops of R14: the group of a port, the rim. -/
def portStop (n : Nat) : Nat := 12 + n / 4
def rimStop : Nat := 22

/-- The main-ring stop where the flit leaves: the rim, the group of its link port, or the bridge of its die (R98); none
where no link map names a port. -/
def exitStop (s : State) (f : Flit) : Option Nat :=
  if f.out then some rimStop
  else if f.dstDev ≠ devIdx s then (flitPort s f).map portStop
  else some (bridgeStop f.dstDie)

/-- A flit enters the main rings at stop `a`, in the shorter direction, the ascending one on a tie (R98). -/
def Flit.onMain (f : Flit) (a b : Nat) : Flit := { f with loc := .main (shorterRing 24 a b) b }

/-- Is flit `i` the oldest of its place?  The interface queues pass flits in order. -/
def firstAt (s : State) (i : Nat) (l : Loc) : Bool := (s.ex.flits.take i).all (fun g => decide (g.loc ≠ l))

/-- Flit `i` moves on between dies: from the interface queue onto a main ring; at its exit stop into the rim, its link port,
or the 128-flit queue to the target die; from there onto that die's rings.  An exit that cannot take it sends it round
again (R97, R98; assumption 89). -/
def mainExit (i : Nat) (blocked : Bool) (s : State) : State :=
  match s.ex.flits[i]? with
  | none => s
  | some f =>
    if blocked then s
    else match f.loc with
      | .iface d =>
        if !firstAt s i (.iface d) then s
        else match exitStop s f with
          | some b => setFlit s i (f.onMain (bridgeStop d) b)
          | none => s
      | .main _ _ =>
        if f.out then setFlit s i { f with loc := .rim }
        else if f.dstDev ≠ devIdx s then
          match flitPort s f with
          | some n => queuePkt (dropFlit s i) n 0 0 f.words
          | none => s
        else if 128 ≤ flitsAt s (.inbound f.dstDie) then s
        else setFlit s i { f with loc := .inbound f.dstDie }
      | .inbound d => if firstAt s i (.inbound d) then setFlit s i (f.enter s) else s
      | _ => s

def execMainRingExit (i : Nat) (blocked : Bool) (s : State) : Host.Outcome State Fault Refusal :=
  finish (mainExit i blocked s)

/-! ### Output flits (R103) -/

/-- One record at the rim stop: its bit of the entry of its cycle, and whether a value was there already. -/
def OEntry.take (e : OEntry) (r : Rec) : OEntry × Bool :=
  if e.got.getLsbD r.m then (e, true)
  else ({ e with bits := if r.res then e.bits ||| place 64 r.m 1 1 else e.bits, got := e.got ||| place 64 r.m 1 1 }, false)

/-- A record reaches its output queue; with it the first record of the flit that found its bit taken. -/
def outRecord (c : Nat) (x : State × Option Rec) (r : Rec) : State × Option Rec :=
  let l := outqOf x.1 r.a
  match l.find? (fun e => e.cyc == c) with
  | none => x
  | some e =>
    let (e', dbl) := e.take r
    (putOutq x.1 r.a (l.map (fun y => if y.cyc = c then e' else y)), if dbl then x.2 <|> some r else x.2)

/-- The rim stop takes output flit `i`; a second value for a bit is DOUBLE_DELIVERY of the sending tile, with OQ and OBIT
in place of BP and mailbox and detail bit 9 (R103, R183). -/
def outArrive (i : Nat) (s : State) : State :=
  match s.ex.flits[i]? with
  | none => s
  | some f =>
    if !f.out || decide (f.loc ≠ .rim) then s
    else
      let (s, dbl) := f.recs.foldl (outRecord f.cyc) (dropFlit s i, none)
      match dbl with
      | none => s
      | some r =>
        let st := (tileOf s f.srcTileNo).standing
        tileFault s f.srcTileNo 0x05 r.a st.1 st.2 f.cyc (place 32 0 8 r.m ||| place 32 9 1 1) 1

def execOutputFlitArrive (i : Nat) (s : State) : Host.Outcome State Fault Refusal := finish (outArrive i s)

/-! ### Cycle-close tokens (R94, R109) -/

/-- The other devices that the run spans (R180, R302). -/
def peers (s : State) : List Nat := (List.range 16).filter (fun d => s.img.devMask.testBit d && decide (d ≠ devIdx s))

/-- A token BEGUN(c) for device d. -/
def tokenWord (s : State) (d c : Nat) : Word :=
  place 64 62 2 2 ||| place 64 58 4 d ||| place 64 48 4 (devIdx s) ||| place 64 0 48 c

/-- Is a flit of cycle c or earlier for device d still on its way to the port? -/
def flitsFor (s : State) (d c : Nat) : Bool :=
  let f := fun x : Flit => !x.out && decide (x.dstDev = d ∧ x.srcDev = devIdx s ∧ x.cyc ≤ c)
  s.ex.flits.any f || (runTiles s).any (fun p =>
    (tileOf s p).released.any f ||
    (tileOf s p).windows.any (fun w => match w.tgt with
      | .tile dev _ _ => decide (dev = d ∧ w.cyc ≤ c)
      | .outQueue => false))

/-- The device sends the next token to device `dev`: every tile that has not stopped has begun that cycle (R44), and every flit of the cycle before
has entered the port. -/
def sendBegun (dev : Nat) (s : State) : State :=
  let c := Tbl.get 0 s.ex.sentBegun dev
  if s.run.active && (peers s).contains dev && (slipTiles s).all (fun p => decide (c ≤ (tileOf s p).cycle)) &&
      (decide (c = 0) || !flitsFor s dev (c - 1)) then
    let s := (linkPorts s dev).foldl (fun s n => queuePkt s n 0 0 [tokenWord s dev c]) s
    { s with ex := { s.ex with sentBegun := Tbl.set 0 s.ex.sentBegun dev (c + 1) } }
  else s

def execBegunTokenSend (dev : Nat) (s : State) : Host.Outcome State Fault Refusal := finish (sendBegun dev s)

end Sys2Proof.Machine
end

