-- ==== Sys2Proof/Machine/CloseRun.lean ====
section
/-!
DEFINITION. Cycle close and the gates of a run (02): close steps C2 to C8, the input record, the stall limit, the forced
stop after a fault, and the pace gate.
-/
namespace Sys2Proof.Machine

/-! ### C2 (R38, R251) -/

/-- Has the tile completed C2 of cycle c, or more? -/
def Tile.pastC2 (t : Tile) (c : Nat) : Bool :=
  decide (c < t.cycle) ||
    (decide (t.cycle = c) && (match t.phase with | .close k => decide (2 < k) | .stopped => true | _ => false))

/-- Is tile `p` the last of the device to complete C2 of cycle c? -/
def lastAtC2 (s : State) (p c : Nat) : Bool := (runTiles s).all (fun p' => p' == p || (tileOf s p').pastC2 c)

/-- The enabled output queues. -/
def enabledOut (s : State) : List Nat := (List.range 64).filter (fun q => s.img.outQ.getLsbD q)

/-- C2 still waits: a heavy unit has not accepted an issue of the cycle, or the last tile finds no place for the entry of
a queue that received no SEND. -/
def c2Blocked (s : State) (p : Nat) : Bool :=
  let t := tileOf s p
  t.un.issues.any (fun i => decide (4 ≤ i.unit)) ||
    (lastAtC2 s p t.cycle && (enabledOut s).any (outBlocked s t.cycle))

/-- The tile moves to its next close step to complete; a STALL packet records a long wait with its cause. -/
def nextClose (s : State) (p cause close k : Nat) : State :=
  let s := traceStall s p cause close true 0
  putTile s p { tileOf s p with phase := .close k, since := s.tb, wait := none }

def closeC2 (p : Nat) (s : State) : State :=
  let t := tileOf s p
  if !onClock s p || decide (t.phase ≠ .close 2) || fenced s p || c2Blocked s p then s
  else
    let s := if lastAtC2 s p t.cycle then takeOutPlaces s t.cycle (enabledOut s) else s
    nextClose s p 6 2 3

def execCloseC2 (p : Nat) (s : State) : Host.Outcome State Fault Refusal := finish (closeC2 p s)

/-! ### C3 and C4 (R36, R102, R110, R125, R34, R100) -/

/-- Does a flit of a cycle up to c that a stop has still to take count for R102? -/
def flitHolds (s : State) (c : Nat) (f : Flit) : Bool :=
  decide (f.cyc ≤ c) && (decide (f.srcDev ≠ devIdx s) || (slipTiles s).contains f.srcTileNo)

/-- Some flit of cycle c or earlier is undelivered. -/
def undelivered (s : State) (c : Nat) : Bool :=
  s.ex.flits.any (flitHolds s c) ||
    (slipTiles s).any (fun p =>
      (tileOf s p).released.any (fun f => decide (f.cyc ≤ c)) || (tileOf s p).windows.any (fun w => decide (w.cyc ≤ c)))

/-- A return of cycle c or earlier of the tile is on its way, or waits at a bank (R125). -/
def returnsOpen (s : State) (p c : Nat) : Bool :=
  let t := tileOf s p
  t.un.returns.any (fun r => decide (r.cyc ≤ c)) || t.un.issues.any (fun i => decide (i.unit < 4 ∧ i.cyc ≤ c))

/-- Has device d begun cycle c: BEGUN(c) has arrived on every port of its link map, and every flit that came from d before
these tokens is delivered (R110)? -/
def peerBegan (s : State) (d c : Nat) : Bool :=
  (linkPorts s d).all (fun n => decide (c + 1 ≤ Tbl.get 0 s.ex.peerBegun (32 * d + n))) &&
    !s.ex.flits.any (fun f => decide (f.srcDev = d) && (match f.tok with | some k => decide (k ≤ c) | none => false))

def c3Blocked (s : State) (p : Nat) : Bool :=
  let c := (tileOf s p).cycle
  (slipTiles s).any (fun p' => decide ((tileOf s p').cycle < c)) ||
    (decide (0 < c) && (undelivered s (c - 1) || returnsOpen s p (c - 1))) ||
    (peers s).any (fun d => !peerBegan s d c)

/-- C4 of cycle c: presence of buffer c mod 2 clears, the mailbox cycle advances, held deliveries move in. -/
def Tile.c4 (t : Tile) : Tile :=
  let base := t.cycle % 2 * 262144
  let keep := fun m : Tbl Bool => m.filter (fun e => !decide (base ≤ e.1 ∧ e.1 < base + 262144))
  let move := fun (m h : Tbl Bool) => Tbl.setAll false (keep m) (h.map (fun e => (base + e.1, e.2)))
  { t with
    mbxCycle := t.cycle + 1
    st := { t.st with
      mbxHere := move t.st.mbxHere t.st.holdHere, mbxVal := move t.st.mbxVal t.st.holdVal, holdHere := [], holdVal := [] } }

def closeC3 (p : Nat) (s : State) : State :=
  let t := tileOf s p
  if !onClock s p || decide (t.phase ≠ .close 3) || fenced s p || c3Blocked s p then s
  else
    let s := nextClose s p 7 3 5
    putTile s p (tileOf s p).c4

def execCloseC3 (p : Nat) (s : State) : Host.Outcome State Fault Refusal := finish (closeC3 p s)

/-! ### Checkpoint cycles (R424, R425) -/

/-- Is a checkpoint due at the boundary before cycle k? -/
def ckptDue (s : State) (k : Nat) : Bool :=
  let n := max 1024 (getReg s (ro pGlb 0x404)).toNat
  s.recov.active && (decide (s.recov.early = some k) || decide (s.run.first ≤ k ∧ (k - s.run.first) % n = 0))

/-- Bytes of the journals: 8 per record word (cycle, flags, entries), 16 per overwritten QWD (DEDUCED, assumption 24). -/
def journalBytes (s : State) : Nat :=
  (s.recov.journal.map (fun r => 16 + 8 * r.entries.length)).sum + 16 * s.recov.undo.length

/-- Bytes of two copies of a checkpoint (R422): DS of T tiles, B banks, Q queues. -/
def ckptBytes (s : State) : Nat :=
  2 * (81920 * (usedTiles s).length + 2097152 * ones 128 s.img.banks.toNat + 8192 * ones 128 s.img.qUsed.toNat)

/-- The journals' space: the checkpoint area without the copies. -/
def journalSpace (s : State) : Nat := regF s (ro pGlb 0x410) 0 20 * 2 ^ 20 - ckptBytes s

/-- The hub brings the next checkpoint to the next boundary that no tile has passed; the shadow of a tile beyond C7 is its DS,
which no step writes before that boundary (R423, R425, R439). -/
def bringForward (s : State) : State :=
  let k := maxBegun s + 1
  let s := (runTiles s).foldl (fun s p =>
    let t := tileOf s p
    if t.phase = .close 8 ∧ t.cycle + 1 = k then putTile s p { t with st := { t.st with ckShadow := t.st.ds } } else s) s
  { s with recov := { s.recov with early := some k } }

/-- At 75 % of the journals' space the next checkpoint is brought forward and logged, once (R425). -/
def journalCheck (s : State) : State :=
  if s.recov.active && decide (s.recov.early = none ∧ s.recov.next = none ∧ journalSpace s * 3 ≤ journalBytes s * 4) then
    let k := maxBegun s + 1
    logEvent (bump (bringForward s) (ro pGlb 0x428) 1) pGlb 0x006C (BitVec.ofNat 32 k)
  else s

/-- The journals are full: records and QWDs wait (R425). -/
def journalFull (s : State) : Bool := s.recov.active && decide (journalSpace s ≤ journalBytes s)

/-! ### The input record (R39, R40, R252, R254) -/

/-- The input queues that the image enables (R68). -/
def enabledIn (s : State) : List Nat := (List.range 64).filter (fun q => s.img.inQ.getLsbD q)

/-- Form the record of cycle k: an entry of every enabled queue, the trigger flags, whose sticky bits clear, and the
journal's copy; while re-executing, the journaled record (R39, R254, R324). -/
def formRecord (s : State) (k : Nat) : State :=
  match s.recov.replay with
  | r :: rest => { s with run := { s.run with record := some r }, recov := { s.recov with replay := rest } }
  | [] =>
    if (enabledIn s).any (fun q => (inqOf s q).isEmpty) || journalFull s then s
    else
      let es : Tbl Word := tblOf 0 ((enabledIn s).map (fun q => (q, (inqOf s q).headD 0)))
      let r : InRec := { cyc := k, flags := flagWord s, entries := es }
      let inq := (enabledIn s).foldl (fun m q => Tbl.upd [] m q (List.drop 1)) s.aq.inq
      journalCheck { s with
        aq := { s.aq with inq := inq }
        mkh := { s.mkh with sticky := 0 }
        run := { s.run with record := some r }
        recov := if s.recov.active then { s.recov with journal := s.recov.journal ++ [r] } else s.recov }

/-- Port slot p of BP n from a record (R67). -/
def portBit (st : Store) (r : InRec) (n p : Nat) : Bool :=
  let e := Tbl.get 0 st.ptab (n / 64 * 64 + p)
  let w : Word := match fld e 14 2 with
    | 0 => 0
    | 1 => Tbl.get 0 r.entries (fld e 8 6)
    | 2 => r.flags
    | _ => BitVec.ofNat 64 r.cyc
  w.getLsbD ((n % 64 + fld e 0 6) % 64)

/-- The port slots that C6 and C7 latch. -/
def latchPorts (st : Store) (r : InRec) : Tbl Bool := Tbl.ofFn false 65536 (fun k => portBit st r (k / 64) (k % 64))

/-- The record of cycle k, if it is formed. -/
def recordOf (s : State) (k : Nat) : Option InRec :=
  match s.run.record with
  | some r => if r.cyc = k then some r else none
  | none => none

/-- A CYCLE packet once every used tile of the die has begun cycle c (R448). -/
def traceCycle (s : State) (d c : Nat) : State :=
  if trcClass s 2 && paceOpen s c && ((runTiles s).filter (fun p => p / 17 == d)).all (fun p =>
      decide (c ≤ (tileOf s p).cycle ∧ (tileOf s p).phase ≠ .start)) then
    tracePkt s d c 0x03 0 []
  else s

/-- Tiles that wait for the record of the run's first cycle latch their ports and are ready for step 0 (R42); one whose port
table awaits a refetch waits on (R413). -/
def startLatch (s : State) : State :=
  match recordOf s s.run.first with
  | none => s
  | some r =>
    let go := (runTiles s).filter (fun p => decide ((tileOf s p).phase = .start) && (tileOf s p).seen.st.badPort.isNone)
    let s := go.foldl (fun s p =>
      let t := tileOf s p
      putTile s p { t with
        phase := .ready, since := s.tb, lent := [], st := { t.st with ports := latchPorts t.seen.st r } }) s
    ((go.map (· / 17)).eraseDups).foldl (fun s d => traceCycle s d s.run.first) s

/-- The cycle whose record is due: a tile waits at C5 for it, or at its start. -/
def recordDue (s : State) : Option Nat :=
  ((runTiles s).filterMap (fun p =>
    let t := tileOf s p
    match t.phase with
    | .close 5 => if (recordOf s (t.cycle + 1)).isNone then some (t.cycle + 1) else none
    | .start => if (recordOf s s.run.first).isNone then some s.run.first else none
    | _ => none)).head?

def inputRecord (s : State) : State :=
  if !s.run.active then s
  else match recordDue s with
    | none => startLatch s
    | some k => startLatch (formRecord s k)

def execInputRecordForm (s : State) : Host.Outcome State Fault Refusal := finish (inputRecord s)

/-! ### C5 to C7 (R38, R67, R423) -/

/-- Does a snapshot wait for C7 of cycle c? -/
def snapWants (s : State) (c : Nat) : Bool :=
  match s.trc.snap with
  | some j => j.wantArr && decide (j.gotArr = none ∧ j.cyc = some c)
  | none => false

/-- Has the tile done the work of C7 of cycle c? -/
def Tile.pastC7 (t : Tile) (c : Nat) : Bool :=
  decide (c < t.cycle) || (decide (t.cycle = c) && (match t.phase with | .close k => decide (5 < k) | .stopped => true | _ => false))

/-- The array part of a snapshot is captured once every tile has taken its shadow. -/
def snapTaken (s : State) (c : Nat) : State :=
  if snapWants s c && (runTiles s).all (fun p => (tileOf s p).pastC7 c) then
    { s with trc := { s.trc with arrShadow := true, snap := s.trc.snap.map (fun j => { j with gotArr := some c }) } }
  else s

def closeC5 (p : Nat) (s : State) : State :=
  let t := tileOf s p
  if !onClock s p || decide (t.phase ≠ .close 5) || fenced s p then s
  else match recordOf s (t.cycle + 1) with
    | none => s
    | some r =>
      if t.seen.st.badPort.isSome then s else
      let s := nextClose s p 8 5 8
      let t := tileOf s p
      let st := { t.st with ports := latchPorts t.seen.st r }
      let st := if snapWants s t.cycle then { st with shadow := st.ds, cntShadow := t.un.cnt } else st
      let st := if ckptDue s (t.cycle + 1) then { st with ckShadow := st.ds } else st
      snapTaken (putTile s p { t with st := st, lent := [] }) t.cycle

def execCloseC5 (p : Nat) (s : State) : Host.Outcome State Fault Refusal := finish (closeC5 p s)

/-! ### C8 (R38, R41, R43, R47, R196, R424) -/

/-- Has the checkpoint of cycle k been captured? -/
def ckptTaken (s : State) (k : Nat) : Bool :=
  (match s.recov.next with | some c => decide (c.cyc = k) | none => false) ||
    (match s.recov.last with | some c => decide (c.cyc = k) | none => false)

/-- What keeps C8 of cycle c waiting, as a stall cause: a hold gate, the grant, the pace; 0xF is the wait for hub staging, which
no STALL packet records (R449, R452). -/
def c8Gate (s : State) (c : Nat) : Option Nat :=
  if !s.run.holds.isEmpty then some 0xA
  else if trcHolds s 4 then some 0xF
  else if ckptDue s (c + 1) && !ckptTaken s (c + 1) then some 0xA
  else if cycleLimit ≤ c + 1 then some 0xA
  else if runMode s = 1 ∧ s.run.grant < c + 1 then some 0xB
  else if !paceOpen s (c + 1) then some 0xC
  else none

/-- The bank changes owner at this C8: it is pending, its handover point is the tile's C8 (R196). -/
def dueAt (s : State) (l b : Nat) : Bool :=
  bankPending s b && decide ((bankOf s b).due = none) &&
    (let o := bankOwner s b
     if o < 64 ∧ (usedTiles s).contains o then o == l else bankPendOwner s b == l)

/-- Pending changes of banks of the die get their handover cycle; a region under test there is given back first. -/
def dueBanks (s : State) (l c : Nat) : State :=
  (List.range 32).foldl (fun s i =>
    let d := l / 16
    let b := 32 * d + i
    if !dueAt s l b then s
    else
      testOff (putBank s b { bankOf s b with due := some c }) b) s

/-- The tile stops at this boundary: a fault elsewhere, or the run's last cycle (R43, R44). -/
def stopsHere (s : State) (c : Nat) : Bool :=
  s.run.faultStop || (match s.run.stopAt with | some k => decide (k ≤ c) | none => false)

/-- Do all tiles of the run wait at C8 of cycle k, or are they beyond it? -/
def reachedGate (s : State) (k : Nat) : Bool :=
  (runTiles s).all (fun p =>
    let t := tileOf s p
    decide (k < t.cycle) || decide (t.cycle = k ∧ (t.phase = .close 8 ∨ t.phase = .stopped)))

/-- GRANT jobs of a stepped run finish once the run has executed the cycle that they granted (R360). -/
def grantsDone (s : State) : State :=
  modJobs s (fun j => decide (j.exec = 0x0A ∧ j.op = 2 ∧ j.phase = .running) && reachedGate s j.result.toNat)
    (fun j => j.finish 0 j.result 0)

/-- What the partners say of the run's end: it stops at their boundary, or under R44 (R43, R44; assumption 95). -/
def peerStops (s : State) : Option PeerStop → State
  | none => s
  | some (.boundary cause last) => if (peers s).isEmpty then s else stopRun s cause last
  | some .fault => if (peers s).isEmpty then s else checkRunEnd (signalFault s)

/-- Tiles that wait at a gate of C8 take note of it, before the gate opens (R449). -/
def noteGate (s : State) : State :=
  (runTiles s).foldl (fun s p =>
    let t := tileOf s p
    if t.phase = .close 8 ∧ t.wait = none then putTile s p { t with wait := (c8Gate s t.cycle).map (·, 0) } else s) s

/-- The gate that the tile has waited at: a STALL packet names it, but not hub staging (R449). -/
def gateStall (s : State) (p : Nat) : State :=
  match (tileOf s p).wait with
  | some (g, _) => if g = 0xF then s else traceStall s p g 8 true 0
  | none => s

/-- A hold gate that closes for the hub's trace staging is one wait, which HELD_CNT counts (R452). -/
def countHold (s : State) (g : Nat) : State :=
  if g ≠ 0xF then { s with trc := { s.trc with held := false } }
  else if s.trc.held then s
  else bump { s with trc := { s.trc with held := true } } (ro pTrc 0x0A8) 1

def closeC8 (p : Nat) (s : State) : State :=
  let t := tileOf s p
  let c := t.cycle
  if !onClock s p || decide (t.phase ≠ .close 8) || fenced s p then s
  else if stopsHere s c && !rollsBack s then
    let s := putTile s p { t with phase := .stopped, wait := none }
    checkRunEnd (dueBanks s (logicalNo s p) (c + 1))
  else
    let s := grantsDone s
    match c8Gate s c with
    | some g => countHold (putTile s p { t with wait := some (g, 0) }) g
    | none =>
      let s := putTile (countHold (gateStall s p) 0) p { t with
        phase := .ready, cycle := c + 1, step := 0, since := s.tb, wait := none, st := { t.st with written := [] } }
      traceCycle (dueBanks s (logicalNo s p) (c + 1)) (p / 17) (c + 1)

def execCloseC8 (p : Nat) (peer : Option PeerStop) (s : State) : Host.Outcome State Fault Refusal :=
  finish (closeC8 p (peerStops s peer))

/-- The cycle number has reached its last value: event CYCLE_LIMIT, and the run stops with that cycle (R43). -/
def cycleLimitHit (s : State) : State :=
  if s.run.active && decide (maxBegun s + 1 = cycleLimit ∧ s.run.cause ≠ some 6) then
    logEvent (stopRun s 6 (cycleLimit - 1)) pGlb 0x0002 0
  else s

def execCycleLimitStop (s : State) : Host.Outcome State Fault Refusal := finish (cycleLimitHit s)

/-! ### The stall limit and the forced stop (R44, R45) -/

/-- What a tile waits for that counts toward the stall limit: the cause and, for a mailbox, its DS address (R45, R184).  The
hold of a rollback does not count (R426), nor does time in IDLE or DOZE (R493). -/
def countedWait (s : State) (p : Nat) : Option (Nat × Nat) :=
  if rollsBack s || decide (s.pwr.state ≠ 0) then none else
  match (tileOf s p).phase with
  | .waiting => stepBlock s p
  | .close 2 => if c2Blocked s p then some (6, 0) else none
  | .close 3 => if c3Blocked s p then some (7, 0) else none
  | .close 5 => if (recordOf s ((tileOf s p).cycle + 1)).isNone then some (8, 0) else none
  | _ => none

def stallLimitHit (p : Nat) (s : State) : State :=
  if !inRun s p || fenced s p then s
  else match countedWait s p with
    | none => s
    | some (cause, a) =>
      let t := tileOf s p
      let st := t.standing
      tileFault s p 0x06 0 st.1 st.2 t.cycle (place 32 0 4 cause ||| place 32 4 10 (if cause = 0 then a else 0)) 1

def execStallLimit (p : Nat) (s : State) : Host.Outcome State Fault Refusal := finish (stallLimitHit p s)

/-- 40 µs after the stop was signalled, a tile that has not reached a boundary stops where it stands (R44, R361). -/
def faultTimeout (p : Nat) (s : State) : State :=
  let due := s.run.faultStop ||
    (match s.run.cause with | some c => decide (c = 4 ∨ c = 5 ∨ c = 7 ∨ c = 8) | none => false)
  if inRun s p && due && !(tileOf s p).halted then
    let s := { s with run := { s.run with partialStop := true } }
    checkRunEnd (putTile s p { tileOf s p with phase := .faulted })
  else s

def execFaultStopTimeout (p : Nat) (s : State) : Host.Outcome State Fault Refusal := finish (faultTimeout p s)

/-! ### Paced mode (R47) -/

/-- A pace tick in a paced run, which may open the gate of the first cycle; with PACE_TICK_EN the rim's next edge of PACE_CLK shows it (R247). -/
def paceTick (s : State) : State :=
  if pacedRun s then
    let s := noteGate s
    let s := { s with
      run := { s.run with ticks := s.run.ticks + 1, swapped := false }
      rim := { s.rim with paceDue := s.rim.paceDue || (regBit s (ro pRim 0x0A0) 1 && rimRuns s) } }
    if s.run.ticks = s.run.first + 1 then (usedDies s).foldl (fun s d => traceCycle s d s.run.first) s else s
  else s

def execPaceTick (s : State) : Host.Outcome State Fault Refusal := finish (paceTick s)

/-- The cycle whose deadline, tick k + 1 + S, has passed: the first one not reported yet. -/
def missedCycle (s : State) : Option Nat :=
  let k := match s.run.missed with | some m => m + 1 | none => s.run.first
  let due := k + 1 + regF s (ro pGlb 0x120) 2 6
  if due < s.run.ticks then some k else none

/-- PACE_MISS: the first unreported cycle that has not reached its gate by its deadline; MISS_ACT counts, or stops the run.
DESIGN CHOICE (assumption 114): MISSES counts only what MISS_ACT COUNT counts, not the miss that stops a run (R55). -/
def paceMissHit (s : State) : State :=
  if !pacedRun s then s
  else
    let s := if (match s.run.missed with | some m => decide (curCycle s ≤ m + 1) | none => decide (curCycle s ≤ s.run.first))
      then s else { s with run := { s.run with missed := some (curCycle s - 1) } }
    match missedCycle s with
    | none => s
    | some k =>
      if reachedGate s k then s
      else
        let s := logEvent { s with run := { s.run with missed := some k } } pGlb 0x0003 (BitVec.ofNat 32 k)
        if regBit s (ro pGlb 0x120) 8 then bump s (ro pGlb 0x128) 1 else stopEach s 7

def execPaceMiss (s : State) : Host.Outcome State Fault Refusal := finish (paceMissHit s)

end Sys2Proof.Machine
end

