-- ==== Sys2Proof/Machine/Admission.lean ====
section
/-!
DEFINITION. Admission (R49 to R52, R231, R337, R454, R519): the paced part, the acquisition part, the trace part and the
DRAM reservations, in exact rational arithmetic; times in ns, rates in bytes per ns (GB/s) and samples per ns.
-/
namespace Sys2Proof.Machine

/-! ### Links -/

/-- Is the port UP? -/
def portUp (s : State) (n : Nat) : Bool := decide ((portOf s n).state = 8)

/-- T_ONEWAY of a port: the largest of its last 16 results (R292). -/
def tOneway (s : State) (n : Nat) : Nat :=
  match (portOf s n).lats with
  | [] => 0xFFFFFFFF
  | l => l.foldl max 0

/-- The ports in the link maps. -/
def mapPorts (s : State) : List Nat :=
  (List.range 16).filter (fun n => (List.range 16).any (fun d => regBit s (ro pGlb (0x340 + 4 * d)) n))

/-- T_LINK in ns, rounded up; all ones while a port in the link maps is not up or not measured (R117). -/
def tLink (s : State) : Nat :=
  let ps := mapPorts s
  if ps.isEmpty || ps.any (fun n => !portUp s n || decide (tOneway s n = 0xFFFFFFFF)) then 0xFFFFFFFF
  else (ps.map (fun n => (tOneway s n + 255) / 256)).foldl max 0

/-! ### Clocks -/

/-- CLK_CEIL of a die in MHz; the stepping's highest clock bounds it (R157). -/
def clkCeil (s : State) (d : Nat) : Nat := min (regF s (ro pPwr (0x0B0 + 4 * d)) 0 11) (maxClk s)

/-- The links that the image uses: the ports of the link maps of the run's other devices (R52, R107). -/
def usedPorts (s : State) : List Nat :=
  (List.range 16).filter (fun n => (peers s).any (fun d => regBit s (ro pGlb (0x340 + 4 * d)) n))

/-- T_link of R49 in ns, rounded up: the largest one-way latency measured on a link the image uses; a link that is not up
or not measured is a matter of LINK_LAT (R52). -/
def linkTime (s : State) : Nat :=
  (((usedPorts s).filter (fun n => portUp s n && decide (tOneway s n ≠ 0xFFFFFFFF))).map
    (fun n => (tOneway s n + 255) / 256)).foldl max 0

/-- The highest ceiling of the run's dies, in MHz. -/
def topClk (s : State) : Nat := ((usedDies s).map (clkCeil s)).foldl max 0

/-- The admitted clock of die `d` of device `dev`: its ceiling, for another device the one its RUNINFO reports (R25). -/
def admittedClk (s : State) (dev d : Nat) : Nat :=
  if dev = devIdx s then clkCeil s d
  else match (linkPorts s dev).head? with
    | none => 0
    | some n => fld ((portOf s n).runInfo.getD 4 0) (16 * d) 11

/-- Has die `d` of device `dev` the identity tile map (R177)? -/
def identityMap (s : State) (dev d : Nat) : Bool :=
  (List.range 16).all (fun t =>
    if dev = devIdx s then regF s (mapReg (16 * d + t)) 0 5 == t
    else (Tbl.get (t, 0) s.ex.peerMap (dev * 64 + d * 16 + t)).1 == t)

/-! ### The paced part (R49 to R51, R177) -/

/-- w of a record of tile `l`. -/
def waitTime (s : State) (l : Nat) (r : WaitRec) : Rat :=
  let dies := (List.range 64).filter (fun i => r.dies.getLsbD i || i == 4 * devIdx s + l / 16)
  let ident := dies.all (fun i => identityMap s (i / 4) (i % 4))
  let f := (dies.map (fun i => admittedClk s (i / 4) (i % 4))).foldl min 2047
  let nx := r.nOther + r.nDev
  let h := if ident then r.sumH else 9 * r.nSame
  let hsd := if ident then r.sumHsd else 18 * nx
  let per := match s.hw.stepping with
    | .a0 => 6 * r.nTmem + 3 * r.nCnt + 6 * (r.nSame + nx) + h + r.sumF + hsd + r.sumFsd + r.xsteps
    | .b0 => 8 * r.nTmem + 4 * r.nCnt + 8 * (r.nSame + nx) + 2 * (h + hsd) + r.sumF + r.sumFsd + r.xsteps
  let other : Nat := match s.hw.stepping with | .a0 => 64 | .b0 => 72
  ((s.img.len + 8 + per : Nat) : Rat) * 1000 / (f : Rat) +
    ((3200 * r.nQport + other * nx + (40 + linkTime s) * r.nDev : Nat) : Rat)

/-- W, or none where a used tile declares no profile or a clock it needs is not known (R178). -/
def worstCase (s : State) : Option Rat :=
  let known := (usedTiles s).all (fun l =>
    let rs := Tbl.get [] s.img.waitProf l
    !rs.isEmpty && rs.all (fun r => (List.range 64).all (fun i =>
      !r.dies.getLsbD i || decide (admittedClk s (i / 4) (i % 4) ≠ 0))))
  if !known then none
  else
    let w := (usedTiles s).foldl (fun m l =>
      (Tbl.get [] s.img.waitProf l).foldl (fun m r => max m (waitTime s l r)) m) (0 : Rat)
    some (w + (if 1 < (usedDies s).length ∨ !(peers s).isEmpty then 8 else 0) +
      (if (peers s).isEmpty then 0 else ((linkTime s + 40 : Nat) : Rat)))

/-- The covered margin M in ns (R50). -/
def margin (s : State) : Nat :=
  let c := getReg s (ro pGlb 0x140)
  (if c.getLsbD 0 then 2000 else 0) + (if c.getLsbD 1 ∧ !(peers s).isEmpty then 2 * linkTime s + 100 else 0) +
    (if c.getLsbD 2 then 10000 else 0)

/-- The pace period P in ns. -/
def pacePeriod (s : State) : Nat := max 16 (getReg s (ro pGlb 0x124)).toNat

/-- Peak tokens D that die `d` declares (R146). -/
def declaredPeak (s : State) (d : Nat) : Nat := fld s.img.peakTok (8 * d) 8

def tokBud (s : State) (d : Nat) : Nat := regF s (ro pPwr (0x090 + 4 * d)) 0 8

/-- A link that the image uses is not up or not measured, or T_link is too large (R52). -/
def linkBad (s : State) : Bool :=
  !(peers s).isEmpty &&
    ((peers s).any (fun d => (linkPorts s d).isEmpty ||
        (linkPorts s d).any (fun n => !portUp s n || decide (tOneway s n = 0xFFFFFFFF))) ||
      decide ((getReg s (ro pGlb 0x380)).toNat < linkTime s))

/-- A partner's own figures fail the admission of a paced run over several devices: its index and reason (R25).  The spec
names no message that carries them: the command brings them (assumption 90). -/
def peerFails (s : State) (peer : Option PeerVerdict) : Option (Nat × Nat) :=
  match peer with
  | some (.admission dev reason) => if (peers s).contains dev ∧ reason % 8 ≠ 0 then some (dev, reason % 8) else none
  | _ => none

/-- The paced part: its reason (0 passes), W in ps for ADM_WC, the recovery spacing. -/
def pacedPart (s : State) : Nat × Nat × Nat :=
  match worstCase s with
  | none => (1, 0xFFFFFFFF, 0)
  | some w =>
    let p : Rat := (pacePeriod s : Rat)
    let m : Rat := (margin s : Rat)
    let ps := min 0xFFFFFFFF (w * 1000).ceil.toNat
    let slack : Rat := ((1 + regF s (ro pGlb 0x120) 2 6 : Nat) : Rat)
    if p < w ∨ (0 < m ∧ p ≤ w) ∨ p * slack < w + m then (1, ps, 0)
    else
      let sp := if m = 0 then 0 else min 0xFFFF (m / (p - w)).ceil.toNat
      if (List.range 4).any (fun d => decide (tokBud s d < declaredPeak s d)) then (6, ps, sp)
      else if linkBad s then (5, ps, sp)
      else (0, ps, sp)

/-! ### The acquisition part (R301, R337) -/

/-- Register `o` of Markhor channel `c` (R342). -/
def chReg (c o : Nat) : Nat := ro pAcq (0x400 + 0x40 * c + o)

def chEn (s : State) (c : Nat) : Bool := regBit s (chReg c 0) 0
def chPre (s : State) (c : Nat) : Nat := regF s (chReg c 0x08) 0 24
def chPost (s : State) (c : Nat) : Nat := regF s (chReg c 0x0C) 0 25
def chRed (s : State) (c : Nat) : Nat := regF s (chReg c 0) 12 2
def chK (s : State) (c : Nat) : Nat := regF s (chReg c 0x14) 16 16 + 1
def chPort (s : State) (c : Nat) : Nat := 16 + regF s (chReg c 0) 1 3
def enabledChans (s : State) : List Nat := (List.range 33).filter (chEn s)

/-- The slots that PROBE_SEL names, in ascending order (R318). -/
def probeSlots (s : State) : List Nat :=
  (List.range 64).filter (fun i => (reg64 s (chReg 32 0x10) (chReg 32 0x14)).testBit i)

/-- Ring bytes per sample. -/
def chBeta (s : State) (c : Nat) : Nat := if c = 32 then 8 * (probeSlots s).length else 2

/-- Bytes of a record (R337). -/
def recordBytes (s : State) (c : Nat) : Nat :=
  let n := chPre s c + chPost s c
  let red := chRed s c
  64 + (if red ≠ 1 then n * chBeta s c else 0) +
    (if red ≠ 0 then 64 * ((4 * ((n + chK s c - 1) / chK s c) + 63) / 64) else 0)

/-- Sample rate f_c in samples per ns. -/
def chRate (s : State) (c : Nat) : Rat :=
  if c = 32 then (topClk s : Rat) / 1000 / ((s.img.len + 8 : Nat) : Rat)
  else (2 ^ 24 : Rat) / ((getReg s (chReg c 0x04)).toNat : Rat)

/-- Lanes of the WIDTH class of the stream's packets (R299, R301); before any packet those of the class that the sample rate falls
in, 0 where no class carries it: DESIGN CHOICE (assumption 123). -/
def chLanes (s : State) (c : Nat) : Nat :=
  let f := chRate s c
  match (mchanOf s c).cls with
  | some k => 2 ^ k
  | none => if f * 16 ≤ 100 then 1 else if f * 16 ≤ 200 then 2 else if f * 16 ≤ 400 then 4 else 0

/-- The DRAM peak in GB/s (R210). -/
def dramPeak (s : State) : Rat := if s.dram.lpddr then 273 else 4096 / 10

/-- A reservation of RESV in percent: 0 ACQ, 1 TRACE, 2 CKPT, within its limit (R230, R236). -/
def resvOf (s : State) (k : Nat) : Nat := regF s (ro (pDdr 8) 0x080) (8 * k) 8

/-- a_c in GB/s (R337). -/
def chDemand (s : State) (c : Nat) : Rat :=
  let f := chRate s c
  let post : Rat := (chPost s c : Rat) / f
  let rearm : Rat := max 100 ((chPre s c : Rat) / f)
  (recordBytes s c : Rat) / max (post + rearm) ((getReg s (chReg c 0x18)).toNat : Rat)

/-- Σa in GB/s. -/
def totalDemand (s : State) : Rat := ((enabledChans s).map (chDemand s)).sum

/-- Active receive lanes of a port. -/
def rxLanes (s : State) (n : Nat) : Nat := ones 4 (portOf s n).rxAct.toNat

/-- Does a set-up of the enabled channels fail R337? -/
def acqFails (s : State) : Bool :=
  let cs := enabledChans s
  let sum := totalDemand s
  let d : Rat := 97 / 100 * (resvOf s 0 : Rat) / 100 * dramPeak s
  let stream := cs.filter (fun c => decide (c ≠ 32))
  stream.any (fun c => decide ((getReg s (chReg c 0x04)).toNat = 0 ∨ chLanes s c = 0 ∨
      100 * (chLanes s c : Rat) < chRate s c * 16)) ||
    (List.range 8).any (fun k =>
      let on := stream.filter (fun c => chPort s c == 16 + k)
      decide (rxLanes s (16 + k) < (on.map (chLanes s)).sum)) ||
    decide (d < sum) ||
    cs.any (fun c =>
      let n : Rat := ((chPre s c + chPost s c : Nat) : Rat)
      let b : Rat := (chBeta s c : Rat)
      let f := chRate s c
      let a := chDemand s c
      let dc := d * a / sum
      let dc' := dc * n * b / ((recordBytes s c - 64 : Nat) : Rat)
      let fill := (chPre s c : Rat) * b + max 0 (b * f - dc') * (chPost s c : Rat) / f + b * f * 4000
      decide (((regF s (chReg c 0x1C) 8 6 * 2097152 : Nat) : Rat) < fill)) ||
    (List.range 4).any (fun die =>
      let on := cs.filter (fun c => regF s (chReg c 0x1C) 0 7 / 32 == die)
      decide (97 / 100 * (resvOf s 0 : Rat) / 100 * 256 < (on.map (fun c => (chBeta s c : Rat) * chRate s c)).sum))

/-- A rate in MB/s for a register, rounded down and saturating. -/
def mbps (x : Rat) : Reg := BitVec.ofNat 32 (min 0xFFFFFFFF (x * 1000).floor.toNat)

/-- ACQ_DEMAND and every CH_DEMAND of this admission. -/
def acqReport (s : State) : State :=
  (enabledChans s).foldl (fun x c => setReg x (chReg c 0x34) (mbps (chDemand s c)))
    (setReg s (ro pAcq 0x0C8) (mbps (totalDemand s)))

/-! ### The trace part (R454) -/

/-- G in GB/s. -/
def traceRate (s : State) : Rat :=
  let cls := fun b => regBit s trcCtl b
  let r : Rat := (topClk s : Rat) / 1000 / ((s.img.len + 8 : Nat) : Rat)
  let nSel := ((List.range 64).filter (fun i => regBit s (ro pTrc (0x200 + 4 * i)) 31)).length
  let nDie := if cls 2 then (usedDies s).length else 0
  let nPt := if cls 5 then s.img.nTracept else 0
  let nHv := if cls 4 then
      ((List.range 9).map (fun u => if cls (16 + u) then Tbl.get 0 s.img.nHeavy u else 0)).sum
    else 0
  let nSt := if cls 3 then (usedTiles s).length else 0
  let stallMin := max 16 (regF s (ro pTrc 0x0A0) 0 16)
  4 / 3 * (101 / 100) * (r * ((16 * nSel + 8 * nDie + 8 * nPt + 8 * nHv : Nat) : Rat) +
    ((16 * nSt : Nat) : Rat) * ((topClk s : Rat) / 1000) / (stallMin : Rat)) + 1 / 2

def traceFails (s : State) : Bool := decide (97 / 100 * (resvOf s 1 : Rat) / 100 * dramPeak s < traceRate s)

/-! ### The whole check (R52, R56, R519) -/

/-- ACQ + TRACE + CKPT exceed 80 % (R231). -/
def resvBad (s : State) : Bool := decide (80 < resvOf s 0 + resvOf s 1 + resvOf s 2)

/-- Run the parts asked for, in order; the first refusal is reported.  The answer is the reason; ADM_STAT, ADM_WC and the
demand registers report.  DESIGN CHOICE (assumption 132): a partner's verdict comes after the device's own paced part and before
the acquisition part. -/
def runAdmission (s : State) (paced acq trace : Bool) (peer : Option PeerVerdict) : State × Nat :=
  let img := s.cfg.resValid
  let s := if acq then acqReport s else s
  let s := if trace && img then setReg s (ro pTrc 0x0B0) (mbps (traceRate s)) else s
  let pp := if paced && img then pacedPart s else (0, 0, 0)
  let s := if paced && img then setReg s (ro pGlb 0x148) (BitVec.ofNat 32 pp.2.1) else s
  let other := if paced && img then peerFails s peer else none
  let reason :=
    if paced && !img then 7
    else if pp.1 ≠ 0 then pp.1
    else if other.isSome then (other.getD (0, 0)).2
    else if acq && (chEn s 32 && !img) then 7
    else if acq && acqFails s then 2
    else if trace && !img then 7
    else if trace && traceFails s then 3
    else if (paced || acq || trace) && resvBad s then 4
    else 0
  let ok := decide (reason = 0)
  (setReg s (ro pGlb 0x144) (place 32 0 1 1 ||| place 32 1 1 ok.toNat ||| place 32 4 4 reason |||
    place 32 8 4 (if ok then 0 else if pp.1 = 0 then (other.getD (devIdx s, 0)).1 else devIdx s) ||| place 32 16 16 (if ok then pp.2.2 else 0)), reason)

/-- Is trace enabled without STALL_ON_FULL? -/
def looseTrace (s : State) : Bool := regBit s trcCtl 0 && !regBit s trcCtl 1

/-- A write of ADM_CTL: its coverage bits, then the check if CHECK is 1. -/
def admWrite (v : Reg) (peer : Option PeerVerdict) (s : State) : State :=
  let s := writeRW s (ro pGlb 0x140) v
  if v.getLsbD 3 then (runAdmission s (decide (runMode s = 2)) (!(enabledChans s).isEmpty) (looseTrace s) peer).1 else s

def execAdmCheck (v : Reg) (peer : Option PeerVerdict) (s : State) : Host.Outcome State Fault Refusal :=
  finish (admWrite v peer s)

end Sys2Proof.Machine
end

