-- ==== Sys2Proof/Machine/Governor.lean ====
section
/-!
DEFINITION. The governor (05): the power cap, the token budgets and STEPCLK (R48, R148 to R158, R495).
-/
namespace Sys2Proof.Machine

def capReg : Nat := ro pPwr 0x080
def govStat : Nat := ro pPwr 0x084
def budReg (d : Nat) : Nat := ro pPwr (0x090 + 4 * d)
def effReg (d : Nat) : Nat := ro pPwr (0x0A0 + 4 * d)
def ceilReg (d : Nat) : Nat := ro pPwr (0x0B0 + 4 * d)
def clkReg (d : Nat) : Nat := ro pPwr (0x0C0 + 4 * d)

/-- The cap in force in W: min(PWR_CAP, THERM_CAP) while the device is hot (R495). -/
def capEff (s : State) : Nat :=
  let c := regF s capReg 0 10
  if s.pwr.hot then min c (max 120 (min 540 (regF s (ro pPwr 0x144) 0 10))) else c

/-- What the governor holds core power to, in units of 0.125 W: the cap in force, and below 531 W in any case (R506). -/
def powerLimit (s : State) : Nat := min (8 * capEff s) 4247

def tokEff (s : State) (d : Nat) : Nat := regF s (effReg d) 0 8

/-- Does the governor throttle: a free-running or stepped run is active (R149)? -/
def govRun (s : State) : Bool := s.run.active && decide (runMode s ≠ 2)

/-- Power over 1 ms, in units of 0.125 W, goes to PWR_NOW. -/
def powerMeasure (avg : Nat) (s : State) : State := setReg s (ro pPwr 0x088) (BitVec.ofNat 32 (min 0xFFFF avg))

def execPowerMeasure (avg1ms : Nat) (s : State) : Host.Outcome State Fault Refusal := finish (powerMeasure avg1ms s)

/-- B of a die after 10 µs at an average power (0.125 W): three quarters above the cap, 4 more below 95 % of it.  DESIGN
CHOICE (assumption 92): the floor of 4 stands also where TOK_BUD is below 4, so B is then above TOK_BUD. -/
def nextBudget (s : State) (avg d : Nat) : Nat :=
  let b := tokEff s d
  if powerLimit s < avg then max 4 (3 * b / 4)
  else if 100 * avg < 95 * powerLimit s then (if b < tokBud s d then min (tokBud s d) (b + 4) else b)
  else b

/-- A die's budget for its next period, with what R149 remembers of the present 100 µs. -/
def setBudget (s : State) (d b : Nat) : State :=
  let x := dieOf s d
  let s := setReg s (effReg d) (BitVec.ofNat 32 b)
  putDie s d { x with below := x.below && decide (b < tokBud s d), atBudget := x.atBudget && decide (b = tokBud s d) }

def budgetAdjust (avg : Nat) (s : State) : State :=
  if !govRun s then s else (usedDies s).foldl (fun s' d => setBudget s' d (nextBudget s avg d)) s

def execBudgetAdjust (avg10us : Nat) (s : State) : Host.Outcome State Fault Refusal := finish (budgetAdjust avg10us s)

/-- The STEPCLK a die runs at, or is being retuned to. -/
def clkGoal (s : State) (d : Nat) : Nat := (dieOf s d).pllTarget.getD (stepClk s d)

/-- The STEPCLK that the governor wants after 100 µs (R149). -/
def nextClk (s : State) (avg d : Nat) : Nat :=
  let f := clkGoal s d
  if (dieOf s d).below then max 400 (f - 25)
  else if (dieOf s d).atBudget ∧ 100 * avg < 90 * powerLimit s then (if f < clkCeil s d then min (clkCeil s d) (f + 25) else f)
  else f

/-- The physical tiles of a die that are not held at retention voltage; one under a tile test runs at operating voltage (R421). -/
def activeTiles (s : State) (d : Nat) : List Nat :=
  ((List.range 17).map (17 * d + ·)).filter (fun p => !(tileOf s p).retention || (tileOf s p).testing)

/-- Every active tile of a die takes a voltage. -/
def setVoltage (s : State) (d : Nat) (f : Nat → Nat) : State :=
  (activeTiles s d).foldl (fun s p => putTile s p { tileOf s p with mv := f (tileOf s p).mv }) s

/-- Retune the idle PLL of a die; the switch follows.  Before a rise, the voltage of every active tile goes to the value
fused for the new frequency (R151). -/
def retune (s : State) (d f : Nat) : State :=
  let s := putDie s d { dieOf s d with pllTarget := if f = stepClk s d then none else some f }
  if stepClk s d < f then setVoltage s d (max (vfMv s f)) else s

/-- A new 100 µs begins. -/
def newWindow (s : State) (d : Nat) : State :=
  putDie s d { dieOf s d with below := decide (tokEff s d < tokBud s d), atBudget := decide (tokEff s d = tokBud s d) }

/-- Every die of the run stands at 400 MHz with B = 4 and the 1 ms average exceeds the cap (R149). -/
def atFloor (s : State) (avg1ms : Nat) : Bool :=
  (usedDies s).all (fun d => decide (stepClk s d = 400 ∧ tokEff s d = 4)) && decide (powerLimit s < avg1ms)

/-- A governor event: its sticky bit of GOV_STAT, and the log at its first occurrence since the last read. -/
def govEvent (s : State) (bit code : Nat) : State :=
  let s1 := orReg s govStat (place 32 bit 1 1)
  if regBit s govStat bit then s1 else logEvent s1 pPwr code 0

def clockAdjust (avg avg1ms : Nat) (s : State) : State :=
  if !govRun s then s
  else if atFloor s avg1ms then govEvent s 9 0x0010
  else (usedDies s).foldl (fun s' d => newWindow (retune s' d (nextClk s avg d)) d) s

def execClockAdjust (avg100us avg1ms : Nat) (s : State) : Host.Outcome State Fault Refusal :=
  finish (clockAdjust avg100us avg1ms s)

/-- In a paced run whose 1 ms average exceeds the cap, STEPCLK goes down one step on every die of the run (R48). -/
def powerPace (s : State) : State :=
  if pacedRun s && decide (powerLimit s < regF s (ro pPwr 0x088) 0 16) then
    govEvent ((usedDies s).foldl (fun s' d => retune s' d (max 400 (clkGoal s d - 25))) s) 10 0x0011
  else s

def execPowerPace (s : State) : Host.Outcome State Fault Refusal := finish (powerPace s)

/-- The die switches to the retuned PLL; a CLOCK packet tells it, and after a fall the voltage follows (R151, R448). -/
def pllSwitch (d : Nat) (s : State) : State :=
  match (dieOf s d).pllTarget with
  | none => s
  | some f =>
    if d < 4 ∧ stepClk s d ≠ 0 then
      let s := if f < stepClk s d then setVoltage s d (fun _ => vfMv s f) else s
      let s := tracePkt s d ((((runTiles s).filter (fun p => p / 17 == d)).map (fun p => (tileOf s p).cycle)).headD 0) 0x09 f []
      setReg (putDie s d { dieOf s d with pllTarget := none }) (clkReg d) (BitVec.ofNat 32 f)
    else s

def execPllSwitch (d : Nat) (s : State) : Host.Outcome State Fault Refusal := finish (pllSwitch d s)

/-- A PWR_CAP write: clamped to 120 to 540 W, in force at once (R156, R157). -/
def writeCap (v : Reg) (s : State) : State :=
  let w := fld v 0 10
  let c := max 120 (min 540 w)
  let s := setReg s capReg (BitVec.ofNat 32 c)
  if c = w then s else orReg s govStat (place 32 8 1 1)

def execPwrCapWrite (v : Reg) (s : State) : Host.Outcome State Fault Refusal := finish (writeCap v s)

/-- A TOK_BUD write: clamped to 1 to 144; refused in a paced run below D (R153, R157).  B follows where it stood at the
budget, and never exceeds it; a B that this brings to TOK_BUD has not stayed below it (R149). -/
def writeBud (d : Nat) (v : Reg) (s : State) : State :=
  let b := max 1 (min 144 (fld v 0 8))
  if 4 ≤ d then s
  else if pacedRun s && decide (b < declaredPeak s d) then refuse s pPwr
  else
    let eff := if tokEff s d = tokBud s d then b else min b (tokEff s d)
    setBudget (setReg s (budReg d) (BitVec.ofNat 32 b)) d eff

def execTokBudWrite (d : Nat) (v : Reg) (s : State) : Host.Outcome State Fault Refusal := finish (writeBud d v s)

/-! ### RUNINFO (R302) -/

/-- The RUNINFO message of this device. -/
def runInfoWords (s : State) : List Word :=
  let on := s.cfg.resValid
  let clk := (List.range 4).foldl (fun (w : Word) d => w ||| place 64 (16 * d) 11 (clkCeil s d)) 0
  [place 64 56 8 0x03, if on then s.img.runId else 0,
   place 64 0 16 (if on then s.img.devMask else 0) ||| place 64 16 1 on.toNat,
   if on then BitVec.ofNat 64 s.img.tiles.toNat else 0, clk]

/-- Queue a control packet. -/
def queueControl (s : State) (n : Nat) (ws : List Word) : State := queuePkt s n 2 2 ws

/-- RUNINFO goes out on every link port that is UP. -/
def sendRunInfo (s : State) : State :=
  (List.range 16).foldl (fun s n => if portUp s n then queueControl s n (runInfoWords s) else s) s

/-- A CLK_CEIL write: rounded down to 25 MHz, clamped; refused in a paced run below the admitted clock; a die above the new
ceiling goes to it at its next PLL switch (R153, R157). -/
def writeCeil (d : Nat) (v : Reg) (s : State) : State :=
  let f := max 400 (min (maxClk s) (fld v 0 11 / 25 * 25))
  if 4 ≤ d then s
  else if pacedRun s && decide (f < Tbl.get 0 s.run.admClk d) then refuse s pPwr
  else
    let s := setReg s (ceilReg d) (BitVec.ofNat 32 f)
    sendRunInfo (if f < clkGoal s d then retune s d f else s)

def execClkCeilWrite (d : Nat) (v : Reg) (s : State) : Host.Outcome State Fault Refusal := finish (writeCeil d v s)

end Sys2Proof.Machine
end

