-- ==== Sys2Proof/Machine/Banks.lean ====
section
/-!
DEFINITION. On-chip memory banks (07): ownership and its handover (R194 to R197), parity repair (R200), checkpoint copies
(R201, R202) and the transparent test (R203 to R205).
-/
namespace Sys2Proof.Machine

/-! ### Jobs at banks -/

/-- Is the job at its executor? -/
def Job.works (j : Job) : Bool := decide (j.phase = .dispatched ∨ j.phase = .running)

/-- The device banks that `n` bytes at bank address `a` touch (R355). -/
def banksOf (a n : Nat) : List Nat :=
  if n = 0 then [] else (List.range 128).filter (fun b => decide (a / 2 ^ 21 ≤ b ∧ b ≤ (a + n - 1) / 2 ^ 21))

/-- The banks of a COPY job. -/
def Job.copyBanks (j : Job) : List Nat :=
  (if j.par 0x30 1 % 4 = 2 then banksOf (j.par 0x18 8) (j.par 0x28 8) else []) ++
    (if j.par 0x30 1 / 4 % 4 = 2 then banksOf (j.par 0x20 8) (j.par 0x28 8) else [])

/-- Does a DMA job that touches the bank run? -/
def dmaOnBank (s : State) (b : Nat) : Bool :=
  s.saiga.jobs.any (fun j => j.works && decide (j.exec < 8) && j.copyBanks.contains b)

/-- Does a Chamois test job run on the bank? -/
def testOnBank (s : State) (b : Nat) : Bool :=
  s.saiga.jobs.any (fun j => j.works && decide (j.exec = 0x0D ∧ j.op = 1 ∧ j.par 0x31 1 = b))

/-! ### Ownership -/

/-- May the bank not be taken from its present owner (R195)? -/
def ownerHeld (s : State) (b : Nat) : Bool :=
  match bankOwner s b with
  | 0x41 => dmaOnBank s b
  | 0x42 => mkhArmed s
  | 0x43 => regBit s trcCtl 0
  | 0x44 => testOnBank s b
  | _ => false

/-- OWNER with a pending owner. -/
def pendOwner (s : State) (b o : Nat) : State :=
  let s := setReg s (ownerReg b) (place 32 0 7 (bankOwner s b) ||| place 32 8 7 o ||| place 32 15 1 1)
  putBank s b { bankOf s b with due := none }

/-- A write to OWNER (R195, R196). -/
def ownerWrite (b : Nat) (v : Reg) (s : State) : State :=
  let o := fld v 0 7
  let cur := bankOwner s b
  if 128 ≤ b then s
  else if 0x45 ≤ o ∨ (o < 0x40 ∧ o / 16 ≠ b / 32) then refuse s (pBnk b)
  else if o = cur then
    if bankPending s b then
      putBank (setReg s (ownerReg b) (place 32 0 7 cur ||| place 32 8 7 cur)) b { bankOf s b with due := none }
    else s
  else if ownerHeld s b then refuse s (pBnk b)
  else pendOwner s b o

def execOwnerWrite (b : Nat) (v : Reg) (s : State) : Host.Outcome State Fault Refusal := finish (ownerWrite b v s)

/-- Has a segment, in the banks of its channel's ring, samples in the bank? -/
def Seg.inBank (g : Seg) (b : Nat) : Bool := overlap g.base (g.cap * g.width) (b * 2 ^ 21) (2 ^ 21)

/-- Has Markhor an undrained segment in the bank (R332)? -/
def drainsFrom (s : State) (b : Nat) : Bool :=
  s.mkh.chans.any (fun e => (e.2.left ++ e.2.drain).any (fun g => g.inBank b && !g.places.isEmpty))

/-- Has Chital staged lines in the bank (R445)? -/
def stagedIn (s : State) (b : Nat) : Bool :=
  (List.range 4).any (fun k => decide ((streamOf s k).bank = b ∧ 0 < (streamOf s k).staged))

/-- Is an access of the bank's owner in flight (R196): of a tile any that is not applied, of Markhor and Chital what they have
still to drain from it, of Chamois a test? -/
def ownerInFlight (s : State) (b : Nat) : Bool :=
  repairing s b || dmaOnBank s b || (bankOf s b).testing || accessOpen s b cycleLimit ||
    (decide (bankOwner s b = 0x42) && drainsFrom s b) || (decide (bankOwner s b = 0x43) && stagedIn s b)

/-- The handover point has come: the pending owner takes the bank, from a tile of a run once its accesses are applied, from
any other owner in the first bank clock with no access in flight (R196). -/
def ownerHandover (b : Nat) (s : State) : State :=
  let o := bankOwner s b
  if !bankPending s b || decide (128 ≤ b) then s
  else match (bankOf s b).due with
    | some c => if accessOpen s b c then s else handover s b c
    | none =>
      if runOwner s o || runOwner s (bankPendOwner s b) || ownerInFlight s b then s else handover s b (curCycle s)

def execOwnerHandover (b : Nat) (s : State) : Host.Outcome State Fault Refusal := finish (ownerHandover b s)

/-! ### Parity repair (R200) -/

/-- The BANKINIT word of the golden copy, or the zero of a bank without BANKINIT (R166). -/
def swapWord (s : State) (b w : Nat) : Option Word :=
  (golden s).map (fun g => match iSect (iDir g) 8 b with
    | none => 0
    | some e => BitVec.ofNat 64 (rd g (e.off + 8 * w) 8))

/-- The word as a save buffer holds it, on its way to the journal (R201). -/
def savedWord (s : State) (b w : Nat) : Option Word :=
  ((dieOf s (b / 32)).save.reverse.find? (fun v => v.bank == b && v.region == w / 64)).bind (fun v => v.words[w % 64]?)

/-- A word's copy (R200): the image's, or what the journal of the last checkpoint holds or will hold. -/
def copyWord (s : State) (b w : Nat) : Option Word :=
  if journalCopy s b w then
    match savedWord s b w with
    | some v => some v
    | none => (ckptBank s b).map (fun t => (Tbl.get 0 t w).setWidth 64)
  else swapWord s b w

/-- The hub reads the copy; one in the golden image may not be had (R219). -/
def readCopy (s : State) (b w : Nat) : State × Option Word :=
  let v := copyWord s b w
  if journalCopy s b w then (s, v)
  else match (golden s).bind (fun g => iSect (iDir g) 8 b) with
    | none => (s, v)
    | some e => let y := goldenFetch s (e.off + 8 * w) 8; (y.1, if y.2 then v else none)

/-- The hub is done with a word: rewritten from its copy, and the access that waits for it is repeated; a word whose copy cannot
be had is as one without. -/
def parityRepair (b : Nat) (s : State) : State :=
  match (bankOf s b).repair with
  | none => s
  | some (w, wt) =>
    let y := readCopy s b w
    let s := putBank y.1 b { bankOf y.1 b with repair := none }
    match y.2 with
    | none => bankErrBare s b w wt
    | some v =>
      let s := putBank s b { bankOf s b with words := Tbl.set 0 (bankOf s b).words w (withParity v) }
      let s := recordPerr (bumpF s (ro (pBnk b) 0x094) 0 16 1) b w 0
      let o := bankOwner s b
      let p := physOf s o
      let s := if trcClass s 6 && !fenced s p then
          tracePkt s (b / 32) (tileOf s p).cycle 0x06 (1 + 4 * (o % 16)) [place 64 0 7 b ||| place 64 7 18 w]
        else s
      match wt with
      | some y => if (tileOf s y.tile).un.issues.contains y.iss then tmemEffect s y.tile y.iss else s
      | none => s

def execBankParityRepair (b : Nat) (s : State) : Host.Outcome State Fault Refusal := finish (parityRepair b s)

/-! ### Checkpoint copies (R201, R202) -/

/-- The oldest TMEM issue of a tile, with the bank and region that it addresses. -/
def tmemTarget (s : State) (p : Nat) : Option (Issue × Nat × Nat) :=
  match headIssue (tileOf s p) (fun i => decide (i.unit < 4)) with
  | none => none
  | some i =>
    let a := if i.op = 0 then i.word else Tbl.get 0 (tileOf s p).un.tmem i.unit
    if i.op = 1 then none else some (i, tmBank (p / 17) a, tmWord a / 64)

/-- Does a TMEM access of a tile of the bank's die wait at the bank? -/
def tmemWaits (s : State) (b : Nat) : Bool :=
  (List.range 17).any (fun k => match tmemTarget s (17 * (b / 32) + k) with | some (_, b', _) => b' == b | none => false)

/-- A write of a tile of the die that waits on a pending region (R202). -/
def waitingWrite (s : State) (d : Nat) : Option (Nat × Issue × Nat × Nat) :=
  ((List.range 17).map (fun k => 17 * d + k)).findSome? (fun p =>
    match tmemTarget s p with
    | some (i, b, r) => if i.op ≠ 0 ∧ Tbl.get false (bankOf s b).pend r then some (p, i, b, r) else none
    | none => none)

/-- The next pending region of the die in ascending bank and region order. -/
def nextPending (s : State) (d : Nat) : Option (Nat × Nat) :=
  ((List.range 32).map (fun i => 32 * d + i)).findSome? (fun b =>
    ((bankOf s b).pend.find? (fun e => e.2)).map (fun e => (b, e.1)))

/-- The copy engine reads the region that a write waits for, else the next pending one; a word with a parity error is
repaired first, or rolls the run back (R200). -/
def regionCopy (d : Nat) (s : State) : State :=
  match waitingWrite s d with
  | some (p, i, b, r) =>
    let x := regionErrs s b r
    if x.2 && !repairing s b then tmemAccess (takeRegion x.1 b r) p i else x.1
  | none =>
    match nextPending s d with
    | some (b, r) =>
      let x := regionErrs s b r
      if x.2 && !repairing s b then takeRegion x.1 b r else x.1
    | none => s

def execCkptRegionCopy (d : Nat) (ups : List BankUpset) (s : State) : Host.Outcome State Fault Refusal :=
  finish (regionCopy d (ups.foldl bankUpset s))

/-! ### Transparent test (R203 to R205, R435, R436) -/

/-- May Chamois test regions of the bank: TT_EN, an owner that R203 names, and no tile of a paced run (R435)? -/
def ttEligible (s : State) (b : Nat) : Bool :=
  let o := bankOwner s b
  regBit s (ro (pBnk b) 0x084) 2 && decide (o ≠ 0x42 ∧ o ≠ 0x44) && !(pacedRun s && runOwner s o)

/-- The next region to test, from position `pos` = 4096 x bank + region of the die on; `n` banks are looked at. -/
def ttPick (s : State) (d : Nat) : Nat → Nat → Option Nat
  | 0, _ => none
  | n + 1, pos =>
    let i := pos / 4096 % 32
    let b := 32 * d + i
    let r := if ttEligible s b then
        (List.range (4096 - pos % 4096)).find? (fun k => !Tbl.get false (bankOf s b).pend (pos % 4096 + k))
      else none
    match r with
    | some k => some (i * 4096 + pos % 4096 + k)
    | none => ttPick s d n ((i + 1) % 32 * 4096)

/-- The test of the next region begins: it is saved, once a parity error in it has been handled (R200). -/
def ttStart (d : Nat) (s : State) : State :=
  let x := dieOf s d
  if 4 ≤ d ∨ x.tt.isSome ∨ stepClk s d = 0 ∨ !regBit s (ro pScr 0x080) 0 ∨ s.scr.halted then s
  else match ttPick s d 33 x.ttNext with
    | none => s
    | some k =>
      let b := 32 * d + k / 4096
      let e := regionErrs s b (k % 4096)
      if !e.2 || repairing s b then e.1
      else
        let v : Saved := { bank := b, region := k % 4096, words := (bankOf s b).region (k % 4096) }
        let s := putDie e.1 d { dieOf e.1 d with tt := some v, ttAbort := false, ttNext := (k + 1) % 131072 }
        setRegF s (ro (pBnk b) 0x098) 0 12 (k % 4096)

def execTtRegionStart (d : Nat) (ups : List BankUpset) (s : State) : Host.Outcome State Fault Refusal :=
  finish (ttStart d (ups.foldl bankUpset s))

/-- A region failed its March test: a spare takes its place while one is left (R205). -/
def regionFails (s : State) (b r : Nat) : State :=
  let x := bankOf s b
  let used := x.spares.length
  if used < 4 then
    let s := putBank s b (x.addSpare r)
    stick (setReg s (ro (pBnk b) 0x09C) (place 32 0 12 r ||| place 32 12 3 (used + 1) ||| place 32 31 1 1)) (pBnk b) 5
  else
    let s := setReg s (ro (pBnk b) 0x09C) (place 32 0 12 r ||| place 32 12 3 used ||| place 32 31 1 1)
    logEvent (stick (stick s (pBnk b) 5) (pBnk b) 6) (pBnk b) 0x0022 (BitVec.ofNat 32 r)

def ttDone (d : Nat) (pass : Bool) (s : State) : State :=
  let x := dieOf s d
  match x.tt with
  | none => s
  | some v =>
    if x.ttAbort then s
    else
      let s := putBack (putDie s d { x with tt := none }) v
      if pass then s else regionFails s v.bank v.region

def execTtRegionDone (d : Nat) (pass : Bool) (s : State) : Host.Outcome State Fault Refusal := finish (ttDone d pass s)

/-- The aborted region is restored and verified; the owner's waiting access is applied (R204). -/
def ttAbortDone (d : Nat) (s : State) : State :=
  let x := dieOf s d
  match x.tt with
  | none => s
  | some v =>
    if !x.ttAbort then s
    else
      let s := ttYield s d
      match ((List.range 17).map (fun k => 17 * d + k)).findSome? (fun p =>
          match tmemTarget s p with
          | some (i, b, r) => if b = v.bank ∧ r = v.region then some (p, i) else none
          | none => none) with
      | some (p, i) => tmemAccess s p i
      | none => s

def execTtAbortDone (d : Nat) (s : State) : Host.Outcome State Fault Refusal := finish (ttAbortDone d s)

end Sys2Proof.Machine
end

