-- ==== Sys2Proof/Machine/DramCtl.lean ====
section
/-!
DEFINITION. The DRAM controllers (08): acceptance and service of requests (R212 to R219), refresh and row disturbance
(R221, R222), idle states (R223, R224), calibration and training (R227 to R229), and their registers.
-/
namespace Sys2Proof.Machine

/-! ### Acceptance (R133, R212, R213) -/

/-- The 8-byte word of the line that a QWD writes. -/
def DReq.wordAt (r : DReq) : Nat := r.line * 64 + 8 * (((List.range 8).find? (fun k => r.mask.getLsbD (8 * k))).getD 0)

/-- A QWD is journaled before it reaches DRAM: its address and the 8 bytes it overwrites (R425). -/
def journalQwd (s : State) (r : DReq) : State :=
  match s.recov.active, r.src with
  | true, .qport p q id =>
    let a := r.wordAt
    let u : Undo := { tile := p, q := q, id := id, addr := a, old := BitVec.ofNat 64 (leNat (dramRead s a 8)) }
    journalCheck { s with recov := { s.recov with undo := s.recov.undo ++ [u] } }
  | _, _ => s

/-- May the request be accepted in this HUBCLK period: none of ring 0 after one of ring 1 (R212)? -/
def Chan.inTurn (c : Chan) (s : State) (ch : Nat) (r : DReq) : Bool :=
  r.ring ch != 0 || c.ring1At != some (s.tb.toNat / 256)

/-- The controller accepts arriving request `i`, the first of its queue.  A read takes a place in the read queue and is
answered with the line as it stands now; a write merges into the buffer, or takes an entry; with all 64 in use no write is
accepted (R213). -/
def accept (ch i : Nat) (s : State) : State :=
  let c := chanOf s ch
  match c.arriving[i]? with
  | none => s
  | some r0 =>
    let r := { r0 with seq := c.accepted }
    if (c.arriving.take i).any (sameQueue r) || !c.inTurn s ch r then s
    else
      let took := fun c : Chan => { c with
        arriving := c.arriving.eraseIdx i, accepted := c.accepted + 1
        ring1At := if r.ring ch = 1 then some (s.tb.toNat / 256) else c.ring1At }
      if r.write then
        if decide (64 ≤ c.wbuf.length) || journalFull s then s
        else
          let s := wakeLine (journalQwd s r) r.line
          let c := took (chanOf s ch)
          let s := putChan s ch { c with wbuf := bufferWrite c.wbuf r }
          match r.src with
          | .qport p q id => modQReq s p q id (fun x => { x with stage := .atController })
          | .other => s
      else if 128 ≤ c.readQ.length then s
      else
        let ws := lineWords s r.line
        let s := wakeLine s r.line
        let c := took (chanOf s ch)
        let s := putChan s ch { c with readQ := c.readQ ++ [r] }
        match r.src with
        | .qport p q id => modQReq s p q id (fun x => { x with stage := .atController, resp := ws })
        | .other => s

def execDramRequestAccept (ch i : Nat) (s : State) : Host.Outcome State Fault Refusal := finish (accept ch i s)

/-! ### Service (R213, R214, R216, R219) -/

/-- Buffered write `i` drains unless an aged request goes before it. -/
def drainNext (s : State) (ch i : Nat) : State :=
  let c := chanOf s ch
  match c.wbuf[i]? with
  | none => s
  | some r => if c.heldBack r then s else drainOne s ch i

/-- The scheduler serves request `i`: of the read queue, or beyond it of the write buffer, which an idle controller drains;
a request past the age limit goes before every younger one, whatever its class. -/
def serve (ch i : Nat) (s : State) : State :=
  let c := chanOf s ch
  match c.readQ[i]? with
  | some r =>
    if c.heldBack r then s
    else readDone (putChan s ch { c with readQ := c.readQ.eraseIdx i }) ch r
  | none =>
    if !c.readQ.isEmpty then s
    else drainNext s ch i

/-- The errors that strike the line of request `i`, and the slot's copy of it. -/
def serveErrs (s : State) (ch i : Nat) (err copy : DramErr) : List LineErr :=
  let c := chanOf s ch
  match (c.readQ[i]?) <|> (c.wbuf[i]?) with
  | none => []
  | some r => { line := r.line, err := err } ::
      (match qinitLine s r.line with | some l => [{ line := l, err := copy }] | none => [])

def execDramServe (ch i : Nat) (err copy : DramErr) (s : State) : Host.Outcome State Fault Refusal :=
  finish (serve ch i (strike s (serveErrs s ch i err copy)))

/-- Drain buffered writes, oldest first, until `low` lines are left. -/
def drainTo (ch low : Nat) : Nat → State → State
  | 0, s => s
  | n + 1, s =>
    if (chanOf s ch).wbuf.length ≤ low then s else drainTo ch low n (drainNext s ch 0)

/-- A write drain at WM.HIGH, counted; or the oldest write alone once it has waited 1 µs (R214, R215). -/
def writeDrain (ch : Nat) (aged : Bool) (s : State) : State :=
  let n := (chanOf s ch).wbuf.length
  if aged then drainNext s ch 0
  else if regF s (ddrCommon 0x08C) 0 6 ≤ n then
    drainTo ch (regF s (ddrCommon 0x08C) 8 6) n (bump s (ddrReg ch 0x09C) 1)
  else s

def execWriteDrain (ch : Nat) (aged : Bool) (errs : List LineErr) (s : State) : Host.Outcome State Fault Refusal :=
  finish (writeDrain ch aged (strike s errs))

/-- Request `i`, of the read queue and beyond it of the write buffer, has waited 1.0 µs (R214). -/
def ageOne (ch i : Nat) (s : State) : State :=
  let c := chanOf s ch
  let old := fun r : DReq => { r with aged := true }
  if i < c.readQ.length then putChan s ch { c with readQ := c.readQ.modify i old }
  else putChan s ch { c with wbuf := c.wbuf.modify (i - c.readQ.length) old }

def execAgeLimit (ch i : Nat) (s : State) : Host.Outcome State Fault Refusal := finish (ageOne ch i s)

/-! ### Refresh and idle states (R221 to R225) -/

/-- Refresh keeps every byte and costs time only (R46, R221). -/
def execDramRefresh (_ch _rank : Nat) (s : State) : Host.Outcome State Fault Refusal := finish s

/-- The activate tables of every channel. -/
def clearTables (s : State) : State :=
  (List.range 8).foldl (fun s ch => putChan s ch { chanOf s ch with act := [] }) s

def execActTableClear (s : State) : Host.Outcome State Fault Refusal := finish (clearTables s)

/-- Has the channel nothing to do? -/
def Chan.quiet (c : Chan) : Bool := c.arriving.isEmpty && c.readQ.isEmpty && c.wbuf.isEmpty

def selfRefresh (ch : Nat) (s : State) : State :=
  let c := chanOf s ch
  if c.quiet && c.trained && !c.retraining && decide (regF s (ddrCommon 0x094) 0 16 ≠ 0) then
    putChan s ch { c with selfRefresh := true }
  else s

def execSelfRefreshEntry (ch : Nat) (s : State) : Host.Outcome State Fault Refusal := finish (selfRefresh ch s)

/-- Has the rank a request pending? -/
def Chan.rankBusy (c : Chan) (m : Dram) (rank : Nat) : Bool :=
  (c.arriving ++ c.readQ ++ c.wbuf).any (fun r => (m.locate r.line).rank == rank)

def powerDown (ch rank : Nat) (s : State) : State :=
  let c := chanOf s ch
  if c.trained && !c.rankBusy s.dram rank && !s.dram.lpddr && decide (rank < s.dram.ranks ∧ rank < 4 ∧ regF s (ddrCommon 0x098) 0 16 ≠ 0) then
    putChan s ch { c with rankPd := c.rankPd ||| place 4 rank 1 1 }
  else s

def execPowerDownEntry (ch rank : Nat) (s : State) : Host.Outcome State Fault Refusal := finish (powerDown ch rank s)

/-! ### Patrol and calibration (R220, R227) -/

/-- A patrol read of a line of the channel outside self-refresh; a corrected error is rewritten, which leaves the bytes as they
are.  It takes its rank out of power-down (R224), and comes after requests past the age limit (R214). -/
def patrol (ch line : Nat) (s : State) : State :=
  let c := chanOf s ch
  if !c.trained || c.selfRefresh || !regBit s (ddrCommon 0x09C) 2 || decide (channelOf (64 * line) ≠ ch) then s
  else
    let s := eccRead (activate (wakeLine (settleAged s ch) line) line) line
    match s.dram.ecc (lineErr s line) with
    | .corrected _ _ => { s with dram := s.dram.mend line }
    | _ => s

def execPatrolScrub (ch line : Nat) (err : DramErr) (s : State) : Host.Outcome State Fault Refusal :=
  finish (patrol ch line (strike s [{ line := line, err := err }]))

/-- RETRAIN_DUE, once until a retrain completes. -/
def retrainDue (s : State) (ch : Nat) : State :=
  let c := chanOf s ch
  if c.retrainDue then s
  else logEvent (putChan s ch { c with retrainDue := true }) (pDdr ch) 0x0032 (place 32 0 3 ch)

/-- The temperature differs by more than 20 °C from that of the last full training. -/
def tempMoved (s : State) (ch : Nat) (temp : Int) : Bool := decide (20 < (temp - (chanOf s ch).trainTemp).natAbs)

def calibrate (ch : Nat) (limit : Bool) (temp : Int) (s : State) : State :=
  if (chanOf s ch).trained && (limit || tempMoved s ch temp) then retrainDue s ch else s

def execZqCalibration (ch _rank : Nat) (temp : Int) (s : State) : Host.Outcome State Fault Refusal :=
  finish (calibrate ch false temp s)
def execDqsTracking (ch : Nat) (atLimit : Bool) (temp : Int) (s : State) : Host.Outcome State Fault Refusal :=
  finish (calibrate ch atLimit temp s)

/-! ### Retraining (R228, R229) -/

def modChans (s : State) (f : Chan → Chan) : State := (List.range 8).foldl (fun s ch => putChan s ch (f (chanOf s ch))) s

/-- May a retrain proceed: not in progress, not in a paced run nor with Markhor armed, in another run only with FORCE?  DESIGN
CHOICE (assumption 121): before start-up training it is refused. -/
def retrainOk (s : State) : Bool :=
  s.cfg.trained && !retraining s && !pacedRun s && !mkhArmed s && (!s.run.active || regBit s (ddrCommon 0x09C) 1)

/-- A TRAIN_CTL write: FORCE and the patrol fields (a PATROL_HOURS of 0 reads as 1), then RETRAIN as FORCE now stands
(R228, R236). -/
def retrain (v : Reg) (s : State) : State :=
  let s := writeRW s (ddrCommon 0x09C) (if fld v 8 8 = 0 then v ||| 0x100 else v)
  if !v.getLsbD 0 then s
  else if retrainOk s then
    let s := modChans s (fun c => { c with retraining := true, refused := false })
    if s.run.active then { s with run := { s.run with holds := s.run.holds ++ [.retrain] } } else s
  else modChans s (fun c => { c with refused := true })

def execRetrain (v : Reg) (s : State) : Host.Outcome State Fault Refusal := finish (retrain v s)

/-- Is every tile of the run held at a cycle boundary? -/
def allHeld (s : State) : Bool :=
  (runTiles s).all (fun p => let t := tileOf s p; t.halted || decide (t.phase = .close 8 ∨ t.phase = .start))

def retrainEnd (temp : Int) (s : State) : State :=
  if retraining s && (List.range 8).all (fun ch => (chanOf s ch).quiet) && (!s.run.active || allHeld s) then
    let s := modChans (noteGate s) (fun c => { c with retraining := false, retrainDue := false, trainTemp := temp })
    { s with run := { s.run with holds := s.run.holds.filter (fun h => decide (h ≠ .retrain)) } }
  else s

def execRetrainDone (temp : Int) (s : State) : Host.Outcome State Fault Refusal := finish (retrainEnd temp s)

/-! ### Registers with limits (R215, R230, R232) -/

def wmWrite (v : Reg) (s : State) : State :=
  let h := fld v 0 6
  let l := fld v 8 6
  if h < 8 ∨ h < l + 8 then refuse s (pDdr 8) else writeRW s (ddrCommon 0x08C) v

def execWmWrite (v : Reg) (s : State) : Host.Outcome State Fault Refusal := finish (wmWrite v s)

/-- A RESV write: each share clamped; refused where an admitted state needs the present values. -/
def resvWrite (v : Reg) (s : State) : State :=
  let a := min 50 (fld v 0 8)
  let t := min 25 (fld v 8 8)
  let c := min 25 (fld v 16 8)
  if (mkhArmed s && decide (a < resvOf s 0)) || (looseTrace s && decide (t < resvOf s 1)) ||
      ((pacedRun s || mkhArmed s || looseTrace s) && decide (80 < a + t + c)) then refuse s (pDdr 8)
  else setReg s (ddrCommon 0x080) (place 32 0 8 a ||| place 32 8 8 t ||| place 32 16 8 c |||
    place 32 24 8 (100 - (a + t + c)))

def execResvWrite (v : Reg) (s : State) : Host.Outcome State Fault Refusal := finish (resvWrite v s)

end Sys2Proof.Machine
end

