-- ==== Sys2Proof/Machine/RimMap.lean ====
section
/-!
DEFINITION. Where the rim's parts lie (R240, R265): clusters and cells in region, column, row and cell order, the pins and
queues that a region serves, and the inter-region lines.
-/
namespace Sys2Proof.Machine

def cellCluster (c : Nat) : Nat := c / 16
def clusterRow (k : Nat) : Nat := k % 32
def clusterCol (k : Nat) : Nat := k % 1536 / 32
def clusterRegion (k : Nat) : Nat := k / 1536

/-- Cell 15 of a column's top cluster, whose carry output is not implemented (R241). -/
def topCarry (c : Nat) : Bool := decide (c % 16 = 15 ∧ clusterRow (cellCluster c) = 31)

/-- Place of field `f` of a cluster: cell 0xF (R265). -/
def clusterPlace (k f : Nat) : RimPlace :=
  { region := clusterRegion k, col := clusterCol k, row := clusterRow k, cell := 15, field := f }

/-- Place of field `f` of a cell. -/
def cellPlace (c f : Nat) : RimPlace := { clusterPlace (cellCluster c) f with cell := c % 16 }

/-- The region that a line of a region runs into: the regions are joined in a ring. -/
def lineInto (region : Nat) (up : Bool) : Nat := (region + if up then 1 else 3) % 4

/-- The clock-capable pin that a reference code names: 1 to 8 are pins 0 and 24 of the banks in order; 0 is REFCLK (R246;
the order of the codes: assumption 109). -/
def refPin (code : Nat) : Option Nat := if code = 0 then none else some (48 * ((code - 1) / 2) + 24 * ((code - 1) % 2))

end Sys2Proof.Machine
end

