-- ==== Sys2Proof/Machine/RimFabric.lean ====
section
/-!
DEFINITION. The rim's fabric (09): what its configuration selects (R240 to R244), the value of each signal, what an edge of a
RIMCLK does to flip-flops and I/O registers (R242, R247, R255), and each pin's state (R258 to R260).
-/
namespace Sys2Proof.Machine

end Sys2Proof.Machine

namespace Sys2Proof
open Machine

/-! ### The decode check (R244) -/

/-- Every multiplexer of a configuration. -/
def RimNet.muxes (net : RimNet) : List RimMux :=
  net.cells.flatMap (fun c => c.ins) ++ net.clusters.flatMap (fun c => c.enable :: c.reset :: c.sel) ++ net.wires ++
  net.lines.map RimLine.mux ++ net.pins.flatMap (fun p => [p.outR, p.outF, p.oe]) ++ net.queues.flatMap RimPort.muxes

/-- The source that a select names, where it names one. -/
def RimMux.source (m : RimMux) : Option RimSrc := m.src[m.code]?

/-- Does the select hold an unimplemented code? -/
def RimMux.bad (m : RimMux) : Bool :=
  match m.source with
  | none => true
  | some (.carry c) => topCarry c
  | some _ => false

/-- RIM_DEC_LOC of a field (R265), without VALID. -/
def RimPlace.loc (p : RimPlace) : BitVec 31 :=
  place 31 0 2 p.region ||| place 31 2 6 p.col ||| place 31 8 5 p.row ||| place 31 13 4 p.cell ||| place 31 17 8 p.field

/-- Region, column, row, cell and field order. -/
def RimPlace.key (p : RimPlace) : Nat := (((p.region * 64 + p.col) * 32 + p.row) * 16 + p.cell) * 256 + p.field

/-- The first field with an unimplemented code. -/
def RimNet.firstBad (net : RimNet) : Option RimPlace :=
  (net.muxes.filter RimMux.bad).foldl (fun b m =>
    match b with
    | some p => if m.place.key < p.key then some m.place else b
    | none => some m.place) none

/-- The RIMCLKs that clusters and pin groups select. -/
def RimNet.clocks (net : RimNet) : BitVec 8 :=
  bitsOf 8 (net.clusters.map (fun c => c.clk % 8) ++ net.groups.map (· % 8))

def RimNet.cell (net : RimNet) (c : Nat) : Option RimCell := net.cells.find? (fun x => x.at_ == c)
def RimNet.cluster (net : RimNet) (k : Nat) : Option RimCluster := net.clusters.find? (fun x => x.at_ == k)
def RimNet.line (net : RimNet) (r : Nat) (up : Bool) (i : Nat) : Option RimLine :=
  net.lines.find? (fun x => x.region == r && x.up == up && x.idx == i)
def RimNet.pin (net : RimNet) (p : Nat) : Option RimPin := net.pins.find? (fun x => x.at_ == p)

/-- The RIMCLK of a pin's group of eight (R255). -/
def RimNet.pinClk (net : RimNet) (p : Nat) : Nat := net.groups.getD (p / 8) 0 % 8

/-- I/O registers as they start: inputs 0, outputs at their initial values. -/
def RimNet.ioStart (net : RimNet) : Tbl IoReg :=
  tblOf IoReg.reset (net.pins.map (fun p => (p.at_, { inR := false, inF := false, outR := p.out0, outF := p.out0, oe := p.oe0 })))

/-- Flip-flops at their initial values. -/
def RimNet.flopStart (net : RimNet) : Tbl Bool := tblOf false (net.cells.map (fun c => (c.at_, c.init)))

end Sys2Proof

namespace Sys2Proof.Machine

/-! ### Signals -/

def ioReg (s : State) (p : Nat) : IoReg := Tbl.get IoReg.reset s.rim.io p

/-- MODE of a pin (R267). -/
def pinMode (s : State) (p : Nat) : Nat := leNat [s.rim.frames.getD (6144 * 192 + 16 * p) 0] % 4

/-- PACE_TICK as the fabric sees it: 0 outside paced runs and without PACE_TICK_EN (R247). -/
def paceSignal (s : State) : Bool := s.rim.paceTick && pacedRun s && regBit s (ro pRim 0x0A0) 1

/-- OQ_VALID: an entry is visible, of a queue that the resident image enables (R249, R250). -/
def oqHead (s : State) (q : Nat) : Option OEntry :=
  match outqOf s q with
  | e :: _ => if e.valid && s.cfg.resValid && s.img.outQ.getLsbD q then some e else none
  | [] => none

/-- Propagate and generate of a carry cell: a bit of each half of its table (R241). -/
def carryBits (t : BitVec 64) (ins : Nat) : Bool × Bool :=
  let bit := fun (prop : Bool) =>
    t.getLsbD ((Config.carryBit prop (BitVec.ofNat 6 ins)).toNat + if prop = Config.propHigh then 32 else 0)
  (bit true, bit false)

/-- The number that six input bits spell: I0 + 2 I1 + … + 32 I5 (R241). -/
def inputsNat (v : Nat → Bool) : Nat := ((List.range 6).map (fun i => (v i).toNat * 2 ^ i)).sum

/-- The level of a source.  The four cells of a group share the selects of their 4:1 stages, which the group's first cell takes
on I4 and I5 (R243; assumption 125).  `fuel` bounds the depth of the network: a loop that does not settle within it has no value
(R245; assumption 110). -/
def rimVal (s : State) : Nat → RimSrc → Bool
  | 0, _ => Config.rimOpen 0
  | k + 1, x =>
    let net := s.rim.net
    let mux := fun (m : RimMux) => match m.source with | some y => rimVal s k y | none => false
    let ins := fun (c : RimCell) (i : Nat) => match c.ins[i]? with | some m => mux m | none => false
    let sel := fun (c : RimCluster) (i : Nat) => match c.sel[i]? with | some m => (mux m).toNat | none => 0
    match x with
    | .low => false
    | .flop c => Tbl.get false s.rim.flops c
    | .wire w => match net.wires[w]? with | some m => mux m | none => false
    | .table c => match net.cell c with
      | some e => e.table.getLsbD (inputsNat (ins e))
      | none => false
    | .carry c => match net.cell c with
      | some e =>
        let pg := carryBits e.table (inputsNat (ins e))
        if !e.carry then Config.rimOpen 2
        else if pg.1 then
          if c % 16 ≠ 0 then rimVal s k (.carry (c - 1))
          else if clusterRow (cellCluster c) ≠ 0 then rimVal s k (.carry (16 * (cellCluster c - 1) + 15))
          else Config.rimOpen 1
        else pg.2
      | none => false
    | .mux4 c =>
      let sels := match net.cell (c / 4 * 4) with | some f => (ins f 4).toNat + 2 * (ins f 5).toNat | none => 0
      match net.cell c with | some e => ins e sels | none => false
    | .mux16 cl g => match net.cluster cl with
      | some e => rimVal s k (.mux4 (16 * cl + 4 * g + sel e (2 * g) + 2 * sel e (2 * g + 1)))
      | none => false
    | .mux32 cl h => match net.cluster cl with
      | some e => rimVal s k (.mux16 cl (2 * h + sel e (8 + h)))
      | none => false
    | .line r up i => match net.line r up i with | some l => mux l.mux | none => false
    | .pinR p => if pinMode s p = 3 then Config.pinLevel p s.freeCount else (ioReg s p).inR
    | .pinF p => (ioReg s p).inF
    | .iqFull q => !(s.cfg.resValid && s.img.inQ.getLsbD q) || decide (64 ≤ (inqOf s q).length)
    | .oqValid q => (oqHead s q).isSome
    | .oqData q i => match oqHead s q with | some e => e.bits.getLsbD i | none => false
    | .oqCyc q i => match oqHead s q with | some e => (e.cyc % 65536).testBit i | none => false
    | .paceTick => paceSignal s

/-- Deeper than any settled path: every cell, wire and line once. -/
def rimDepth (s : State) : Nat := 98304 * 2 + s.rim.net.wires.length + s.rim.net.lines.length

/-- What a multiplexer drives. -/
def muxVal (s : State) (m : RimMux) : Bool := match m.source with | some x => rimVal s (rimDepth s) x | none => false

/-! ### An edge of a RIMCLK (R242, R243, R247, R255, R260) -/

/-- D of a cell's flip-flop: its table, its input I5, or the wide multiplexer that ends at it (R241, R243). -/
def dInput (s : State) (c : RimCell) : Bool :=
  let cl := cellCluster c.at_
  if c.wide = 16 then rimVal s (rimDepth s) (.mux16 cl (c.at_ % 16 / 4))
  else if c.wide = 32 then rimVal s (rimDepth s) (.mux32 cl (c.at_ % 16 / 8))
  else if c.bypass then (match c.ins[5]? with | some m => muxVal s m | none => false)
  else rimVal s (rimDepth s) (.table c.at_)

/-- A flip-flop after an edge of its cluster's clock: reset, load or hold. -/
def flopNext (s : State) (cl : RimCluster) (c : RimCell) : Bool :=
  if muxVal s cl.reset then c.init
  else if muxVal s cl.enable then dInput s c
  else Tbl.get false s.rim.flops c.at_

/-- The cells whose cluster is clocked by RIMCLK n. -/
def clockedCells (s : State) (n : Nat) : List (RimCluster × RimCell) :=
  s.rim.net.cells.filterMap (fun c =>
    match s.rim.net.cluster (cellCluster c.at_) with
    | some cl => if cl.clk = n then some (cl, c) else none
    | none => none)

/-- An I/O cell at an edge of its clock: both input registers are presented; the output registers load, but at the first edge
after release the pin is driven from their initial values (R255, R260). -/
def ioNext (s : State) (p : Nat) (first : Bool) : IoReg :=
  let x := { ioReg s p with inR := Config.pinLevel p s.freeCount, inF := Config.pinLevel (192 + p) s.freeCount }
  match s.rim.net.pin p with
  | some e => if first then x else { x with outR := muxVal s e.outR, outF := muxVal s e.outF, oe := muxVal s e.oe }
  | none => x

/-- One rising edge of RIMCLK n: everything on it loads at once, from what stood before the edge. -/
def rimEdge (n : Nat) (s : State) : State :=
  let flops := (clockedCells s n).map (fun e => (e.2.at_, flopNext s e.1 e.2))
  let groups := (List.range 24).filter (fun g => s.rim.net.groups.getD g 0 % 8 == n)
  let pins := (List.range 192).filter (fun p => s.rim.net.pinClk p == n)
  let io := pins.map (fun p => (p, ioNext s p (!s.rim.live.getLsbD (p / 8))))
  let pace := decide (regF s (ro pRim 0x0A0) 2 3 = n)
  { s with
    freeCount := s.freeCount + 1
    rim := { s.rim with
      flops := Tbl.setAll false s.rim.flops flops, io := Tbl.setAll IoReg.reset s.rim.io io
      live := s.rim.live ||| bitsOf 24 groups
      paceTick := if pace then s.rim.paceDue else s.rim.paceTick
      paceDue := s.rim.paceDue && !pace } }

/-! ### Held, released, safe (R242, R259, R260) -/

/-- Every flip-flop and I/O register starts again, and every pin is in the safe state. -/
def Rim.restart (x : Rim) : Rim :=
  { x with flops := x.net.flopStart, io := x.net.ioStart, live := 0, held := [], paceTick := false, paceDue := false }

/-- DOZE without DOZE_HOLD: the pins go safe, the input registers hold, the outputs start again at the exit. -/
def Rim.dozeSafe (x : Rim) : Rim :=
  { x with
    live := 0, held := []
    io := tblOf IoReg.reset ((List.range 192).map (fun p =>
      let old := Tbl.get IoReg.reset x.io p
      let new := Tbl.get IoReg.reset x.net.ioStart p
      (p, { new with inR := old.inR, inF := old.inF }))) }

/-! ### Capture (R262, R263) -/

/-- Has the edge source come to its edge, at timebase value `t`? -/
def RimSnap.due (w : RimSnap) (t : Word) : Bool :=
  match w.src with
  | 0 => decide (w.t.toNat ≤ t.toNat)
  | 1 => w.fired
  | _ => true

/-- An edge of RIMCLK n at the present timebase with the fraction: what is on that clock loads, and a capture that waits for
this edge latches what the flip-flops and I/O registers hold then; SNAP_T and DONE report. -/
def clockEdge (n : Nat) (frac : BitVec 8) (s : State) : State :=
  let s := if rimRuns s then rimEdge n s else s
  let t := s.tb + BitVec.ofNat 64 frac.toNat
  match s.rim.want with
  | none => s
  | some w =>
    if decide (w.clk ≠ n) || !w.due t then s
    else
      let s := setReg s (ro pRim 0x0C0) (place 32 0 1 1 ||| place 32 2 3 w.clk ||| place 32 5 2 w.src)
      let s := setReg64 s (ro pRim 0x0C4) (ro pRim 0x0C8) t.toNat
      { s with
        rim := { s.rim with want := none, shadow := some { t := t, flops := s.rim.flops, io := s.rim.io } }
        trc := { s.trc with snap := s.trc.snap.map (fun j => { j with gotRim := true }) } }

/-- The RIMCLKs that run: in DOZE none does (R488). -/
def rimClks (s : State) : BitVec 8 := if s.pwr.state = 2 then 0 else s.rim.clkRun

/-- RIMCLK n in one HUBCLK period: its divider counts the periods of its PLL, and the clock has at most one edge, 800 MHz being
below HUBCLK (R246; assumption 111). -/
def rimClock (cnt n : Nat) (s : State) : State :=
  let k := s.rim.net.plls.getD n 0
  let div := max 1 (s.rim.net.divs.getD n 1)
  let ph := Tbl.get 0 s.rim.phase n + Config.pllEdges (refPin (s.rim.net.refs.getD k 0)) k cnt
  if !(rimClks s).getLsbD n then s
  else
    let s := { s with rim := { s.rim with phase := Tbl.set 0 s.rim.phase n (ph % div) } }
    if ph < div then s else clockEdge n (Config.edgeTime n cnt) s

/-- One HUBCLK period of the rim. -/
def rimPeriod (s : State) : State :=
  if rimClks s = 0 then s
  else (List.range 8).foldl (fun s' n => rimClock s.freeCount n s') { s with freeCount := s.freeCount + 1 }

/-! ### Pins (R258, R259) -/

/-- The weak pull of a pin in the safe state: 0 none, 1 down, 2 up (R258). -/
def safePull (s : State) (p : Nat) : Nat :=
  match fld s.hw.straps 4 2 with
  | 0 => 0
  | 1 => 1
  | 2 => 2
  | _ => if p / 48 < 2 then 1 else 2

/-- The pull of a pin as PULL configures it (R267). -/
def configPull (s : State) (p : Nat) : Nat :=
  match leNat [s.rim.frames.getD (6144 * 192 + 16 * p) 0] / 8 % 4 with
  | 0 => safePull s p
  | 1 => 0
  | 2 => 1
  | _ => 2

/-- What a user pin does: nothing, with or without a pull; a driven level in each half-period; what a boundary cell drives. -/
inductive PinOut where
  | off
  | highZ (pull : Nat)
  | drive (first second : Bool) (pull : Nat)
  | scan (level : Bool) (pull : Nat)
  deriving DecidableEq, Repr

/-- Output enable and level of a pin in bypass mode: the fabric's own. -/
def bypassPin (s : State) (p : Nat) : HeldPin :=
  match s.rim.net.pin p with
  | some e => { oe := muxVal s e.oe, level := muxVal s e.outR }
  | none => { oe := false, level := false }

/-- The levels that bypass pins hold through a DOZE with DOZE_HOLD (R259). -/
def holdPins (s : State) : Tbl HeldPin :=
  tblOf { oe := false, level := false }
    (((List.range 192).filter (fun p => decide (pinMode s p = 3))).map (fun p => (p, bypassPin s p)))

/-- What an I/O cell drives: OUT_R and OUT_F in DDR, OUT_R in SDR, the fabric itself in bypass, and in DOZE
its last level there; inverted with INV_OUT. -/
def cellDrive (s : State) (p : Nat) : PinOut :=
  let x := ioReg s p
  let inv := (leNat [s.rim.frames.getD (6144 * 192 + 16 * p) 0]).testBit 5
  let byp := if s.pwr.state = 2 then Tbl.get { oe := false, level := false } s.rim.held p else bypassPin s p
  match pinMode s p with
  | 0 => .highZ (configPull s p)
  | 1 => if x.oe then .drive (x.outR != inv) (x.outR != inv) (configPull s p) else .highZ (configPull s p)
  | 2 => if x.oe then .drive (x.outR != inv) (x.outF != inv) (configPull s p) else .highZ (configPull s p)
  | _ => if byp.oe then .drive (byp.level != inv) (byp.level != inv) (configPull s p) else .highZ (configPull s p)

/-- The boundary cells drive a pin where its output enable cell says so (R517, R518). -/
def scanDrive (s : State) (p : Nat) : PinOut :=
  if s.tap.cells.getLsbD (Config.scanCell p 2) then .scan (s.tap.cells.getLsbD (Config.scanCell p 1)) (safePull s p)
  else .highZ (safePull s p)

/-- The state of a user pin (R259, R496, R499, R517): unpowered without VIO, safe after a thermal trip and in reset. -/
def pinOut (s : State) (p : Nat) : PinOut :=
  if !s.hw.vio then .off
  else if s.hw.thermtrip then .highZ (safePull s p)
  else if s.tap.ir = 0x00 ∨ s.tap.ir = 0x04 then scanDrive s p
  else if s.tap.ir = 0x03 then .highZ (safePull s p)
  else if decide (s.rim.state ≠ .running) || s.rim.softReset || !s.rim.live.getLsbD (p / 8) ||
      (decide (s.pwr.state = 2) && !regBit s (ro pRim 0x080) 2) then .highZ (safePull s p)
  else cellDrive s p

/-- Is every user pin in the safe state (R259, R260, R496)? -/
def pinsSafe (s : State) : Bool :=
  s.hw.thermtrip || decide (s.rim.state ≠ .running) || s.rim.softReset || decide (s.rim.live = 0) ||
    (decide (s.pwr.state = 2) && !regBit s (ro pRim 0x080) 2)

end Sys2Proof.Machine
end

