-- ==== Sys2Proof/Machine/Rim.lean ====
section
/-!
DEFINITION. The rim (09): its state and clocks (R246, R260, R261), the array queues (R248 to R253, R105), delay lines (R256,
R257) and the capture at a named edge (R262, R263).
-/
namespace Sys2Proof.Machine

def rimCtl : Nat := ro pRim 0x080

/-! ### The configuration's frames (R402) -/

/-- First byte of the I/O cell frames, and of the clock frame. -/
def ioFrames : Nat := 6144 * 192
def clockFrame : Nat := ioFrames + 192 * 16

/-- Byte `i` of the rim configuration in force. -/
def rimByte (s : State) (i : Nat) : Byte := s.rim.frames.getD i 0

/-- The RIMCLK of array queue k: 0 to 63 input, 64 to 127 output (R402). -/
def queueClk (s : State) (k : Nat) : Nat := fld (rimByte s (clockFrame + k)) 0 3

/-- Word `j` of the I/O cell frame of a pin, laid out as R267 shows it (DEDUCED, assumption 20). -/
def ioWord (s : State) (pin j : Nat) : Nat :=
  leNat ((List.range 4).map (fun i => rimByte s (ioFrames + 16 * pin + 4 * j + i)))

/-! ### Rim state (R260, R261) -/

/-- Is the RIMCLK of array queue k running? -/
def queueRuns (s : State) (k : Nat) : Bool := rimRuns s && s.rim.clkRun.getLsbD (queueClk s k)

/-- Empty all 128 array queues (R253). -/
def emptyQueues (s : State) : State := { s with aq := { inq := [], outq := [], outSkip := [] } }

/-- May RUN not be set: NO_CONFIG, DECODE_FAIL, or the loader in START (R261)? -/
def rimShut (s : State) : Bool := decide (s.rim.state = .noConfig ∨ s.rim.state = .decodeFail ∨ s.cfg.state = 5)

/-- A write of RIM_CTL (R261); in DOZE without DOZE_HOLD the pins are safe, and stay so until an edge after the exit (R260). -/
def rimCtlWrite (v : Reg) (s : State) : State :=
  let run := v.getLsbD 0
  let cur := regBit s rimCtl 0
  if s.run.active && (run != cur || v.getLsbD 1) then refuse s pRim
  else
    let s := setRegF s rimCtl 2 1 (fld v 2 1)
    let s := if decide (s.pwr.state = 2) && !v.getLsbD 2 then { s with rim := s.rim.dozeSafe } else s
    let s :=
      if run && !cur then
        if rimShut s then refuse s pRim
        else
          let s := setRegF s rimCtl 0 1 1
          { s with rim := { s.rim with release := true } }
      else if !run && cur then
        let s := setRegF s rimCtl 0 1 0
        { s with rim := { s.rim.restart with
            release := false, softReset := false
            state := if s.rim.state = .running then .held else s.rim.state } }
      else s
    if v.getLsbD 1 && decide (s.rim.state = .running) then { s with rim := { s.rim.restart with softReset := true } } else s

def execRimRun (v : Reg) (s : State) : Host.Outcome State Fault Refusal := finish (rimCtlWrite v s)
def execRimHold (v : Reg) (s : State) : Host.Outcome State Fault Refusal := finish (rimCtlWrite v s)
def execSoftReset (v : Reg) (s : State) : Host.Outcome State Fault Refusal := finish (rimCtlWrite v s)

/-- Release is requested and every RIMCLK in use runs: the rim leaves HELD, its flip-flops at their initial values and its
queues empty. -/
def rimRelease (s : State) : State :=
  if s.rim.release && decide (s.rim.state = .held ∧ s.rim.usedClks &&& ~~~s.rim.clkRun = 0 ∧ s.pwr.state ≠ 2) then
    emptyQueues { s with rim := { s.rim.restart with state := .running, release := false } }
  else s

def execRimRelease (s : State) : Host.Outcome State Fault Refusal := finish (rimRelease s)

/-- The RIMCLKs that PLL k drives. -/
def pllClks (s : State) (k : Nat) : BitVec 8 := bitsOf 8 ((List.range 8).filter (fun n => s.rim.net.plls.getD n 0 == k))

/-- PLL k locks to its reference, REFCLK or a clock-capable pin, and the RIMCLKs that it drives start (R246). -/
def pllLock (k : Nat) (s : State) : State :=
  let ref := s.rim.net.refs.getD k 0
  if decide (s.rim.state = .noConfig) || decide (s.pwr.state = 2) || decide (8 < ref) || ((refPin ref).isNone && s.hw.refLost) then s
  else { s with rim := { s.rim with pllLock := s.rim.pllLock ||| place 4 k 1 1, clkRun := s.rim.clkRun ||| pllClks s k } }

def execRimPllLock (k : Nat) (s : State) : Host.Outcome State Fault Refusal := finish (pllLock k s)

/-- RIMCLKs stop; a capture that waits for an edge of one of them cannot come (R263, R363). -/
def stopClocks (s : State) (clks : BitVec 8) : State :=
  let s := { s with rim := { s.rim with clkRun := s.rim.clkRun &&& ~~~clks } }
  match s.rim.want with
  | some w =>
    if clks.getLsbD w.clk then
      { s with rim := { s.rim with want := none }
               trc := { s.trc with snap := s.trc.snap.map (fun j => { j with wantRim := false, rimStatus := 0x0C }) } }
    else s
  | none => s

/-- PLL k loses lock, and its RIMCLKs stop. -/
def pllLoss (k : Nat) (s : State) : State :=
  stopClocks { s with rim := { s.rim with pllLock := s.rim.pllLock &&& ~~~(place 4 k 1 1) } } (pllClks s k)

def execRimPllLoss (k : Nat) (s : State) : Host.Outcome State Fault Refusal := finish (pllLoss k s)

def softDone (s : State) : State := { s with rim := { s.rim with softReset := false } }

def execSoftResetDone (s : State) : Host.Outcome State Fault Refusal := finish (softDone s)

/-! ### Array queues (R105, R248 to R253) -/

/-- The rim pushes an entry; a full queue discards it and sets its bit of IQ_OVF; a queue that the image does not enable
takes nothing (R248, R249). -/
def iqPush (q : Nat) (w : Word) (s : State) : State :=
  if !queueRuns s q || !(s.cfg.resValid && s.img.inQ.getLsbD q) then s
  else if (inqOf s q).length < 64 then
    { s with aq := { s.aq with inq := Tbl.set [] s.aq.inq q (inqOf s q ++ [w]) } }
  else orReg s (ro pRim (0x0A8 + 4 * (q / 32))) (place 32 (q % 32) 1 1)

def execIqPush (q : Nat) (w : Word) (s : State) : Host.Outcome State Fault Refusal := finish (iqPush q w s)

/-- Has every output flit of cycle c or earlier reached the rim stop? -/
def outFlitsIn (s : State) (c : Nat) : Bool :=
  !(s.ex.flits.any (fun f => f.out && decide (f.cyc ≤ c))) &&
    (runTiles s).all (fun p =>
      !((tileOf s p).released.any (fun f => f.out && decide (f.cyc ≤ c))) &&
      !((tileOf s p).windows.any (fun w => decide (w.tgt = .outQueue ∧ w.cyc ≤ c))))

/-- An entry that the rim popped before a rollback is not presented again (R254), and one that was shown before counts as the
operation that it was (R425, R427); a tapped queue's entry goes to channel 32
as index 64 + q (R318). -/
def showEntry (s : State) (q : Nat) (l : List OEntry) (e : OEntry) : State :=
  let out := decide (Tbl.get 0 s.recov.shown q ≤ e.cyc)
  let s := { s with recov := { s.recov with shown := Tbl.set 0 s.recov.shown q (max (Tbl.get 0 s.recov.shown q) (e.cyc + 1)) } }
  let s := if out && (reg64 s (ro pAcq 0xC38) (ro pAcq 0xC3C)).testBit q then
      { s with mkh := { s.mkh with probes := s.mkh.probes ++ [(64 + q, e.cyc, e.bits)] } }
    else s
  if e.cyc < Tbl.get 0 s.aq.outSkip q then putOutq s q (l.filter (fun x => decide (x.cyc ≠ e.cyc)))
  else putOutq s q (l.map (fun x => if x.cyc = e.cyc then { x with visible := true } else x))

/-- The oldest entry not yet visible becomes so: every tile has begun the cycle after it, and its flits are in (R105). -/
def entryVisible (q : Nat) (s : State) : State :=
  let l := outqOf s q
  match l.find? (fun e => !e.visible) with
  | none => s
  | some e =>
    if (runTiles s).all (fun p => decide (e.cyc < (tileOf s p).cycle)) && outFlitsIn s e.cyc then showEntry s q l e else s

def execOutQueueEntryVisible (q : Nat) (s : State) : Host.Outcome State Fault Refusal := finish (entryVisible q s)

/-- OQ_VALID rises for a visible entry at the head (R249, R250). -/
def raiseValid (q : Nat) (s : State) : State :=
  match outqOf s q with
  | e :: rest => if e.visible && queueRuns s (64 + q) && s.cfg.resValid && s.img.outQ.getLsbD q then putOutq s q ({ e with valid := true } :: rest) else s
  | [] => s

def execOqValid (q : Nat) (s : State) : Host.Outcome State Fault Refusal := finish (raiseValid q s)

/-- A pop with OQ_VALID at 1 removes the entry and frees its place. -/
def popEntry (q : Nat) (s : State) : State :=
  match oqHead s q with
  | some e =>
    if queueRuns s (64 + q) then
      let s := putOutq s q (outqOf s q).tail
      { s with aq := { s.aq with outSkip := Tbl.set 0 s.aq.outSkip q (e.cyc + 1) } }
    else s
  | none => s

def execOqPop (q : Nat) (s : State) : Host.Outcome State Fault Refusal := finish (popEntry q s)

/-- A write of AQ_CTL: CLR empties every queue, and during a run the write is discarded (R253, R265). -/
def aqClr (v : Reg) (s : State) : State :=
  if !v.getLsbD 0 then writeRW s (ro pRim 0x0A0) v
  else if s.run.active then refuse s pRim
  else emptyQueues (writeRW s (ro pRim 0x0A0) v)

def execAqClr (v : Reg) (s : State) : Host.Outcome State Fault Refusal := finish (aqClr v s)

/-! ### Delay lines (R256, R257, R268) -/

def delayOf (s : State) (pin : Nat) : DelayLine := Tbl.get { target := 0, tap := 0 } s.rim.delay pin

def putDelay (s : State) (pin : Nat) (x : DelayLine) : State :=
  { s with rim := { s.rim with delay := Tbl.set { target := 0, tap := 0 } s.rim.delay pin x } }

/-- A write of DELAY: a walk toward the target while RUNNING, else at once. -/
def delayWrite (pin : Nat) (v : Reg) (s : State) : State :=
  let t := fld v 0 10
  if 192 ≤ pin then s
  else putDelay s pin { target := t, tap := if s.rim.state = .running then (delayOf s pin).tap else t }

def execDelayWrite (pin : Nat) (v : Reg) (s : State) : Host.Outcome State Fault Refusal := finish (delayWrite pin v s)

/-- One tap toward the target. -/
def DelayLine.walk (x : DelayLine) : DelayLine :=
  { x with tap := if x.tap < x.target then x.tap + 1 else if x.target < x.tap then x.tap - 1 else x.tap }

def delayStep (pin : Nat) (s : State) : State := putDelay s pin (delayOf s pin).walk

def execDelayWalkStep (pin : Nat) (s : State) : Host.Outcome State Fault Refusal := finish (delayStep pin s)

/-- Tracking keeps the lines calibrated while the rim runs, as start-up and a DOZE exit leave them; no setting changes
(R256). -/
def delayTrack (s : State) : State :=
  if rimRuns s then { s with rim := { s.rim with calibrated := true } } else s

def execDelayTrack (s : State) : Host.Outcome State Fault Refusal := finish (delayTrack s)

/-! ### Capture (R262, R263) -/

/-- The 12,408 bytes of a rim shadow: the flip-flops in cell order, then IN_R, IN_F, OUT_R, OUT_F and OE of each pin (R460). -/
def RimShot.bytes (x : RimShot) : List Byte :=
  let flops := (x.flops.map (fun e => if e.2 then 2 ^ e.1 else 0)).sum
  let io := (x.io.map (fun e =>
    (e.2.inR.toNat + 2 * e.2.inF.toNat + 4 * e.2.outR.toNat + 8 * e.2.outF.toNat + 16 * e.2.oe.toNat) * 2 ^ (98304 + 5 * e.1))).sum
  leBytes 12408 (flops + io)

/-- The named edge comes at the present timebase with the fraction. -/
def rimCapture (frac : BitVec 8) (s : State) : State :=
  match s.rim.want with
  | none => s
  | some w =>
    if !w.due (s.tb + BitVec.ofNat 64 frac.toNat) || !(rimClks s).getLsbD w.clk then s else clockEdge w.clk frac s

def execRimCapture (frac : BitVec 8) (s : State) : Host.Outcome State Fault Refusal := finish (rimCapture frac s)

end Sys2Proof.Machine
end

