-- ==== Sys2Proof/Machine/Lanes.lean ====
section
/-!
DEFINITION. Raduok lanes (10): bring-up, the link layer with its sequence numbers and credits, the content of received
packets, lane loss, electrical idle, recalibration and the port registers.
-/
namespace Sys2Proof.Machine

def lnkReg (n o : Nat) : Nat := ro (pLnk n) o

def modPort (s : State) (n : Nat) (f : Port → Port) : State := putPort s n (f (portOf s n))

/-- The lane reference input that serves a port (R20). -/
def refOf (n : Nat) : Nat := if n < 6 then 0 else if n < 12 then 1 else if n < 18 then 2 else 3

def isLink (n : Nat) : Bool := decide (n < 16)

def laneEn (s : State) (n : Nat) : Nat := regF s (lnkReg n 0x080) 0 4

/-- Is the port in a link map of the active run (R111, R309)? -/
def runPort (s : State) (n : Nat) : Bool := s.run.active && (peers s).any (fun d => (linkPorts s d).contains n)

/-! ### Control words and packets (R283, R284) -/

def Port.lane (x : Port) (r : Nat) : Lane := Tbl.get Lane.reset x.lanes r

/-- Physical lanes that transmit: enabled, with a usable EQ entry (R275). -/
def txLanes (s : State) (n : Nat) : BitVec 4 :=
  bitsOf 4 ((List.range 4).filter (fun r => (laneEn s n).testBit r && !((portOf s n).lane r).eqBad))

/-- Blocks leave the port. -/
def onWire (s : State) (n : Nat) (bs : List (BitVec 66)) : State :=
  modPort s n (fun x => bs.foldl (Port.put (devIdx s) n (txLanes s n)) x)

/-- The same control word on every active lane. -/
def onAllLanes (s : State) (n k : Nat) (w : Word) : State :=
  onWire s n (List.replicate (k * ones 4 (portOf s n).txAct.toNat) (ctlBlk w))

def sopWord (vc seq len kind : Nat) : Word :=
  ctlWord 1 ||| place 64 54 2 vc ||| place 64 42 12 seq ||| place 64 33 9 len ||| place 64 29 4 kind

/-- A packet as it is sent: SOP, payload, EOP with the CRC. -/
def Pkt.frame (p : Pkt) : List (BitVec 66) :=
  let sop := sopWord p.vc p.seq p.words.length p.kind
  ctlBlk sop :: p.words.map dataBlock ++ [ctlBlk (ctlWord 2 ||| place 64 0 32 (packetCrc sop p.words).toNat)]

def ackWord (seq : Nat) : Word := ctlWord 3 ||| place 64 42 12 seq
def nakWord (seq : Nat) : Word := ctlWord 4 ||| place 64 42 12 seq

/-- Credit units of a payload (R286). -/
def unitsOf (len : Nat) : Nat := (len + 7) / 8

/-- The units the device advertises for a VC (R286). -/
def ownPool (n vc : Nat) : Nat :=
  match vc with
  | 0 => if isLink n then 512 else 0
  | 1 => if isLink n then 0 else 1024
  | 2 => 16
  | _ => 8

/-- HELLO, or HELLO_ACK, as this device sends it (R282, R302). -/
def helloWords (s : State) (n op : Nat) : List Word :=
  [place 64 56 8 op ||| place 64 44 4 (devIdx s) ||| place 64 38 4 (steppingCode s) ||| place 64 33 5 n ||| place 64 0 16 1,
   place 64 48 16 (ownPool n 0) ||| place 64 32 16 (ownPool n 1) ||| place 64 16 16 (ownPool n 2) |||
     place 64 0 16 (ownPool n 3)]

/-- A CONTROL packet outside sequence numbers; until the partner's HELLO has come, at most four units of them (R282). -/
def sendEarly (s : State) (n : Nat) (ws : List Word) : State :=
  let x := portOf s n
  let u := x.early + unitsOf ws.length
  if !x.helloSeen && decide (4 < u) then s
  else onWire (putPort s n { x with early := u }) n (Pkt.frame { vc := 2, kind := 2, seq := 0, words := ws })

/-- MAPSYNC: the tile map, entry i in [16(i mod 4) + 12 : 16(i mod 4)] of word 1 + i div 4 (R302). -/
def mapSyncWords (s : State) : List Word :=
  place 64 56 8 4 :: (List.range 16).map (fun k => (List.range 4).foldl (fun (w : Word) j =>
    w ||| place 64 (16 * j) 5 (regF s (mapReg (4 * k + j)) 0 5) ||| place 64 (16 * j + 5) 8 (epochOf s (4 * k + j))) 0)

/-- MAPSYNC goes out on every link port that is UP. -/
def sendMapSync (s : State) : State :=
  (List.range 16).foldl (fun s n => if portUp s n then queueControl s n (mapSyncWords s) else s) s

/-! ### Port resets, port loss, violations (R295, R304, R306) -/

/-- A port of an active run goes down: the run stops under R44 (R111). -/
def runPortDown (s : State) (n : Nat) : State :=
  if runPort s n then stopEach s 8 else s

/-- The link layer as it starts: no packet, no credit used, sequence numbers 0 (R282). -/
def Port.fresh (x : Port) : Port :=
  { x with txSeq := 0, rxSeq := 0, unacked := [], resend := 0, txUnits := [], txFreed := [], rxUnits := [], rxFreed := [],
           creditDue := false, ackDue := false, errSince := false, lastNak := none, timeouts := 0, pings := [],
           early := 0, helloSeen := false, helloGot := false, ackSent := false, ackGot := false, ctlOld := x.ctlRx.length }

/-- HANDSHAKE begins: the device sends HELLO (R282). -/
def startHandshake (s : State) (n : Nat) : State :=
  sendEarly (modPort s n (fun x => { x.fresh with state := 7 })) n (helloWords s n 1)

/-- May lanes be driven: in RUN, with no failed load and no thermal trip (R397, R488, R496)? -/
def mayDrive (s : State) : Bool :=
  decide (s.pwr.state = 0) && !decide (8 ≤ s.cfg.state ∧ s.cfg.state ≤ 11) && !s.hw.thermtrip

/-- The lanes transmit, out of electrical idle or from silence (R277, R298). -/
def driveLanes (s : State) (n : Nat) : State :=
  if mayDrive s then modPort s n (fun x => x.driveLanes (devIdx s) n (txLanes s n)) else s

/-- Every lane goes to electrical idle without the steps of R297: a failed load, a thermal trip (R397, R496). -/
def lanesIdle (s : State) : State :=
  (List.range 24).foldl (fun s n =>
    if (portOf s n).drive = 0 then s
    else modPort s n (fun x => { x with eidleTx := true, drive := 0, state := if x.state = 8 then 9 else x.state })) s

/-- The next alignment period of the port begins (R273). -/
def nextPeriod (s : State) (n : Nat) : State := modPort s n (fun x => x.fillPeriod.period (devIdx s) n (txLanes s n))

/-- A run is no longer held for the recalibration of a port (R296). -/
def endRecal (s : State) (n : Nat) : State :=
  let s := if s.run.holds.contains (.recal n) then noteGate s else s
  modPort { s with run := { s.run with holds := s.run.holds.filter (fun h => decide (h ≠ .recal n)) } } n
    (fun x => { x with recal := false })

/-- RESET on every active lane, for which an idle transmitter leaves electrical idle where it may (R295, R306). -/
def sendReset (s : State) (n : Nat) : State :=
  let s := driveLanes s n
  if (portOf s n).drive = 0 then s else onAllLanes s n 1 (ctlWord 0x0A)

/-- A link-layer reset of a port that has reached HANDSHAKE: RESET on every active lane, and HANDSHAKE again (R306). -/
def resetPort (s : State) (n : Nat) : State :=
  let x := portOf s n
  if x.state < 7 then s
  else
    let s := startHandshake (endRecal (sendReset (putPort s n { x with rdy := [], viols := [] }) n) n) n
    let s := logEvent (stick s (pLnk n) 3) (pLnk n) 0x0042 0
    if runPort s n then runPortDown (logEvent (stick s (pLnk n) 2) (pLnk n) 0x0041 0) n else s

/-- An EQ entry within the ranges of R275. -/
def eqOk (w : Word) : Bool :=
  let t := fun lo => signed 8 (fld w lo 8)
  decide (-16 ≤ t 0 ∧ t 0 ≤ 0 ∧ -32 ≤ t 8 ∧ t 8 ≤ 0 ∧ 16 ≤ t 16 ∧ t 16 ≤ 63 ∧ -24 ≤ t 24 ∧ t 24 ≤ 0 ∧
    t 16 - t 0 - t 8 - t 24 ≤ 63 ∧ fld w 40 24 = 0)

/-- Every enabled lane as it comes up again: with the EQ entry written for it, nothing found yet (R281, R310). -/
def Port.bringLanes (x : Port) (en : Nat) : Port :=
  { x with lanes := ((List.range 4).filter (fun r => en.testBit r)).foldl (fun m r => Tbl.upd Lane.reset m r (fun l =>
      { l with eq := l.eqNext, eqBad := !eqOk l.eqNext, failed := false, inv := false, hist := 0, gap := false })) x.lanes }

/-- Bring-up starts at SIGNAL, where the lanes send commas and IDLE blocks (R277). -/
def startBringup (s : State) (n : Nat) : State :=
  driveLanes (endRecal (modPort s n (fun x => { x.fresh.bringLanes (laneEn s n) with
    state := 1, ended := false, rdy := [], rxAct := 0, txAct := 0, txDrop := 0, rxLost := 0, eidleRx := false })) n) n

/-- The port goes down: RESET, and bring-up restarts at SIGNAL (R295). -/
def portDown (s : State) (n : Nat) : State :=
  runPortDown (logEvent (stick (startBringup (sendReset s n) n) (pLnk n) 2) (pLnk n) 0x0041 0) n

/-- A protocol violation: counted, recorded, logged; the VIOL_LIMIT-th within 1 ms resets the port (R304, R306). -/
def violate (s : State) (n code seq : Nat) : State :=
  let d := place 32 0 8 code ||| place 32 8 12 seq ||| place 32 31 1 1
  let s := setReg (bump s (lnkReg n 0x094) 1) (lnkReg n 0x098) d
  let s := logEvent (stick s (pLnk n) 4) (pLnk n) 0x0043 d
  let recent := ((portOf s n).viols ++ [s.tb]).filter (fun t => decide ((s.tb - t).toNat < 256000000))
  let s := modPort s n (fun x => { x with viols := recent })
  let lim := regF s (lnkReg n 0x09C) 0 8
  if lim ≠ 0 ∧ lim ≤ recent.length then resetPort s n else s

/-! ### Bring-up (R277 to R282) -/

/-- The attempt ends; FAIL records the state that failed (R280). -/
def endAttempt (s : State) (n st : Nat) : State := modPort s n (fun x => { x with fail := st, ended := true })

/-- Physical lanes that still take part: enabled, with a usable EQ entry, not failed. -/
def liveLanes (s : State) (n : Nat) : List Nat :=
  let x := portOf s n
  (List.range 4).filter (fun r => (laneEn s n).testBit r && !(x.lane r).eqBad && !(x.lane r).failed)

/-- Enough lanes to go on: four, or three with ALLOW3 (R280). -/
def enoughLanes (s : State) (n : Nat) (live : List Nat) : Bool :=
  decide (live.length = 4) || (decide (live.length = 3) && regBit s (lnkReg n 0x080) 4)

def signalSeen (n : Nat) (s : State) : State :=
  let x := portOf s n
  if mayDrive s ∧ x.state = 1 ∧ x.ended = false ∧ s.hw.laneRef.getLsbD (refOf n) then putPort s n { x with state := 2 } else s

def execSignalDetect (n : Nat) (s : State) : Host.Outcome State Fault Refusal := finish (signalSeen n s)

def cdrDone (n : Nat) (s : State) : State :=
  let x := portOf s n
  if mayDrive s ∧ x.state = 2 ∧ x.ended = false then putPort s n { x with state := 3 } else s

def execCdrLock (n : Nat) (s : State) : Host.Outcome State Fault Refusal := finish (cdrDone n s)

/-- Straight or reversed lane order, one DEV and one PORT on all lanes (R278). -/
def orderOk (got : List (Nat × CommaSeen)) : Bool :=
  (got.all (fun g => decide (commaLane g.2.block = g.1)) || got.all (fun g => decide (commaLane g.2.block = 3 - g.1))) &&
  got.all (fun g => got.all (fun h =>
    decide (commaDevOf g.2.block = commaDevOf h.2.block ∧ commaPort g.2.block = commaPort h.2.block)))

/-- COMMA, ORDER and DESKEW over the live lanes: the lanes that come through with their commas, or the state that failed
(R277 to R280). -/
def findLanes (s : State) (n : Nat) (seen : List (Option CommaSeen)) (late : BitVec 4) : Except Nat (List (Nat × CommaSeen)) :=
  let got := (liveLanes s n).filterMap (fun r =>
    match seen[r]? with
    | some (some c) => if commaOk c.block then some (r, c) else none
    | _ => none)
  let on := got.filter (fun g => !late.getLsbD g.1)
  if !enoughLanes s n (got.map (·.1)) then .error 3
  else if !orderOk got then .error 4
  else if !enoughLanes s n (on.map (·.1)) then .error 5
  else .ok on

/-- What the commas fix: polarity and logical number of each lane, the partner and its ACT; other lanes are out. -/
def Port.lanesFound (x : Port) (on : List (Nat × CommaSeen)) : Port :=
  let first := fun (f : BitVec 66 → Nat) => (on.head?.map (fun g => f g.2.block)).getD 0
  { x with
    commaDev := first commaDevOf, rxStripe := BitVec.ofNat 4 (first commaAct)
    lanes := (List.range 4).foldl (fun m r => Tbl.upd Lane.reset m r (fun l =>
      match on.find? (fun g => g.1 == r) with
      | some g => { l with inv := g.2.inverted, logical := commaLane g.2.block, failed := false }
      | none => { l with failed := true })) x.lanes }

def commaFound (n : Nat) (seen : List (Option CommaSeen)) (late : BitVec 4) (s : State) : State :=
  let x := portOf s n
  if !mayDrive s ∨ x.state ≠ 3 ∨ x.ended then s
  else match findLanes s n seen late with
    | .error st => endAttempt s n st
    | .ok on => putPort s n { x.lanesFound on with state := 6 }

def execCommaAlign (n : Nat) (seen : List (Option CommaSeen)) (late : BitVec 4) (s : State) :
    Host.Outcome State Fault Refusal := finish (commaFound n seen late s)

/-- The lanes that decoded eight clean codewords carry the port's blocks, from the next alignment period on. -/
def lanesUp (s : State) (n : Nat) (live : List Nat) : State :=
  modPort s n (fun x => ({ x.fillPeriod with
    lanes := (List.range 4).foldl (fun m r => Tbl.upd Lane.reset m r (fun l => { l with failed := !live.contains r })) x.lanes
    rxAct := bitsOf 4 (live.map (fun r => (x.lane r).logical)), txAct := bitsOf 4 live, txDrop := 0, rxLost := 0 } : Port).period
      (devIdx s) n (txLanes s n))

/-- A codeword is decoded: its wrong symbols are corrected and counted, or it is uncorrectable (R273, R281, R308, R310). -/
def decoded (s : State) (n : Nat) (e : FecErr) : State :=
  let s := modPort s n (fun x => { x with lanes := Tbl.upd Lane.reset x.lanes e.lane (fun l =>
    { l with syms := l.syms + BitVec.ofNat 32 e.wrong
             hist := (l.hist <<< (min 16 e.clean + 1)) ||| place 16 0 1 (!corrects e.wrong).toNat }) })
  if corrects e.wrong then bump s (lnkReg n 0x0A4) e.wrong else bump s (lnkReg n 0x0A8) 1

/-- FEC: each live lane decodes eight clean codewords, `errs` being the others of the time; the port enters HANDSHAKE and sends
HELLO (R277, R280, R282). -/
def fecFound (n : Nat) (clean : BitVec 4) (errs : List FecErr) (s : State) : State :=
  let x := portOf s n
  let live := (liveLanes s n).filter (fun r => clean.getLsbD r)
  if !mayDrive s ∨ x.state ≠ 6 ∨ x.ended then s
  else
    let s := errs.foldl (fun s e => decoded s n e) s
    if !enoughLanes s n live then endAttempt s n 6 else startHandshake (lanesUp s n live) n

def execFecLock (n : Nat) (clean : BitVec 4) (errs : List FecErr) (s : State) : Host.Outcome State Fault Refusal :=
  finish (fecFound n clean errs s)

/-- Bring-up restarts at SIGNAL: 1 ms after a failed attempt, or 100 ms without reaching UP (R280). -/
def retryBringup (n : Nat) (s : State) : State :=
  let x := portOf s n
  if laneEn s n = 0 ∨ x.state = 0 ∨ 8 ≤ x.state then s
  else
    let f := if x.ended then x.fail else x.state
    modPort (startBringup s n) n (fun y => { y with fail := f })

def execBringupRetry (n : Nat) (s : State) : Host.Outcome State Fault Refusal := finish (retryBringup n s)

/-- A HELLO of this handshake has failed its checks. -/
def resendHello (n : Nat) (s : State) : State :=
  let x := portOf s n
  if mayDrive s ∧ x.state = 7 ∧ x.helloSeen ∧ x.helloGot = false then sendEarly s n (helloWords s n 1) else s

def execHelloResend (n : Nat) (s : State) : Host.Outcome State Fault Refusal := finish (resendHello n s)

/-- The port is UP: the link layer starts, and a link port sends RUNINFO and MAPSYNC (R282, R302). -/
def goUp (s : State) (n : Nat) : State :=
  if !mayDrive s then s else
  let s := modPort s n (fun x => { x.fresh with state := 8 })
  if isLink n then queueControl (queueControl s n (runInfoWords s)) n (mapSyncWords s) else s

/-! ### Electrical idle (R297) -/

/-- The transmitter enters electrical idle once nothing is left to send or to be acknowledged. -/
def tryIdle (s : State) (n : Nat) : State :=
  let x := portOf s n
  if x.state = 8 ∧ x.eidleReq ∧ x.rdy = [] ∧ x.unacked = [] ∧ runPort s n = false then
    modPort (onAllLanes s n 2 (ctlWord 0x09)) n (fun x => { x with state := 9, eidleTx := true, drive := 0 })
  else s

/-- Ask for electrical idle, or withdraw the request. -/
def askIdle (s : State) (n : Nat) (on : Bool) : State := tryIdle (modPort s n (fun x => { x with eidleReq := on })) n

/-- The transmitter leaves electrical idle: exit burst, extra comma, a new alignment period (R298). -/
def leaveIdle (s : State) (n : Nat) : State :=
  if (portOf s n).eidleTx && mayDrive s then
    driveLanes (modPort s n (fun x => { x with state := if x.state = 9 then 8 else x.state })) n
  else s

/-- A control block goes out: an idle transmitter leaves idle for it, where it may, and enters it again. -/
def sendBlock (s : State) (n : Nat) (w : Word) : State :=
  if (portOf s n).eidleTx && !mayDrive s then s else tryIdle (onWire (leaveIdle s n) n [ctlBlk w]) n

/-- A port as the device enters IDLE or DOZE (R491): one that is UP asks for electrical idle; bring-up goes back to SIGNAL, and
its transmitter enters electrical idle at once, with nothing to be acknowledged. -/
def powerIdle (s : State) (n : Nat) : State :=
  let x := portOf s n
  if 8 ≤ x.state ∨ x.state = 0 then askIdle s n true
  else if x.drive = 0 then s
  else modPort (onAllLanes s n 2 (ctlWord 0x09)) n (fun x => { x.fresh with
    state := 1, ended := false, eidleTx := true, drive := 0 })

/-- A port as the device is, or stays, in RUN (R297): bring-up goes on, and a port past it stands as PORT_CTL.EIDLE has it. -/
def portAwake (s : State) (n : Nat) : State :=
  let want := regBit s (lnkReg n 0x080) 5 && !runPort s n
  let s := modPort s n (fun x => { x with eidleReq := want })
  let x := portOf s n
  if 1 ≤ x.state ∧ x.state ≤ 7 then driveLanes s n else if want then s else leaveIdle s n

def portsAwake (s : State) : State := (List.range 24).foldl portAwake s

/-- An entry that has been asked for comes to nothing: REASON WAKE (R490). -/
def refuseWake (s : State) : State :=
  stick { s with pwr := { s.pwr with entering := none, thenIdle := false, reason := 5 } } pPwr 2

/-- A wake event (R492): the device leaves IDLE or DOZE, and an entry in progress, or one to follow the exit (R489), is
abandoned; after a thermal trip nothing wakes (R494). -/
def wake (s : State) : State :=
  if s.hw.thermtrip then s
  else
    let s' := if s.pwr.entering.isSome || s.pwr.thenIdle then refuseWake s else s
    if s.pwr.state ≠ 0 then { s' with pwr := { s'.pwr with exiting := true } }
    else if s.pwr.entering.isSome then portsAwake s' else s'

/-! ### The receiver (R288) -/

/-- Does the port take packets and control words: UP, its transmitter idle or not, or draining for RECAL, and the partner's
signal present? -/
def rxOpen (s : State) (n : Nat) : Bool :=
  let x := portOf s n
  decide (x.state = 8 ∨ x.state = 9 ∨ x.state = 0xA) && !x.eidleRx

/-! ### Lane loss (R281, R294, R295) -/

def laneDownWord (lost : BitVec 4) : Word := ctlWord 8 ||| place 64 0 4 lost.toNat

/-- A direction lost a lane: DEGRADED and LANE_DEGRADED (R294). -/
def degraded (s : State) (n : Nat) : State := logEvent (stick s (pLnk n) 1) (pLnk n) 0x0040 0

/-- Receive lane `r` is lost: LANE_DOWN for the first lane of the direction, PORT_DOWN for the second (R294, R295). -/
def rxLosesLane (n r : Nat) (s : State) : State :=
  let x := portOf s n
  let l := (x.lane r).logical
  if (x.lane r).failed || !x.rxAct.getLsbD l then s
  else
    let act := x.rxAct &&& ~~~(place 4 l 1 1)
    if ones 4 act.toNat < 3 then portDown s n
    else
      let lost := x.rxLost ||| place 4 l 1 1
      degraded (sendBlock (putPort s n { x with
        rxAct := act, rxLost := lost, lanes := Tbl.set Lane.reset x.lanes r { x.lane r with failed := true } }) n
        (laneDownWord lost)) n

/-- A lane fails on a port that is UP, its partner's signal being expected (R281, R297). -/
def laneFails (n r : Nat) (s : State) : State := if rxOpen s n then rxLosesLane n r s else s

/-! ### Packets as they arrive (R284, R288) -/

/-- A packet as its blocks spell it (R284). -/
structure Frame where
  sop : Word
  payload : List Word
  eop : Word
  deriving DecidableEq, Repr

/-- What the blocks of a packet amount to: no SOP, a packet cut off before its EOP by another block, or a whole packet. -/
inductive Framing where
  | none
  | broken (seq : Nat) (byError : Bool)
  | whole (f : Frame)
  deriving DecidableEq, Repr

def isCode (code : Nat) (b : BitVec 66) : Bool := isCtl b && fld b 58 8 == code

/-- The blocks before a packet's SOP. -/
def strays (bs : List (BitVec 66)) : List (BitVec 66) := bs.takeWhile (fun b => !isCode 1 b)

def framing (bs : List (BitVec 66)) : Framing :=
  match bs.dropWhile (fun b => !isCode 1 b) with
  | [] => .none
  | sop :: rest =>
    let data := rest.takeWhile isData
    match rest.drop data.length with
    | [] => .broken (fld sop 44 12) false
    | e :: _ =>
      if isCode 2 e then .whole { sop := blkWord sop, payload := data.map blkWord, eop := blkWord e }
      else .broken (fld sop 44 12) (errored e)

def Frame.kind (k : Frame) : Nat := fld k.sop 29 4
def Frame.vc (k : Frame) : Nat := fld k.sop 54 2
def Frame.seq (k : Frame) : Nat := fld k.sop 42 12
def Frame.len (k : Frame) : Nat := fld k.sop 33 9
def Frame.crc (k : Frame) : BitVec 32 := BitVec.ofNat 32 (fld k.eop 0 32)
def Frame.word (k : Frame) (i : Nat) : Word := k.payload.getD i 0
def Frame.op (k : Frame) : Nat := fld (k.word 0) 56 8

def knownOp (op : Nat) : Bool := [1, 2, 3, 4, 0x10, 0x7F].contains op

/-- Is what arrived for the row of this PKIND and OP?  Reserved kinds and operations, and blocks that are no whole packet, go
to any row. -/
def forRow (k : LinkPkt) (kind op : Nat) : Bool :=
  match framing k.blocks with
  | .whole f => decide (3 < f.kind) || (decide (f.kind = kind) && (decide (kind ≠ 2 ∨ f.op = op) || !knownOp f.op))
  | _ => true

/-- SOP as R283 and R284 have it: PKIND and VC match, LEN in range, as many blocks as LEN says, no reserved bit. -/
def Frame.headerOk (k : Frame) : Bool :=
  decide (fld k.sop 0 29 = 0 ∧ k.payload.length = k.len) &&
  (match k.kind with
   | 0 => decide (k.vc = 0 ∧ (k.len = 21 ∨ k.len = 1))
   | 1 => decide (k.vc = 1 ∧ 3 ≤ k.len ∧ k.len ≤ 258)
   | 2 => decide (k.vc = 2 ∧ 1 ≤ k.len ∧ k.len ≤ 32)
   | 3 => decide (k.vc = 3 ∧ k.len = 3)
   | _ => false)

/-- NAK(e), at most one for the same e in 1 µs (R288). -/
def sendNak (s : State) (n : Nat) : State :=
  let x := portOf s n
  let e := x.rxSeq % 4096
  let recent := match x.lastNak with | some (e', t) => decide (e' = e ∧ (s.tb - t).toNat < 256000) | none => false
  if recent then s
  else sendBlock (putPort s n { x with lastNak := some (e, s.tb) }) n (nakWord e)

/-- An error of the line: an uncorrectable codeword, an errored block, a CRC failure (R288). -/
def lineError (s : State) (n : Nat) : State := sendNak (modPort s n (fun x => { x with errSince := true })) n

/-- A block outside a packet: data, or an EOP, where none belongs; a reserved code or bit; control words of other codes have
commands of their own (R304).  A line error explains what follows it until a packet is accepted. -/
def stray (n : Nat) (err : Bool) (s : State) (b : BitVec 66) : State :=
  if isData b || isCode 2 b then (if err || (portOf s n).errSince then s else violate (sendNak s n) n 0x02 0)
  else if err then s
  else if isCtl b && (decide (0x0B ≤ fld b 58 8) || (isCode 0 b && decide (fld b 2 56 ≠ 0))) then violate s n 0x01 0
  else s

/-- Does the line bring an uncorrectable codeword or an errored block? -/
def badLine (k : LinkPkt) : Bool := k.errs.any (fun e => !corrects e.wrong) || k.blocks.any errored

/-- A lane that has lost FEC lock: 4 uncorrectable codewords of the last 16, or a second comma missing in a row (R281). -/
def lockLost (s : State) (n r : Nat) : Bool := decide (4 ≤ ones 16 ((portOf s n).lane r).hist.toNat)

/-- An expected comma: the second missing in a row fails the lane (R281). -/
def commaDue (n : Nat) (s : State) (c : CommaDue) : State :=
  let gap := ((portOf s n).lane c.lane).gap
  let s := modPort s n (fun x => { x with lanes := Tbl.upd Lane.reset x.lanes c.lane (fun l => { l with gap := !c.seen }) })
  if gap && !c.seen then laneFails n c.lane s else s

/-- What the line brings with or without a packet: codewords, commas, errors, and the blocks before the packet. -/
def takeLine (n : Nat) (k : LinkPkt) (s : State) : State :=
  let s := k.errs.foldl (fun s e =>
    let s := decoded s n e
    if lockLost s n e.lane then laneFails n e.lane s else s) s
  let s := k.commas.foldl (commaDue n) s
  let s := if badLine k then lineError s n else s
  (strays k.blocks).foldl (stray n (badLine k)) s

/-- Why a framed packet is not one to be judged by its number: a line error, which explains whatever else is wrong with it
(R304), or a violation; the packet is dropped. -/
def frameFails (n : Nat) (k : LinkPkt) (s : State) : State × Option Frame :=
  match framing k.blocks with
  | .none => (s, none)
  | .broken q byError => (if byError || badLine k then s else violate (sendNak s n) n 0x02 q, none)
  | .whole f =>
    if packetCrc f.sop f.payload ≠ f.crc then (lineError s n, none)
    else if fld f.eop 32 24 = 0 && f.headerOk then (s, some f)
    else if badLine k then (s, none)
    else (violate (sendNak s n) n (if fld f.eop 32 24 ≠ 0 then 0x01 else 0x02) f.seq, none)

/-- The packet is accepted: e advances, an ACK is due, its units are used, and freed unless software holds them. -/
def acceptPkt (s : State) (n vc units : Nat) (hold : Bool) : State :=
  modPort s n (fun x => { x with
    rxSeq := x.rxSeq + 1, ackDue := true, errSince := false
    rxUnits := Tbl.upd 0 x.rxUnits vc (· + units)
    rxFreed := if hold then x.rxFreed else Tbl.upd 0 x.rxFreed vc (· + units)
    creditDue := x.creditDue || !hold })

/-- Is there a packet of this many units of room in the VC's pool? -/
def roomFor (x : Port) (n vc units : Nat) : Bool :=
  decide (Tbl.get 0 x.rxUnits vc - Tbl.get 0 x.rxFreed vc + units ≤ ownPool n vc)

/-- CTL_RX holds 512 words: a USER packet that does not fit waits at the partner, which resends it (R303). -/
def fifoFull (x : Port) (k : Frame) : Bool :=
  decide (k.kind = 2 ∧ k.op = 0x10 ∧ 512 < (x.ctlRx.map List.length).sum + k.len)

/-- A whole packet is judged by its number and its units (R288, R304); `body` acts on an accepted one, and `hold` keeps its
units for software. -/
def judged (n : Nat) (k : Frame) (hold : Frame → Bool) (body : Frame → State → State) (s : State) : State :=
  let x := portOf s n
  let d := (k.seq + 4096 - x.rxSeq % 4096) % 4096
  let u := unitsOf k.len
  if d = 0 then
    if ownPool n k.vc = 0 then violate (acceptPkt s n k.vc 0 false) n 0x03 k.seq
    else if !roomFor x n k.vc u then violate (sendNak s n) n 0x04 k.seq
    else if fifoFull x k then sendNak s n
    else body k (acceptPkt s n k.vc u (hold k))
  else if d < 2048 then
    if x.errSince then sendNak s n else violate (sendNak s n) n 0x05 k.seq
  else putPort s n { x with ackDue := true }

/-- The receiver's handling of what arrives on an open port (R288). -/
def receive (n kind op : Nat) (k : LinkPkt) (hold : Frame → Bool) (body : Frame → State → State) (s : State) : State :=
  if !rxOpen s n || !forRow k kind op then s
  else
    let s := takeLine n k s
    if !rxOpen s n then s
    else match frameFails n k s with
      | (s, none) => s
      | (s, some f) => judged n f hold body s

/-- A packet whose units are freed at once. -/
def noHold (_ : Frame) : Bool := false

/-! ### Exchange packets (R92 to R94, R304) -/

/-- The whole cycle of a flit that carries it modulo 4: within one below and two above the slowest tile (R36). -/
def wholeCycle (s : State) (c : Nat) : Nat :=
  let base := curCycle s - 1
  base + (c + 4 - base % 4) % 4

/-- A delivery flit from its 21 words; it enters the main rings at its port group's stop (R98). -/
def flitOfWords (s : State) (k : Frame) : Flit :=
  let h := k.word 0
  let body := (List.range 19).foldl (fun v j => v + (k.word (2 + j)).toNat * 2 ^ (64 * j)) 0
  { out := false, dstDev := fld h 58 4, dstDie := fld h 56 2, dstTile := fld h 52 4, dstPhys := fld h 47 5,
    srcDev := fld h 43 4, srcDie := fld h 41 2, srcTile := fld h 37 4, srcPhys := fld h 32 5, srcEpoch := fld h 24 8,
    cyc := wholeCycle s (fld h 22 2)
    recs := (List.range (min 64 (fld h 15 7))).map (fun i =>
      let r := body / 2 ^ (19 * i) % 2 ^ 19
      { res := (k.word 1).getLsbD i, a := r / 512, m := r / 2 % 256, gen := decide (r % 2 = 1) })
    loc := .stop }

/-- Non-zero bits of an exchange header that R92 reserves, or that R94 makes zero in a token or a map word (R305; their code:
assumption 126). -/
def exchReserved (h : Word) : Bool :=
  match fld h 62 2 with
  | 0 => decide (fld h 0 15 ≠ 0)
  | 2 => decide (fld h 52 6 ≠ 0)
  | 3 => decide (fld h 0 24 ≠ 0 ∨ fld h 32 11 ≠ 0)
  | _ => false

/-- An exchange item arrives: a flit goes to the main rings, a token and a map word to the hub (R94, R109, R113). -/
def exchItem (n : Nat) (k : Frame) (s : State) : State :=
  let h := k.word 0
  let kd := fld h 62 2
  if fld h 58 4 ≠ devIdx s ∨ kd = 1 ∨ (kd = 0 ∧ k.len ≠ 21) ∨ (kd ≠ 0 ∧ k.len ≠ 1) ∨ exchReserved h then violate s n 0x09 k.seq
  else if kd = 0 then
    let f := { flitOfWords s k with tok := some (Tbl.get 0 s.ex.peerBegun (32 * fld h 43 4 + n)) }
    { s with ex := { s.ex with flits := s.ex.flits ++ [f.onMain (portStop n) (bridgeStop f.dstDie)] } }
  else if kd = 2 then
    let key := 32 * fld h 48 4 + n
    { s with ex := { s.ex with peerBegun := Tbl.upd 0 s.ex.peerBegun key (fun c => max c (fld h 0 48 + 1)) } }
  else
    let l := fld h 56 2 * 16 + fld h 52 4
    let key := fld h 43 4 * 64 + l
    { s with ex := { s.ex with peerMap := Tbl.set (fld h 52 4, 0) s.ex.peerMap key (fld h 47 5, fld h 24 8) } }

def execExchPacket (n : Nat) (pk : LinkPkt) (s : State) : Host.Outcome State Fault Refusal :=
  finish (receive n 0 0 pk noHold (exchItem n) s)

/-! ### Control packets (R302 to R304) -/

/-- LEN of each operation. -/
def controlLenOk (op len : Nat) : Bool :=
  match op with
  | 1 => len == 2 | 2 => len == 2 | 3 => len == 5 | 4 => len == 17 | 0x10 => decide (1 ≤ len ∧ len ≤ 32) | _ => len == 1

/-- Non-zero bits that R302 does not name. -/
def controlReserved (k : Frame) : Bool :=
  let w := k.word
  match k.op with
  | 1 => decide (fld (w 0) 16 17 ≠ 0)
  | 2 => decide (fld (w 0) 16 17 ≠ 0)
  | 3 => decide (fld (w 0) 0 48 ≠ 0 ∨ fld (w 2) 17 47 ≠ 0) || (List.range 4).any (fun j => decide (fld (w 4) (16 * j + 11) 5 ≠ 0))
  | 4 => decide (fld (w 0) 0 48 ≠ 0) ||
      (List.range 64).any (fun i => decide (fld (w (1 + i / 4)) (16 * (i % 4) + 13) 3 ≠ 0))
  | 0x10 => decide (fld (w 0) 0 48 ≠ 0)
  | _ => decide (fld (w 0) 0 32 ≠ 0)

/-- The ERROR reply (R302). -/
def errorWords (op reason : Nat) : List Word := [place 64 56 8 0x7F ||| place 64 40 8 op ||| place 64 32 8 reason]

/-- Why a CONTROL packet is refused: the ERROR reason, and whether it is a violation. -/
def controlRefusal (n : Nat) (k : Frame) : Option (Nat × Bool) :=
  if !knownOp k.op then some (1, true)
  else if (k.op = 3 ∨ k.op = 4) ∧ ¬ isLink n then some (3, false)
  else if !controlLenOk k.op k.len then some (2, true)
  else if controlReserved k then some (Config.errorReason.toNat, true)
  else none

/-- An accepted CONTROL packet: refused with an ERROR reply, or acted on.  An ERROR is never answered with an ERROR. -/
def control (n : Nat) (body : Frame → State → State) (k : Frame) (s : State) : State :=
  match controlRefusal n k with
  | none => body k s
  | some (r, v) =>
    let s := queueControl s n (errorWords k.op r)
    if v then violate s n 0x0A k.seq else s

/-- PARTNER, from HELLO (R308). -/
def partnerOf (w : Word) : Reg :=
  place 32 0 4 (fld w 44 4) ||| place 32 4 2 (fld w 42 2) ||| place 32 6 4 (fld w 38 4) ||| place 32 10 5 (fld w 33 5) |||
    place 32 16 16 (fld w 0 16)

/-- The checks of the partner's HELLO (R282). -/
def helloOk (s : State) (n : Nat) (w : Word) : Bool :=
  decide (fld w 0 16 = 1 ∧ fld w 42 2 = (if isLink n then 0 else 1)) &&
  (!isLink n || decide (fld w 44 4 ≠ devIdx s ∧ fld w 44 4 = (portOf s n).commaDev ∧ fld w 38 4 ≤ 1))

/-- The pools that the partner advertises. -/
def poolsOf (w : Word) : Tbl Nat := tblOf 0 ((List.range 4).map (fun v => (v, fld w (48 - 16 * v) 16)))

/-- UP once HELLO_ACK has been sent and received (R282). -/
def checkUp (s : State) (n : Nat) : State :=
  let x := portOf s n
  if x.state = 7 ∧ x.ackSent ∧ x.ackGot then goUp s n else s

/-- A control packet in HANDSHAKE, outside sequence numbers: dropped on an error or a bad header, else acted on. -/
def handshakePkt (n op : Nat) (k : LinkPkt) (body : Frame → State → State) (s : State) : State :=
  if !forRow k 2 op then s
  else match frameFails n k (takeLine n k s) with
    | (s, none) => s
    | (s, some f) =>
      match controlRefusal n f with
      | none => body f s
      | some (r, v) =>
        let s := sendEarly s n (errorWords f.op r)
        if v then violate s n 0x0A f.seq else s

/-- HELLO in HANDSHAKE: checked and answered (R282). -/
def helloArrives (n : Nat) (k : Frame) (s : State) : State :=
  let s := setReg s (lnkReg n 0x08C) (partnerOf (k.word 0))
  if helloOk s n (k.word 0) then
    let s := modPort s n (fun x =>
      { x with helloSeen := true, helloGot := true, ackSent := true, advertised := poolsOf (k.word 1) })
    checkUp (sendEarly s n (helloWords s n 2)) n
  else modPort s n (fun x => { x with helloSeen := true, helloGot := false, fail := 7 })

/-- A HELLO on a port that is UP is answered too, as an accepted packet. -/
def helloMsg (n : Nat) (k : LinkPkt) (s : State) : State :=
  if (portOf s n).state = 7 then handshakePkt n 1 k (helloArrives n) s
  else receive n 2 1 k noHold (control n (fun _ s => queueControl s n (helloWords s n 2))) s

def execHello (n : Nat) (pk : LinkPkt) (s : State) : Host.Outcome State Fault Refusal := finish (helloMsg n pk s)

def helloAckMsg (n : Nat) (k : LinkPkt) (s : State) : State :=
  if (portOf s n).state = 7 then
    handshakePkt n 2 k (fun _ s => checkUp (modPort s n (fun x => { x with ackGot := true })) n) s
  else receive n 2 2 k noHold (control n (fun _ s => s)) s

def execHelloAck (n : Nat) (pk : LinkPkt) (s : State) : Host.Outcome State Fault Refusal := finish (helloAckMsg n pk s)

def execRuninfo (n : Nat) (pk : LinkPkt) (s : State) : Host.Outcome State Fault Refusal :=
  finish (receive n 2 3 pk noHold (control n (fun f s => modPort s n (fun x => { x with runInfo := f.payload }))) s)

/-- The copy of the partner's tile map is replaced (R113, R302). -/
def mapsync (n : Nat) (k : Frame) (s : State) : State :=
  let dev := regF s (lnkReg n 0x08C) 0 4
  { s with ex := { s.ex with peerMap := (List.range 64).foldl (fun m i =>
      let w := k.word (1 + i / 4)
      Tbl.set (i % 16, 0) m (dev * 64 + i) (fld w (16 * (i % 4)) 5, fld w (16 * (i % 4) + 5) 8)) s.ex.peerMap } }

def execMapsync (n : Nat) (pk : LinkPkt) (s : State) : Host.Outcome State Fault Refusal :=
  finish (receive n 2 4 pk noHold (control n (mapsync n)) s)

/-- A USER packet is placed whole in CTL_RX; its units wait for software (R303). -/
def userPkt (n : Nat) (k : Frame) (s : State) : State :=
  modPort s n (fun x => { x with ctlRx := x.ctlRx ++ [k.payload] })

/-- The units of a USER packet that is refused are freed like any other's. -/
def execUser (n : Nat) (pk : LinkPkt) (s : State) : Host.Outcome State Fault Refusal :=
  finish (receive n 2 0x10 pk (fun f => decide (controlRefusal n f = none)) (control n (userPkt n)) s)

/-- ERROR from the partner is taken and frees its space: it reports to nobody on the device. -/
def execErrorMsg (n : Nat) (pk : LinkPkt) (s : State) : Host.Outcome State Fault Refusal :=
  finish (receive n 2 0x7F pk noHold (control n (fun _ s => s)) s)

/-! ### The transmitter (R286 to R290) -/

/-- Room in the partner's pool for `units` more on a VC. -/
def Port.credits (x : Port) (vc units : Nat) : Bool :=
  decide ((Tbl.get 0 x.txUnits vc + 4096 - Tbl.get 0 x.txFreed vc % 4096) % 4096 + units ≤ Tbl.get 0 x.advertised vc)

/-- The next packet by VC priority: VC3, VC2, then VC0 or VC1; within a VC the oldest, and only with credits (R287). -/
def Port.nextPkt (x : Port) : Option Pkt :=
  let head := fun v => (x.rdy.find? (fun p => p.vc == v)).filter (fun p => x.credits v (unitsOf p.words.length))
  head 3 <|> head 2 <|> head 0 <|> head 1

/-- The resend buffer holds 16,384 words and 2,048 packets (R289). -/
def Port.holdsPkt (x : Port) (p : Pkt) : Bool :=
  decide (x.unacked.length < 2048) && decide ((x.unacked.map (fun q => q.words.length)).sum + p.words.length ≤ 16384)

/-- One record of the marker log ring (R338). -/
def logMarker (s : State) (n : Nat) (received : Bool) (stamp : Word) (ws : List Word) : State :=
  let len := (getReg s (ro pAcq 0x0B0)).toNat
  if len = 0 then s
  else
    let w := (place 64 0 5 n ||| place 64 5 1 received.toNat) :: stamp :: ws
    let a := reg64 s (ro pAcq 0x0A8) (ro pAcq 0x0AC) + s.mkh.logWp
    let s := dramWrite s a ((w ++ List.replicate (8 - w.length) 0).flatMap wordBytes) mkhStop
    { s with mkh := { s.mkh with logWp := (s.mkh.logWp + 64) % len } }

/-- A packet as its SOP departs at time `t`: a MARKER takes its words then (R293). -/
def departing (s : State) (n : Nat) (t : Word) (p : Pkt) : Pkt :=
  let x := portOf s n
  { p with
    seq := x.txSeq % 4096
    words := if p.kind = 3 then [t, place 64 0 32 (tOneway s n), x.markRx] else p.words }

/-- The transmitter sends one packet: the next of a resend, else the next ready one. -/
def sendPacket (n : Nat) (frac : BitVec 8) (s : State) : State :=
  let x := portOf s n
  if x.eidleTx ∨ ¬ (x.state = 8 ∨ x.state = 0xA) then s
  else match x.unacked[x.resend]? with
    | some p => onWire (putPort s n { x with resend := x.resend + 1 }) n p.frame
    | none =>
      if x.state ≠ 8 then s
      else match x.nextPkt with
        | none => s
        | some p =>
          if !x.holdsPkt p then s
          else
            let t := s.tb + BitVec.ofNat 64 frac.toNat
            let q := departing s n t p
            let s := onWire (putPort s n { x with
              rdy := x.rdy.erase p, unacked := x.unacked ++ [q], resend := x.unacked.length + 1, txSeq := x.txSeq + 1
              txUnits := Tbl.upd 0 x.txUnits p.vc (· + unitsOf p.words.length) }) n q.frame
            if p.kind = 3 then logMarker s n false t [] else s

def execPacketSend (n : Nat) (frac : BitVec 8) (s : State) : Host.Outcome State Fault Refusal := finish (sendPacket n frac s)

/-- A control word arrives.  A reserved code, or a set bit that R283 does not name, is a violation and the word is ignored; an
EOP ends no packet; any other code than the row's acts in the row of its own. -/
def ctlBlock (n code : Nat) (named : Word) (w : Word) (body : State → State) (s : State) : State :=
  if !rxOpen s n && !(decide ((portOf s n).state = 7)) then s
  else
    let c := fld w 56 8
    if 0x0B ≤ c ∨ (c = 0 ∧ w ≠ 0) then violate s n 0x01 0
    else if c = 2 then violate (sendNak s n) n 0x02 0
    else if c ≠ code then s
    else if w &&& ~~~(named ||| place 64 56 8 0xFF) ≠ 0 then violate s n 0x01 0
    else if rxOpen s n ∨ code = 0x0A then body s
    else s

/-- Steps back from the newest sent sequence number. -/
def Port.age (x : Port) (seq : Nat) : Nat := (x.txSeq + 4095 - seq) % 4096

/-- Was a packet of this sequence number sent? -/
def Port.sent (x : Port) (seq : Nat) : Bool := decide (x.age seq < min 2048 x.txSeq)

/-- An ACK frees every packet up to its SEQ (R289). -/
def ackArrives (n seq : Nat) (s : State) : State :=
  let x := portOf s n
  if !x.sent seq then violate s n 0x06 seq
  else
    let keep := min x.unacked.length (x.age seq)
    let gone := x.unacked.length - keep
    tryIdle (putPort s n { x with
      unacked := x.unacked.drop gone, resend := x.resend - gone, timeouts := if gone = 0 then x.timeouts else 0 }) n

def execAck (n : Nat) (w : Word) (s : State) : Host.Outcome State Fault Refusal :=
  finish (ctlBlock n 3 (place 64 42 12 0xFFF) w (ackArrives n (fld w 42 12)) s)

/-- A NAK(s) makes the transmitter resend from s; during a resend only an older s restarts it (R289).  NAK of the next
number to be sent asks for nothing. -/
def nakArrives (n seq : Nat) (s : State) : State :=
  let x := portOf s n
  if x.sent seq then
    let s := bump s (lnkReg n 0x0A0) 1
    let i := x.unacked.length - (x.age seq + 1)
    if x.age seq < x.unacked.length ∧ i < x.resend then putPort s n { x with resend := i } else s
  else if seq = x.txSeq % 4096 then bump s (lnkReg n 0x0A0) 1
  else violate s n 0x06 seq

def execNak (n : Nat) (w : Word) (s : State) : Host.Outcome State Fault Refusal :=
  finish (ctlBlock n 4 (place 64 42 12 0xFFF) w (nakArrives n (fld w 42 12)) s)

def sendAck (n : Nat) (s : State) : State :=
  let x := portOf s n
  if x.ackDue ∧ 8 ≤ x.state then
    sendBlock (putPort s n { x with ackDue := false }) n (ackWord ((x.rxSeq + 4095) % 4096))
  else s

def execAckSend (n : Nat) (s : State) : Host.Outcome State Fault Refusal := finish (sendAck n s)

/-- A CREDIT block: cumulative units freed per VC, modulo 4,096 (R286). -/
def creditArrives (n : Nat) (w : Word) (s : State) : State :=
  modPort s n (fun x => { x with txFreed := tblOf 0 ((List.range 4).map (fun v => (v, fld w (44 - 12 * v) 12))) })

def execCredit (n : Nat) (w : Word) (s : State) : Host.Outcome State Fault Refusal :=
  finish (ctlBlock n 5 (place 64 8 48 (2 ^ 48 - 1)) w (creditArrives n w) s)

def creditWord (x : Port) : Word :=
  (List.range 4).foldl (fun (w : Word) v => w ||| place 64 (44 - 12 * v) 12 (Tbl.get 0 x.rxFreed v)) (ctlWord 5)

def sendCredit (n : Nat) (s : State) : State :=
  let x := portOf s n
  if x.creditDue ∧ 8 ≤ x.state then sendBlock (putPort s n { x with creditDue := false }) n (creditWord x) else s

def execCreditReturn (n : Nat) (s : State) : Host.Outcome State Fault Refusal := finish (sendCredit n s)

/-- 20 µs with no ACK advancing: resend from the oldest; eight in a row reset the port (R289). -/
def timeout (n : Nat) (s : State) : State :=
  let x := portOf s n
  if x.state < 8 ∨ x.unacked = [] then s
  else
    let s := bump (putPort s n { x with resend := 0, timeouts := x.timeouts + 1 }) (lnkReg n 0x0A0) 1
    if 8 ≤ x.timeouts + 1 then resetPort s n else s

def execRetryTimeout (n : Nat) (s : State) : Host.Outcome State Fault Refusal := finish (timeout n s)

/-! ### PING and PONG (R292) -/

/-- A PING is answered with its TAG and a measured HOLD (free value, assumption 11). -/
def pingArrives (n : Nat) (w : Word) (s : State) : State :=
  let hold := (Config.measured (pLnk n) 5 s.freeCount).toNat
  sendBlock { s with freeCount := s.freeCount + 1 } n (ctlWord 7 ||| place 64 32 16 (fld w 32 16) ||| place 64 0 32 hold)

def execPing (n : Nat) (w : Word) (s : State) : Host.Outcome State Fault Refusal :=
  finish (ctlBlock n 6 (place 64 32 16 0xFFFF) w (pingArrives n w) s)

def sendPing (n : Nat) (s : State) : State :=
  let x := portOf s n
  if x.state = 8 ∧ x.eidleTx = false ∧ x.eidleRx = false then
    onWire (putPort s n { x with pingTag := (x.pingTag + 1) % 65536, pings := x.pings ++ [x.pingTag] }) n
      [ctlBlk (ctlWord 6 ||| place 64 32 16 x.pingTag)]
  else s

def execPingSend (n : Nat) (s : State) : Host.Outcome State Fault Refusal := finish (sendPing n s)

/-- A PONG of an outstanding PING: (RTT − HOLD) / 2 joins the last 16 results. -/
def pongArrives (n : Nat) (w : Word) (rtt : Nat) (s : State) : State :=
  let x := portOf s n
  let tag := fld w 32 16
  if x.pings.contains tag then
    let l := x.lats ++ [(rtt - fld w 0 32) / 2]
    putPort s n { x with pings := x.pings.erase tag, lats := l.drop (l.length - 16) }
  else s

def execPong (n : Nat) (w : Word) (rtt : Nat) (s : State) : Host.Outcome State Fault Refusal :=
  finish (ctlBlock n 7 (place 64 0 48 (2 ^ 48 - 1)) w (pongArrives n w rtt) s)

def execPongTimeout (n tag : Nat) (s : State) : Host.Outcome State Fault Refusal :=
  finish (modPort s n (fun x => { x with pings := x.pings.erase tag }))

/-! ### Lane loss (R281, R294, R295) -/

def execLaneFail (n lane : Nat) (s : State) : Host.Outcome State Fault Refusal := finish (laneFails n lane s)

/-- The transmitter drops these lanes at the next alignment period, or, with fewer than three left, the port goes down. -/
def txLosesLanes (n : Nat) (lost : BitVec 4) (s : State) : State :=
  let x := portOf s n
  let drop := lost &&& x.txAct &&& ~~~x.txDrop
  if drop = 0 then s
  else if ones 4 (x.txAct &&& ~~~(x.txDrop ||| drop)).toNat < 3 then portDown s n
  else degraded (putPort s n { x with txDrop := x.txDrop ||| drop }) n

def execLaneDown (n : Nat) (w : Word) (s : State) : Host.Outcome State Fault Refusal :=
  finish (ctlBlock n 8 (place 64 0 4 0xF) w (txLosesLanes n (BitVec.ofNat 4 (fld w 0 4))) s)

/-- LANE_DOWN is repeated until the partner's commas show the lane outside ACT; what is no comma shows nothing. -/
def repeatLaneDown (n : Nat) (comma : BitVec 66) (s : State) : State :=
  let x := portOf s n
  let act := if commaOk comma then BitVec.ofNat 4 (commaAct comma) else x.rxStripe
  let s := putPort s n { x with rxStripe := act }
  if x.rxLost = 0 ∨ ¬ rxOpen s n then s
  else if x.rxLost &&& act = 0 then putPort s n { x with rxStripe := act, rxLost := 0 }
  else sendBlock s n (laneDownWord x.rxLost)

def execLaneDownRepeat (n : Nat) (comma : BitVec 66) (s : State) : Host.Outcome State Fault Refusal :=
  finish (repeatLaneDown n comma s)

/-- The next alignment period: blocks go over the remaining lanes, and sending restarts from the oldest unacknowledged
packet. -/
def restripe (n : Nat) (s : State) : State := if (portOf s n).txDrop = 0 then s else nextPeriod s n

def execRestripe (n : Nat) (s : State) : Host.Outcome State Fault Refusal := finish (restripe n s)

/-! ### EIDLE and RESET blocks, electrical idle exit (R297, R298, R306) -/

def execEidleBlock (n : Nat) (w : Word) (s : State) : Host.Outcome State Fault Refusal :=
  finish (ctlBlock n 9 0 w (fun s => modPort s n (fun x => { x with eidleRx := true })) s)

def execResetBlock (n : Nat) (w : Word) (s : State) : Host.Outcome State Fault Refusal :=
  finish (ctlBlock n 0x0A 0 w (fun s => resetPort s n) s)

/-- A packet is ready on an idle transmitter. -/
def exitIdle (n : Nat) (s : State) : State :=
  let x := portOf s n
  if x.eidleTx ∧ x.rdy ≠ [] then leaveIdle s n else s

def execEidleExit (n : Nat) (s : State) : Host.Outcome State Fault Refusal := finish (exitIdle n s)

/-- A partner leaves electrical idle: kept state resumes, a lane without a comma fails, and the device may wake (R298,
R492). -/
def partnerBack (n : Nat) (commas : BitVec 4) (s : State) : State :=
  let x := portOf s n
  if !x.eidleRx then s
  else
    let s := putPort s n { x with eidleRx := false }
    let s := (List.range 4).foldl (fun s r => if commas.getLsbD r then s else laneFails n r s) s
    if regBit s (ro pPwr 0x108) 1 then wake s else s

def execSignalReturn (n : Nat) (commas : BitVec 4) (s : State) : Host.Outcome State Fault Refusal :=
  finish (partnerBack n commas s)

/-! ### PORT_CTL (R296, R297, R306, R309) -/

/-- Has Markhor an armed stream on the port? -/
def armedStream (s : State) (n : Nat) : Bool :=
  mkhArmed s && (enabledChans s).any (fun c => decide (c < 32 ∧ chPort s c = n))

/-- A RECAL request (R296); in IDLE or DOZE, where no lane may be driven, it is refused (assumption 127). -/
def recalibrate (n : Nat) (s : State) : State :=
  let s := modPort s n (fun x => { x with recalRefused := false })
  let x := portOf s n
  if ¬ (x.state = 8 ∨ x.state = 9) then s
  else if !mayDrive s || (runPort s n && (decide (runMode s = 2) || !regBit s (lnkReg n 0x080) 7)) || armedStream s n then
    putPort s n { x with recalRefused := true }
  else
    let s := modPort (leaveIdle s n) n (fun x => { x with state := 0xA, recal := true })
    if runPort s n then { s with run := { s.run with holds := s.run.holds ++ [.recal n] } } else s

/-- LANE_EN changes: no lane disables the port; with lanes, bring-up starts where the port is disabled and starts again
where it was under way (R277); on a port past it, a lane that is disabled is lost in both directions (assumption 108). -/
def lanesEnabled (s : State) (n old new : Nat) : State :=
  if new = 0 then modPort (endRecal s n) n (fun x => { x.fresh with
    state := 0, ended := false, rdy := [], rxAct := 0, txAct := 0, txDrop := 0, rxLost := 0, eidleRx := false, drive := 0, eidleTx := false })
  else if old = new then s
  else if (portOf s n).state < 8 then startBringup s n
  else
    let off := (List.range 4).filter (fun r => old.testBit r && !new.testBit r)
    txLosesLanes n (bitsOf 4 off) (off.foldl (fun s r => rxLosesLane n r s) s)

/-- A PORT_CTL write; in a link map of an active run only RECAL and FORCE act. -/
def portCtlWrite (n : Nat) (v : Reg) (s : State) : State :=
  let a := lnkReg n 0x080
  let cur := getReg s a
  let s :=
    if runPort s n then
      let s := setRegF s a 7 1 (fld v 7 1)
      if fld v 0 6 ≠ fld cur 0 6 ∨ v.getLsbD 8 then refuse s (pLnk n) else s
    else
      let s := lanesEnabled (writeRW s a v) n (fld cur 0 4) (fld v 0 4)
      let s := if v.getLsbD 5 || decide (s.pwr.state ≠ 0) || s.pwr.entering.isSome then askIdle s n true
               else leaveIdle (modPort s n (fun x => { x with eidleReq := false })) n
      if v.getLsbD 8 then resetPort s n else s
  if v.getLsbD 6 then recalibrate n s else s

def execEidleRequest (n : Nat) (v : Reg) (s : State) : Host.Outcome State Fault Refusal := finish (portCtlWrite n v s)
def execRecal (n : Nat) (v : Reg) (s : State) : Host.Outcome State Fault Refusal := finish (portCtlWrite n v s)
def execPortReset (n : Nat) (v : Reg) (s : State) : Host.Outcome State Fault Refusal := finish (portCtlWrite n v s)

/-- Recalibration fails in a state of bring-up: the port goes down, and bring-up restarts 1 ms later (R280, R295). -/
def recalFails (s : State) (n st : Nat) : State := endAttempt (portDown s n) n st

/-- Every packet is acknowledged and every enabled lane is brought up again from CDR; the port is UP and the hold is released
(R296). -/
def recalEnd (n : Nat) (seen : List (Option CommaSeen)) (late clean : BitVec 4) (errs : List FecErr) (s : State) : State :=
  let x := portOf s n
  if x.state = 0xA ∧ x.unacked = [] ∧ (s.run.holds.contains (.recal n) = false ∨ allHeld s) then
    let s := errs.foldl (fun s e => decoded s n e) (putPort s n (x.bringLanes (laneEn s n)))
    match findLanes s n seen late with
    | .error st => recalFails s n st
    | .ok on =>
      let s := modPort s n (fun x => x.lanesFound on)
      let live := (on.map (·.1)).filter (fun r => clean.getLsbD r)
      if !enoughLanes s n live then recalFails s n 6 else goUp (lanesUp (endRecal s n) n live) n
  else s

def execRecalDone (n : Nat) (seen : List (Option CommaSeen)) (late clean : BitVec 4) (errs : List FecErr) (s : State) :
    Host.Outcome State Fault Refusal := finish (recalEnd n seen late clean errs s)

/-! ### The USER channel (R303, R308) -/

/-- A CTL_TX_DATA write appends a word, up to 31 (assumption 17). -/
def ctlAppend (n : Nat) (v : Reg) (s : State) : State :=
  modPort s n (fun x => if x.ctlTx.length < 31 then { x with ctlTx := x.ctlTx ++ [BitVec.ofNat 64 v.toNat] } else x)

def execCtlTxData (n : Nat) (v : Reg) (s : State) : Host.Outcome State Fault Refusal := finish (ctlAppend n v s)

def ctlSend (n : Nat) (v : Reg) (s : State) : State :=
  let x := portOf s n
  if x.ctlTx = [] ∨ x.state < 8 then s
  else
    let s := putPort s n { x with ctlTx := [] }
    queueControl s n ((place 64 56 8 0x10 ||| place 64 48 8 (fld v 0 8)) :: x.ctlTx)

def execCtlTxSend (n : Nat) (v : Reg) (s : State) : Host.Outcome State Fault Refusal := finish (ctlSend n v s)

/-- CTL_RX_DATA reads give a word as two halves, the low one first, and the second pops it (assumption 17); a credit unit is
freed as its eighth word, or its packet's last, is popped, but for a packet from before the link layer restarted. -/
def ctlRead (n : Nat) (s : State) : State :=
  let x := portOf s n
  match x.ctlRx with
  | [] => { s with bus := { data := 0, bytes := [], poisoned := false } }
  | [] :: rest => putPort s n { x with ctlRx := rest }
  | (w :: ws) :: rest =>
    if x.ctlHalf then
      let u := if 0 < x.ctlOld then 0 else unitsOf (ws.length + 1) - unitsOf ws.length
      let s := putPort s n { x with
        ctlHalf := false, ctlRx := if ws.isEmpty then rest else ws :: rest
        ctlOld := if ws.isEmpty then x.ctlOld - 1 else x.ctlOld
        rxFreed := Tbl.upd 0 x.rxFreed 2 (· + u), creditDue := x.creditDue || decide (0 < u) }
      { s with bus := { data := BitVec.ofNat 64 (fld w 32 32), bytes := [], poisoned := false } }
    else
      { putPort s n { x with ctlHalf := true } with
        bus := { data := BitVec.ofNat 64 (fld w 0 32), bytes := [], poisoned := false } }

def execCtlRxData (n : Nat) (s : State) : Host.Outcome State Fault Refusal := finish (ctlRead n s)

end Sys2Proof.Machine
end

