-- ==== Sys2Proof/Machine/Markhor.lean ====
section
/-!
DEFINITION. Markhor (11): streams and probe samples, detectors, the sequencer, TRIG_OUT, segments and their records, and the
marker log.
-/
namespace Sys2Proof.Machine

def mkhCtl : Nat := ro pAcq 0x080

/-! ### Detectors (R319, R320) -/

/-- A sample as a number in its format: two's complement for S16 and S12 (R300). -/
def sampleVal (fmt v : Nat) : Int := if fmt = 0 ∨ fmt = 2 then signed 16 v else (v : Int)

/-- What a detector answers: its arming afterwards, and the level crossed if it fires (none for LOGIC). -/
structure Detected where
  rise : Bool
  fall : Bool
  win : Bool
  fires : Bool
  level : Option Int

/-- One sample at a detector that was armed as stated; `prev` is the sample before it. -/
def detect (mode fmt : Nat) (lvl aux : Reg) (x : MChan) (prev : Option Nat) (v : Nat) : Detected :=
  let val := sampleVal fmt
  let lo := val (fld lvl 0 16)
  let a := val v
  let hyst : Int := (fld lvl 16 16 : Int)
  let hi := val (fld lvl 16 16)
  let wh : Int := (fld aux 0 16 : Int)
  let keep : Detected := { rise := x.armRise, fall := x.armFall, win := x.armWin, fires := false, level := none }
  let riseF := x.armRise && decide (lo ≤ a)
  let fallF := x.armFall && decide (a ≤ lo)
  let rise := !riseF && (x.armRise || decide (a ≤ lo - hyst))
  let fall := !fallF && (x.armFall || decide (lo + hyst ≤ a))
  let inside := decide (lo ≤ a ∧ a ≤ hi)
  match mode with
  | 1 => { keep with rise := rise, fires := riseF, level := some lo }
  | 2 => { keep with fall := fall, fires := fallF, level := some lo }
  | 3 => { keep with rise := rise, fall := fall, fires := riseF || fallF, level := some lo }
  | 4 =>
    if x.armWin && inside then
      { keep with win := false, fires := true
                  level := some (match prev with | some p => if val p < lo then lo else hi | none => lo) }
    else { keep with win := x.armWin || decide (a < lo - wh ∨ hi + wh < a) }
  | 5 =>
    if x.armWin && !inside then { keep with win := false, fires := true, level := some (if a < lo then lo else hi) }
    else { keep with win := x.armWin || decide (lo + wh ≤ a ∧ a ≤ hi - wh) }
  | 6 =>
    let hit := fun w : Nat => decide ((w ^^^ fld lvl 16 16) &&& fld lvl 0 16 = 0)
    { keep with fires := hit v && (match prev with | some p => !hit p | none => false) }
  | _ => keep

/-- FRAC of a crossing of level `v` between samples a and b, from 0 to 255 (R320). -/
def crossing (v a b : Int) : Nat := min 255 (Int.fdiv (256 * (v - a)) (b - a)).toNat

/-! ### Segments and triggers (R328 to R332) -/

def chN (s : State) (c : Nat) : Nat := chPre s c + chPost s c
def chSperiod (s : State) (c : Nat) : Nat := (getReg s (chReg c 0x04)).toNat

def ringFirst (s : State) (c : Nat) : Nat := regF s (chReg c 0x1C) 0 7
def ringCount (s : State) (c : Nat) : Nat := regF s (chReg c 0x1C) 8 6

/-- The staging ring's address in bank space, and the samples that it holds (R331). -/
def ringBase (s : State) (c : Nat) : Nat := ringFirst s c * 2097152
def ringCap (s : State) (c : Nat) : Nat := ringCount s c * 2097152 / max 1 (chBeta s c)

def segMax (s : State) : Nat := max 1 (regF s (ro pAcq 0x088) 0 21)

/-- How many samples a segment has. -/
def Seg.got (g : Seg) : Nat := g.out.length + g.places.length

/-- The newest sample enters the ring, in the place of what stood there, and the segment being filled. -/
def MChan.store (x : MChan) (y : Sample) : MChan :=
  let x := { x with
    ring := x.ring.filter (fun z : Sample => z.at_ != y.at_) ++ [y], count := x.count + 1, last := some y, lost := 0 }
  match x.seg with
  | some g =>
    if g.got < g.len then
      { x with seg := some { g with
          places := g.places ++ [y.at_], missing := g.missing + y.missing.toNat, incomplete := g.incomplete || y.missing } }
    else { x with since := x.since + 1 }
  | none => { x with since := x.since + 1 }

/-- What a channel's ring and segments measure: its place, its size in samples and their width, PRE, PRE + POST, reduction,
format. -/
structure Shape where
  base : Nat
  cap : Nat
  width : Nat
  pre : Nat
  len : Nat
  red : Nat
  redK : Nat
  fmt : Nat

def shapeOf (s : State) (c : Nat) : Shape :=
  { base := ringBase s c, cap := ringCap s c, width := chBeta s c, pre := chPre s c, len := chN s c, red := chRed s c
    redK := chK s c, fmt := (mchanOf s c).fmt.getD 0 }

/-- The places in bank space of samples that may not be overwritten: those of undrained segments, and PRE while the channel
waits (R331, R335). -/
def heldPlaces (s : State) (c : Nat) : List Nat :=
  let x := mchanOf s c
  s.mkh.chans.flatMap (fun e => e.2.left.flatMap (·.places)) ++ x.drain.flatMap (·.places) ++
    (match x.seg with
     | some g => g.places
     | none => (x.ring.drop (x.ring.length - min x.since (chPre s c))).map (·.at_))

/-- The first free place of the ring from number `k` on; `fuel` places are passed over.  DESIGN CHOICE (assumption 45): samples
stand one after another from the first bank on, but for places that still hold what has to drain. -/
def freePlace (used : List Nat) (h : Shape) : Nat → Nat → Nat
  | 0, k => k % max 1 h.cap
  | fuel + 1, k =>
    let k := k % max 1 h.cap
    if used.any (fun a => overlap a h.width (h.base + h.width * k) h.width) then freePlace used h fuel (k + 1) else k

/-- Do `n` further samples fit in the channel's ring (R335)? -/
def samplesFit (s : State) (c n : Nat) : Bool :=
  let b := ringBase s c
  let used := (heldPlaces s c).filter (fun a => decide (b ≤ a ∧ a < b + ringCap s c * chBeta s c))
  decide (used.length + n ≤ ringCap s c)

/-- Ingest writes the channel's next sample into a bank of its ring (R192, R331): where it stands. -/
def ringPut (s : State) (c v : Nat) : State × Nat :=
  let h := shapeOf s c
  let used := heldPlaces s c
  let k := freePlace used h used.length (mchanOf s c).wp
  let a := h.base + h.width * k
  let s := bankPut s a (leBytes h.width v) []
  (putMchan s c { mchanOf s c with wp := k + 1 }, a)

/-- The segment of a trigger sample: PRE samples before it and what has arrived since, PRE + POST at most (R328, R332). -/
def MChan.openSeg (x : MChan) (h : Shape) (ord frac : Nat) (time : Word) (idx : Nat) (fromSeq : Bool) : MChan :=
  let have_ := x.ring.filter (fun y => decide (idx ≤ y.num + h.pre))
  let got := have_.take h.len
  match x.ring.find? (fun y => y.num == idx) with
  | none => x
  | some y =>
    let miss := (got.filter (·.missing)).length + ((got.drop 1).map (·.lost)).sum
    { x with
      state := 2, pend := none, since := have_.length - got.length
      seg := some { num := x.segs + x.drain.length, ord := ord, frac := frac
                    tstamp := if frac = 0 then y.time else time, stamp := y.stamp, sseq := y.sseq, index := y.pidx
                    fromSeq := fromSeq, missing := miss, incomplete := decide (0 < miss)
                    places := got.map (·.at_), out := [], perr := false, base := h.base, cap := h.cap, width := h.width
                    pre := h.pre, len := h.len, post := 0, red := h.red, redK := h.redK, fmt := h.fmt, acq := 0
                    committed := none } }

/-- Where a trigger's sample lies: known by its number, or still to come (the next, or that of a cycle). -/
inductive TrigAt where
  | sample (idx : Nat)
  | next
  | cycle (c : Nat)
  deriving DecidableEq, Repr

/-- The place of a decision in their order: its HUBCLK period, then the channel number (R332). -/
def decisionOrder (s : State) (c : Nat) : Nat := s.tb.toNat / 256 * 64 + c

/-- A trigger reaches a channel: accepted in WAIT_TRIG, else counted in CH_MISSED (R330). -/
def trigger (s : State) (c frac : Nat) (time : Word) (at_ : TrigAt) (fromSeq : Bool) : State :=
  let x := mchanOf s c
  if x.state ≠ 1 then bump s (chReg c 0x30) 1
  else
    let ord := decisionOrder s c
    putMchan s c (match at_ with
      | .sample i => x.openSeg (shapeOf s c) ord frac time i fromSeq
      | .next => { x with state := 2, pend := some (ord, none) }
      | .cycle k => { x with state := 2, pend := some (ord, some k) })

/-- A trigger decided earlier takes this sample, if it waits for it: a stream channel the first of a packet, channel 32 the
next or the one of the named cycle (R329). -/
def MChan.takePend (x : MChan) (h : Shape) (stream : Bool) (y : Sample) : MChan :=
  match x.pend with
  | some (ord, none) => if stream && decide (y.pidx ≠ 0) then x else x.openSeg h ord 0 y.time (x.count - 1) true
  | some (ord, some k) => if y.sseq = k then x.openSeg h ord 0 y.time (x.count - 1) true else x
  | none => x

/-- One sample of a channel: stored, taken by a waiting trigger, and judged by the detector. -/
def putSample (c fmt : Nat) (s : State) (y : Sample) : State :=
  let x := mchanOf s c
  let r := ringPut s c y.v
  let s := r.1
  let y := { y with num := x.count, at_ := r.2, lost := x.lost }
  let x1 := (mchanOf s c).store y
  if y.missing then putMchan s c x1
  else
    let x1 := x1.takePend (shapeOf s c) (decide (c ≠ 32)) y
    if c = 32 then putMchan s c x1
    else
      let r := detect (regF s (chReg c 0) 9 3) fmt (getReg s (chReg c 0x10)) (getReg s (chReg c 0x14)) x (x.last.map (·.v)) y.v
      let s := putMchan s c { x1 with armRise := r.rise, armFall := r.fall, armWin := r.win }
      if !r.fires then s
      else
        let frac := match r.level, x.last with
          | some l, some p => crossing l (sampleVal fmt p.v) (sampleVal fmt y.v)
          | _, _ => 0
        let time := match r.level, x.last with
          | some _, some p => p.time + BitVec.ofNat 64 (frac * chSperiod s c / 2 ^ 24)
          | _, _ => y.time
        let s := mkhEvent s { src := c, frac := frac, time := time, stamp := y.stamp, idx := x.count, cyc := 0, tag := none, arr := s.tb }
        if regBit s (chReg c 0) 14 then s else trigger s c frac time (.sample x.count) false

/-! ### Streams (R316, R317, R335) -/

/-- The channel bound to a port and stream ID. -/
def boundChan (s : State) (n sid : Nat) : Option Nat :=
  (List.range 32).find? (fun c => chEn s c && decide (chPort s c = n ∧ regF s (chReg c 0) 4 5 = sid))

/-- A packet's samples: sample 4i + m in bits [16m + 15 : 16m] of sample word i (R299). -/
def streamSamples (k : Frame) (sp : Nat) (stamp : Word) : List Sample :=
  (List.range (4 * (k.len - 2))).map (fun j =>
    { v := fld (k.word (2 + j / 4)) (16 * (j % 4)) 16, missing := false
      time := k.word 1 + BitVec.ofNat 64 (j * sp / 2 ^ 16), stamp := stamp, sseq := fld (k.word 0) 0 48, pidx := j, num := 0, at_ := 0, lost := 0 })

/-- LOSS of the trigger flag word. -/
def loss (s : State) : State := setTrig s 47

/-- The missing samples of a gap are stored as 0 (R317). -/
def fillGap (s : State) (c n sp : Nat) (stamp : Word) : State :=
  let t0 := (mchanOf s c).expect
  let s := loss (bump s (chReg c 0x28) n)
  (List.range (min n 33554432)).foldl (fun s i => putSample c 0 s
    { v := 0, missing := true, time := t0 + BitVec.ofNat 64 (i * sp / 2 ^ 16), stamp := stamp, sseq := 0, pidx := 0, num := 0, at_ := 0, lost := 0 }) s

/-- A full ring drops the whole packet: its samples are missing in the segment that they fall in, which may be one whose PRE
samples are yet to be taken (R335). -/
def dropPacket (s : State) (c n : Nat) : State :=
  let s := loss (bump s (chReg c 0x28) n)
  let x := mchanOf s c
  putMchan s c { x with
    overflow := true
    lost := if x.seg.any (fun g => decide (g.got < g.len)) then x.lost else x.lost + n
    seg := x.seg.map (fun g => if g.got < g.len then { g with missing := g.missing + n, incomplete := true } else g) }

/-- A packet of a bound stream while Markhor is armed. -/
def ingest (s : State) (c : Nat) (k : Frame) (stamp : Word) : State :=
  let x := mchanOf s c
  let sp := chSperiod s c
  let q := fld (k.word 0) 0 48
  let d := match x.lastSseq with | some l => (q + 2 ^ 48 - l) % 2 ^ 48 | none => 1
  if d = 0 ∨ 2 ^ 47 ≤ d then bump s (chReg c 0x2C) 1
  else
    let ps := k.word 1
    let n := 4 * (k.len - 2)
    let s := if d = 1 then s else
      let lost := if x.expect.toNat ≤ ps.toNat then (ps.toNat - x.expect.toNat) * 2 ^ 16 / max 1 sp else 0
      let s := bump s (chReg c 0x2C) (d - 1)
      if lost = 0 then s else fillGap s c lost sp stamp
    let y := mchanOf s c
    let s := putMchan s c { y with lastSseq := some q, expect := ps + BitVec.ofNat 64 (n * sp / 2 ^ 16) }
    if !samplesFit s c n then dropPacket s c n
    else (streamSamples k sp stamp).foldl (putSample c (fld (k.word 0) 56 3)) s

/-- A STREAM packet's content (R299 to R301, R304, R316). -/
def streamBody (n : Nat) (frac : BitVec 8) (k : Frame) (s : State) : State :=
  let w := k.word 0
  let sid := fld w 59 5
  if !regBit s (lnkReg n 0x0AC) sid then violate s n 0x07 sid
  else if 4 ≤ fld w 56 3 ∨ fld w 54 2 = 3 ∨ fld w 48 6 ≠ 0 then violate s n 0x08 sid
  else match boundChan s n sid with
    | none => bump s (ro pAcq 0x0C4) 1
    | some c =>
      let s := putMchan s c { mchanOf s c with fmt := some (fld w 56 3), cls := some (fld w 54 2) }
      if mkhArmed s then ingest s c k (s.tb + BitVec.ofNat 64 frac.toNat) else s

def execStream (n : Nat) (pk : LinkPkt) (frac : BitVec 8) (s : State) : Host.Outcome State Fault Refusal :=
  finish (receive n 1 0 pk noHold (streamBody n frac) s)

/-- The rate of a stream over 100 µs exceeds f by more than 1 % (R317). -/
def rateCheck (c samples : Nat) (s : State) : State :=
  if mkhArmed s && decide (c < 32) && chEn s c && decide (101 * 2 ^ 24 * 100000 < samples * chSperiod s c * 100) then
    logEvent (putMchan s c { mchanOf s c with rateExceed := true }) pAcq 0x0050 (BitVec.ofNat 32 c)
  else s

def execRateCheck (c : Nat) (samples : Nat) (s : State) : Host.Outcome State Fault Refusal :=
  finish (rateCheck c samples s)

/-! ### Probe samples (R318) -/

/-- What slot `i` waits for: the tapped entry of an enabled output queue (64 + i), a probe word of the image, or nothing. -/
def slotWaits (s : State) (i : Nat) : Option Nat :=
  if (reg64 s (chReg 32 0x38) (chReg 32 0x3C)).testBit i then (if s.img.outQ.getLsbD i then some (64 + i) else none)
  else if s.img.probeMap.any (fun e => e.2.2.2 == i) then some i else none

/-- The word of slot `i` in cycle c, if it has arrived. -/
def slotGot (s : State) (i c : Nat) : Option Nat :=
  match slotWaits s i with
  | none => some 0
  | some k => (s.mkh.probeGot.find? (fun e => e.1 == k && e.2.1 == c)).map (·.2.2.toNat)

/-- The probe sample of cycle c, once every selected word of it has arrived. -/
def probeSample (s : State) (c : Nat) : Option Nat :=
  let ws := (probeSlots s).map (fun i => slotGot s i c)
  if ws.all (·.isSome) then some (ws.foldr (fun w v => w.getD 0 + 2 ^ 64 * v) 0) else none

/-- A complete probe sample enters the ring, or finds it full. -/
def takeProbe (s : State) (c v : Nat) : State :=
  if !samplesFit s 32 1 then dropPacket s 32 1
  else putSample 32 0 s { v := v, missing := false, time := s.tb, stamp := s.tb, sseq := c, pidx := 0, num := 0, at_ := 0, lost := 0 }

/-- Do the selected slots wait for nothing, every one of them 0 (R318)? -/
def slotsIdle (s : State) : Bool := !(probeSlots s).isEmpty && (probeSlots s).all (fun j => (slotWaits s j).isNone)

/-- The sample of a cycle in which no selected slot holds a word: zeros.  DESIGN CHOICE (assumption 103): it is complete once
every tile has completed the cycle. -/
def idleProbe (s : State) : State :=
  let c := s.mkh.probeDone
  if !mkhArmed s || !chEn s 32 || !s.run.active || !slotsIdle s || decide (nextFirst s ≤ c) then s
  else takeProbe { s with mkh := { s.mkh with probeDone := c + 1 } } c 0

/-- A probe word or tapped entry reaches channel 32; words of one source arrive in cycle order.  With none on its way, the
sample of a cycle that waits for none is complete. -/
def probeArrives (i : Nat) (s : State) : State :=
  match s.mkh.probes[i]? with
  | none => idleProbe s
  | some e =>
    if s.mkh.probes.any (fun f => f.1 == e.1 && decide (f.2.1 < e.2.1)) then s
    else
      let s := { s with mkh := { s.mkh with probes := s.mkh.probes.eraseIdx i } }
      if !mkhArmed s || !chEn s 32 || decide (e.2.1 < s.mkh.probeDone) ||
          !(probeSlots s).any (fun j => decide (slotWaits s j = some e.1)) then s
      else
        let s := { s with mkh := { s.mkh with probeGot := s.mkh.probeGot ++ [e] } }
        match probeSample s e.2.1 with
        | none => s
        | some v =>
          let s := { s with mkh := { s.mkh with
            probeDone := e.2.1 + 1, probeGot := s.mkh.probeGot.filter (fun f => decide (e.2.1 < f.2.1)) } }
          takeProbe s e.2.1 v

def execProbeWordArrive (i : Nat) (s : State) : Host.Outcome State Fault Refusal := finish (probeArrives i s)

/-! ### The sequencer (R321 to R327) -/

/-- A rim capture with source TRIG that waits for a fire can have none any more (R363). -/
def trigLost (s : State) : State :=
  match s.rim.want with
  | some w =>
    if w.src = 1 ∧ w.fired = false then
      { s with rim := { s.rim with want := none }
               trc := { s.trc with snap := s.trc.snap.map (fun j => { j with wantRim := false, rimStatus := 0x15 }) } }
    else s
  | none => s

/-- Where the trigger sample of a fire lies for a channel (R329). -/
def fireAt (s : State) (e : MEvent) (c : Nat) : TrigAt × Nat × Word :=
  if e.src = c ∧ c < 32 then (.sample e.idx, e.frac, e.time)
  else if e.src = 0x20 ∧ c = 32 then
    let x := mchanOf s 32
    match x.ring.find? (fun y => y.sseq == e.cyc) with
    | some y => (.sample y.num, 0, e.time)
    | none => (if s.mkh.probeDone ≤ e.cyc then .cycle e.cyc else .next, 0, e.time)
  else (.next, 0, e.time)

/-- The sequencer fires on event `e`. -/
def fire (s : State) (e : MEvent) : State :=
  let s := setTrig s 40
  let s := { s with mkh := { s.mkh with stage := 0, fires := s.mkh.fires + 1 }
                    rim := { s.rim with want := s.rim.want.map (fun w => { w with fired := true }) } }
  let s := trigOut s 0x3C 0 e.stamp
  let cfg := getReg s (ro pAcq 0x0C0)
  let s := if cfg.getLsbD 16 then setFlag s (fld cfg 8 8) (fld cfg 0 6) none else s
  ((enabledChans s).filter (fun c => regBit s (chReg c 0) 14)).foldl (fun s c =>
    let (p, f, t) := fireAt s e c
    trigger s c f t p true) s

/-- The sequencer takes the oldest event of its queue (R323). -/
def sequence (s : State) : State :=
  match s.mkh.queue with
  | [] => s
  | e :: rest =>
    if !mkhArmed s || !regBit s mkhCtl 2 then s
    else
      let s := { s with mkh := { s.mkh with queue := rest } }
      let cfg := getReg s (ro pAcq (0x100 + 8 * s.mkh.stage))
      if e.src = fld cfg 6 6 then { s with mkh := { s.mkh with stage := 0, count := 0 } }
      else if e.src ≠ fld cfg 0 6 then s
      else
        let n := s.mkh.count + 1
        if n < max 1 (getReg s (ro pAcq (0x104 + 8 * s.mkh.stage))).toNat then { s with mkh := { s.mkh with count := n } }
        else
          let s := { s with mkh := { s.mkh with count := 0 } }
          if cfg.getLsbD 15 then fire s e
          else
            let k := fld cfg 12 3
            trigOut (setTrig { s with mkh := { s.mkh with stage := k } } (32 + k)) 0x3D k e.stamp

def execSequencerEvent (s : State) : Host.Outcome State Fault Refusal := finish (sequence s)

/-- An edge on TRIG_IN k (R314, R321). -/
def trigIn (k : Nat) (rise : Bool) (frac : BitVec 8) (s : State) : State :=
  let t := s.tb + BitVec.ofNat 64 frac.toNat
  let s := if rise then setReg64 s (ro pAcq (0x0E0 + 8 * k)) (ro pAcq (0x0E4 + 8 * k)) t.toNat else s
  let s := mkhEvent s { src := (if rise then 0x28 else 0x2C) + k % 4, frac := 0, time := t, stamp := t, idx := 0, cyc := 0, tag := none,
                            arr := s.tb }
  if regBit s (ro pPwr 0x108) 0 then wake s else s

def execTrigInEdge (k : Nat) (rise : Bool) (frac : BitVec 8) (s : State) : Host.Outcome State Fault Refusal :=
  finish (trigIn k rise frac s)

/-- A due pulse of TRIG_OUT k begins, or extends the one that is active (R326). -/
def pulseStart (k : Nat) (s : State) : State :=
  let x := pulseOf s k
  match x.due with
  | [] => s
  | _ :: rest => if mkhArmed s then putPulse s k { due := rest, active := true, ext := x.active } else s

def execTrigOutPulse (k : Nat) (s : State) : Host.Outcome State Fault Refusal := finish (pulseStart k s)

def pulseEnd (k : Nat) (s : State) : State :=
  let x := pulseOf s k
  putPulse s k (if x.ext then { x with ext := false } else { x with active := false })

def execTrigOutPulseEnd (k : Nat) (s : State) : Host.Outcome State Fault Refusal := finish (pulseEnd k s)

/-! ### Commit, POST, re-arm (R330, R332) -/

def acqBase (s : State) : Nat := reg64 s (ro pAcq 0x090) (ro pAcq 0x094)
def acqLen (s : State) : Nat := reg64 s (ro pAcq 0x098) (ro pAcq 0x09C)

/-- Was the trigger of another channel decided before `ord` and is its record not allocated? -/
def earlierOpen (s : State) (ord : Nat) : Bool :=
  (List.range 33).any (fun c =>
    let x := mchanOf s c
    (match x.seg with | some g => decide (g.ord < ord ∧ g.committed = none) | none => false) ||
    (match x.pend with | some p => decide (p.1 < ord) | none => false))

/-- A record's place is allocated at the write pointer. -/
def allocate (s : State) (c : Nat) (g : Seg) : State × Seg :=
  match g.committed with
  | some _ => (s, g)
  | none => ({ s with mkh := { s.mkh with wp := s.mkh.wp + recordBytes s c } },
      { g with committed := some s.mkh.wp, acq := acqBase s })

/-- A commit comes in a later period than the decision (R328), when every decision of that period is known (R332). -/
def segCommit (c : Nat) (s : State) : State :=
  match (mchanOf s c).seg with
  | none => s
  | some g =>
    if g.committed.isSome || earlierOpen s g.ord || decide (s.tb.toNat / 256 ≤ g.ord / 64) then s
    else
      let (s, g) := allocate s c g
      putMchan s c { mchanOf s c with seg := some g }

def execSegmentCommit (c : Nat) (s : State) : Host.Outcome State Fault Refusal := finish (segCommit c s)

/-- The last POST sample is in the ring: the segment drains; after SEG_MAX the channel stops (R332). -/
def postDone (c : Nat) (s : State) : State :=
  let x := mchanOf s c
  match x.seg with
  | none => s
  | some g =>
    if g.got < g.len ∨ g.committed = none then s
    else
      let full := decide (segMax s ≤ x.segs + x.drain.length + 1)
      putMchan s c { x with
        seg := none, drain := x.drain ++ [{ g with post := g.len - g.pre }], stopped := full, state := if full then 0 else 3 }

def execSegmentPostDone (c : Nat) (s : State) : Host.Outcome State Fault Refusal := finish (postDone c s)

/-- Re-arm time and HOLDOFF have passed, and PRE samples have arrived. -/
def rearm (c : Nat) (s : State) : State :=
  let x := mchanOf s c
  if x.state = 3 ∧ chPre s c ≤ x.since then putMchan s c { x with state := 1 } else s

def execChannelRearm (c : Nat) (s : State) : Host.Outcome State Fault Refusal := finish (rearm c s)

/-! ### Records (R332 to R334) -/

/-- Pieces of `k` elements. -/
def piecesOf {α : Type} (k : Nat) : Nat → List α → List (List α)
  | 0, _ => []
  | n + 1, l => if l.isEmpty then [] else l.take k :: piecesOf k n (l.drop k)

/-- The pair of one interval: minimum and maximum, for LOGIC16 the AND and the OR (R334). -/
def reducePair (fmt : Nat) (l : List Nat) : Nat :=
  match l with
  | [] => 0
  | v :: vs =>
    if fmt = 3 then vs.foldl (fun a b => a &&& b) v + 65536 * vs.foldl (fun a b => a ||| b) v
    else
      let lo := vs.foldl (fun a b => if sampleVal fmt b < sampleVal fmt a then b else a) v
      let hi := vs.foldl (fun a b => if sampleVal fmt a < sampleVal fmt b then b else a) v
      lo + 65536 * hi

/-- Zeros up to a whole 64-byte line. -/
def padLine (bs : List Byte) : List Byte := bs ++ List.replicate ((64 - bs.length % 64) % 64) 0

/-- The words of bank space that an undrained sample lies in. -/
def Seg.span (g : Seg) (a : Nat) : Nat × Nat := (a / 8, (a + g.width + 7) / 8 - a / 8)

/-- The drain reads what a segment has in the ring, over port B: a word with wrong parity is read as it is, and counted once
(R200, R331, R332). -/
def takeSamples (s : State) (g : Seg) : State × Seg :=
  let spans := (g.places.map g.span).eraseDups
  let bad := spans.any (fun p => bankBad s p.1 p.2)
  (spans.foldl (fun s p => bankRead s p.1 p.2) s,
    { g with places := [], perr := g.perr || bad
             out := g.out ++ g.places.map (fun a => leNat (bankBytes s a g.width)) })

/-- A record as stored: header line, raw samples, reduction pairs. -/
def recordOfSeg (c : Nat) (g : Seg) : List Byte :=
  let vs := g.out
  let n := vs.length
  let raw := if g.red ≠ 1 then padLine (vs.flatMap (leBytes g.width)) else []
  let pairs := if g.red ≠ 0 then padLine ((piecesOf g.redK (n + 1) vs).flatMap (fun l => leBytes 4 (reducePair g.fmt l)))
    else []
  let partly := decide (g.red ≠ 0 ∧ n % g.redK ≠ 0)
  let w0 := place 64 0 6 c ||| place 64 6 1 g.incomplete.toNat ||| place 64 7 1 partly.toNat |||
    place 64 8 1 g.fromSeq.toNat ||| place 64 9 1 g.perr.toNat ||| place 64 12 20 g.num ||| place 64 32 8 g.frac
  let lines := 1 + (raw.length + pairs.length) / 64
  ([w0, g.tstamp, g.stamp, place 64 0 48 g.sseq ||| place 64 48 10 g.index, place 64 0 32 g.missing,
    place 64 0 24 g.pre ||| place 64 32 25 g.post, place 64 0 32 lines, 0].flatMap wordBytes) ++ raw ++ pairs

/-- DONE once every enabled channel has stopped (R332, R341). -/
def checkDone (s : State) : State :=
  if s.mkh.state = 2 ∧ (enabledChans s).all (fun c => (mchanOf s c).stopped && (mchanOf s c).drain.isEmpty) then
    trigLost { s with mkh := { s.mkh with state := 3 } }
  else s

/-- The rest of a segment drains, and its record stands in the acquisition buffer. -/
def storeRecord (s : State) (c : Nat) (g : Seg) : State :=
  let x := takeSamples s g
  let s := dramWrite x.1 (g.acq + g.committed.getD 0) (recordOfSeg c x.2) mkhStop
  if g.incomplete then loss s else s

/-- The oldest undrained segment of a channel is stored, those of an earlier arming first; one that is committed and still open
drains as far as its samples have arrived, so that they free their places (R332, R337).  DESIGN CHOICE (assumption 124): its record
is in DRAM once the segment has ended. -/
def drainRecord (c : Nat) (s : State) : State :=
  let x := mchanOf s c
  match x.left, x.drain with
  | g :: rest, _ => let s := storeRecord s c g; putMchan s c { mchanOf s c with left := rest }
  | [], g :: rest =>
    let s := storeRecord s c g
    checkDone (putMchan s c { mchanOf s c with drain := rest, segs := x.segs + 1 })
  | [], [] =>
    match x.seg with
    | some g =>
      if g.committed.isSome then
        let y := takeSamples s g
        putMchan y.1 c { mchanOf y.1 c with seg := some y.2 }
      else s
    | none => s

def execRecordDrain (c : Nat) (ups : List BankUpset) (s : State) : Host.Outcome State Fault Refusal :=
  finish (drainRecord c (ups.foldl bankUpset s))

/-! ### Disarm and MKH_CTL (R335, R341) -/

/-- A channel at a disarm: a segment in POST is stored with what was received (R335). -/
def cutChannel (s : State) (c : Nat) : State :=
  let x := mchanOf s c
  match x.seg with
  | none => putMchan s c { x with state := 0, pend := none, armRise := false, armFall := false, armWin := false }
  | some g =>
    let (s, g) := allocate s c g
    let g := { g with incomplete := g.incomplete || decide (g.got < g.len), post := g.got - g.pre }
    putMchan s c { x with
      state := 0, seg := none, pend := none, drain := x.drain ++ [g], armRise := false, armFall := false, armWin := false }

/-- The channel whose open segment was decided first. -/
def firstCut (s : State) : Option Nat :=
  (List.range 33).foldl (fun b c =>
    match (mchanOf s c).seg, b.bind (fun d => (mchanOf s d).seg) with
    | some g, some h => if g.ord < h.ord then some c else b
    | some _, none => some c
    | none, _ => b) none

/-- Markhor disarms: open segments are cut in the order of their decisions (R332, R335). -/
def disarm (s : State) : State :=
  if !mkhArmed s then s
  else
    let s := (List.range 33).foldl (fun s _ => match firstCut s with | some c => cutChannel s c | none => s) s
    let s := (List.range 33).foldl cutChannel s
    trigLost { s with mkh := { s.mkh with state := 0, queue := [], pulses := [], probeGot := [] } }

/-- A write of MKH_CTL. -/
def mkhCtlWrite (v : Reg) (s : State) : State :=
  let s := writeRW s mkhCtl v
  let s := if v.getLsbD 0 then mkhEvent s (plainEvent s 0x38 0) else s
  if v.getLsbD 1 then disarm s else s

def execMkhForce (v : Reg) (s : State) : Host.Outcome State Fault Refusal := finish (mkhCtlWrite v s)
def execDisarm (v : Reg) (s : State) : Host.Outcome State Fault Refusal := finish (mkhCtlWrite v s)

/-! ### Markers (R293, R338) -/

/-- A MARKER's content. -/
def markerBody (n : Nat) (frac : BitVec 8) (k : Frame) (s : State) : State :=
  if fld (k.word 1) 32 32 ≠ 0 then violate s n 0x0A k.seq
  else
    let t := s.tb + BitVec.ofNat 64 frac.toNat
    logMarker (modPort s n (fun x => { x with markRx := t })) n true t [k.word 0, k.word 1, k.word 2]

def execMarker (n : Nat) (pk : LinkPkt) (frac : BitVec 8) (s : State) : Host.Outcome State Fault Refusal :=
  finish (receive n 3 0 pk noHold (markerBody n frac) s)

/-- A MARKER is due on a port that is UP and not idle; its words are those of the moment it departs. -/
def sendMarker (n : Nat) (s : State) : State :=
  let x := portOf s n
  if x.state ≠ 8 ∨ x.eidleTx ∨ x.eidleRx then s else queuePkt s n 3 3 [0, 0, 0]

def execMarkerSend (n : Nat) (s : State) : Host.Outcome State Fault Refusal := finish (sendMarker n s)

end Sys2Proof.Machine
end

