-- ==== Sys2Proof/Machine/Saiga.lean ====
section
/-!
DEFINITION. Saiga (12): doorbells and credits, the descriptor store, contexts and flags, dispatch, release and completion
entries, interrupt coalescing, and aborts.
-/
namespace Sys2Proof.Machine

/-! ### Queues (R348 to R351, R377, R378) -/

/-- Register `o` of a queue block. -/
def sqReg (q o : Nat) : Nat := ro pJob (0x100 + 0x40 * q + o)

def sqEn (s : State) (q : Nat) : Bool := regBit s (sqReg q 0) 0

/-- Slots of a ring by its SIZE field; 5 to 7 act as 4. -/
def slotsOf (size : Nat) : Nat := 64 * 2 ^ min 4 size
def sqSize (s : State) (q : Nat) : Nat := slotsOf (regF s (sqReg q 0) 1 3)

/-- CQ_HEAD + SIZE. -/
def sqLimit (s : State) (q : Nat) : Nat := ((queueOf s q).cqHead + sqSize s q) % 65536

/-- The jobs of a queue that are accepted and not released, oldest first. -/
def queueJobs (s : State) (q : Nat) : List Job := s.saiga.jobs.filter (fun j => j.q == q)

/-- DB_STAT bit `b` of a queue. -/
def dbStat (s : State) (q b : Nat) : State := orReg s (sqReg q 0x24) (place 32 b 1 1)

/-- A discarded doorbell: its DB_STAT bit and its event with the value written (R350, R351). -/
def badDoorbell (s : State) (q b code v : Nat) : State :=
  logEvent (dbStat s q b) pJob code (place 32 0 3 q ||| place 32 16 16 v)

/-- A job just accepted. -/
def newJob (q seq : Nat) : Job :=
  { q := q, seq := seq, desc := 0, phase := .accepted, order := 0, status := 0, result := 0, detail := 0,
    workDone := false, aborted := false, holds := false, met := [], olds := [] }

/-- An SQ doorbell (R350).  An accepted one is a wake event (R492). -/
def ringSq (q : Nat) (v : Reg) (s : State) : State :=
  let x := queueOf s q
  let t := fld v 0 16
  let d := (t + 65536 - x.tail) % 65536
  let a := (sqLimit s q + 65536 - x.tail) % 65536
  if !sqEn s q then dbStat s q 3
  else if d = 0 then s
  else if 32768 ≤ d then badDoorbell s q 1 0x0081 t
  else if a < d then badDoorbell (bump s (sqReg q 0x28) 1) q 0 0x0080 t
  else
    let s := putQueue s q { x with tail := t }
    let new := (List.range d).map (fun i => newJob q ((x.tail + i) % 65536))
    wake { s with saiga := { s.saiga with jobs := s.saiga.jobs ++ new } }

def execSqDoorbell (q : Nat) (v : Reg) (s : State) : Host.Outcome State Fault Refusal := finish (ringSq q v s)

/-- A CQ doorbell (R351). -/
def ringCq (q : Nat) (v : Reg) (s : State) : State :=
  let x := queueOf s q
  let h := fld v 0 16
  if !sqEn s q then dbStat s q 3
  else if (x.cqTail + 65536 - x.cqHead) % 65536 < (h + 65536 - x.cqHead) % 65536 then badDoorbell s q 2 0x0082 h
  else putQueue s q { x with cqHead := h }

def execCqDoorbell (q : Nat) (v : Reg) (s : State) : Host.Outcome State Fault Refusal := finish (ringCq q v s)

/-- Does the descriptor ring of a queue lie within installed DRAM (R348)? -/
def ringFits (s : State) (q : Nat) (v : Reg) : Bool :=
  decide (reg64 s (sqReg q 4) (sqReg q 8) + 64 * slotsOf (fld v 1 3) ≤ capacity s)

/-- A write of SQ_CTL (R348, R377). -/
def sqCtlWrite (q : Nat) (v : Reg) (s : State) : State :=
  let cur := getReg s (sqReg q 0)
  let w := v &&& rwMask (sqReg q 0)
  if cur.getLsbD 0 then
    if (w ^^^ cur) &&& ~~~1 ≠ 0 ∨ (!w.getLsbD 0 && !(queueJobs s q).isEmpty) then refuse s pJob
    else setReg s (sqReg q 0) w
  else if w.getLsbD 0 && !ringFits s q w then refuse s pJob
  else
    let s := setReg s (sqReg q 0) w
    if w.getLsbD 0 then putQueue s q { SQueue.reset with used := true } else s

def execSqEnable (q : Nat) (v : Reg) (s : State) : Host.Outcome State Fault Refusal := finish (sqCtlWrite q v s)

/-! ### Descriptors (R350, R353 to R355) -/

/-- The operations and, for each byte of the parameters 0x18 to 0x3F, the bits that it may hold (R355). -/
def paramBits (exec op off : Nat) : Nat :=
  let b64 := fun o => decide (o ≤ off ∧ off < o + 8)
  let b48 := fun o => decide (o ≤ off ∧ off < o + 6)
  if exec < 8 then if b64 0x18 || b64 0x20 || b64 0x28 then 0xFF else if off = 0x30 then 0x0F else 0
  else match exec, op with
    | 0x08, _ => if b64 0x18 || b64 0x28 then 0xFF else if off = 0x30 then 1 else if off = 0x31 then 0xFF else 0
    | 0x09, _ => if off = 0x31 then 0xFF else 0
    | 0x0A, 1 => if b48 0x18 || b64 0x20 then 0xFF else 0
    | 0x0A, 2 => if b48 0x18 then 0xFF else 0
    | 0x0B, _ => if b48 0x18 || b64 0x20 then 0xFF else if off = 0x30 then 3 else if off = 0x31 then 0x37 else 0
    | 0x0C, 2 => if b64 0x18 || b64 0x20 || b64 0x28 then 0xFF else if off = 0x30 then 0x7F else 0
    | 0x0D, 1 => if off = 0x31 then 0xFF else 0
    | 0x0D, 2 => if off = 0x30 ∨ off = 0x31 then 0xFF else 0
    | _, _ => 0

/-- Is OP an operation of EXEC (R355)? -/
def opKnown (exec op : Nat) : Bool :=
  if exec ≤ 9 ∨ exec = 0x0B then op == 1
  else if exec = 0x0A then decide (1 ≤ op ∧ op ≤ 3)
  else if exec = 0x0C ∨ exec = 0x0D then decide (op = 1 ∨ op = 2)
  else false

/-- A descriptor without a reserved code and with every reserved bit 0 (R355). -/
def Job.valid (j : Job) : Bool :=
  opKnown j.exec j.op && !j.flags.testBit 7 && decide (j.par 5 1 < 64 ∧ j.par 6 2 = 0) &&
    (List.range 40).all (fun i =>
      let b := j.par (0x18 + i) 1
      decide (b &&& paramBits j.exec j.op (0x18 + i) = b)) &&
    (if j.exec < 8 then decide (j.par 0x30 1 % 4 ≠ 3 ∧ j.par 0x30 1 / 4 ≠ 3) else true) &&
    (if j.exec = 0x0B then decide (j.par 0x31 1 / 16 ≠ 3) else true)

/-- The place of a job's slot, and the descriptor in it. -/
def descAddr (s : State) (j : Job) : Nat := reg64 s (sqReg j.q 4) (sqReg j.q 8) + 64 * (j.seq % sqSize s j.q)
def descOf (s : State) (j : Job) : BitVec 512 := BitVec.ofNat 512 (leNat (dramRead s (descAddr s j) 64))

/-- The head of a queue in line for its context: every earlier job has taken one, its descriptor is copied (R356). -/
def headJob (s : State) (q : Nat) : Option Job :=
  ((queueJobs s q).find? (fun j => j.phase == .accepted || j.phase == .copied)).filter (fun j => j.phase == .copied)

/-- Heads that begin to wait get their place in the order of waiting, lower queues first (R356). -/
def markHeads (s : State) : State :=
  (List.range 8).foldl (fun s q =>
    match headJob s q with
    | some j =>
      if j.order = 0 then
        let n := s.saiga.serial + 1
        modJob { s with saiga := { s.saiga with serial := n } } j.q j.seq (fun j => { j with order := n })
      else s
    | none => s) s

/-- A job that ends before it is dispatched: its slot in DETAIL for LOADER and SWAP, no cycle in RESULT for SNAP (R361, R363). -/
def Job.endUnrun (j : Job) (status : Nat) : Job :=
  match j.exec with
  | 0x08 => j.finish status 0 (place 64 8 8 (j.par 0x31 1))
  | 0x09 => j.finish status 0 (place 64 8 8 (j.par 0x31 1))
  | 0x0B => j.finish status 0xFFFFFFFFFFFF 0
  | _ => j.finish status 0 0

/-- Saiga copies the descriptor of the oldest accepted job; a malformed one finishes BAD_DESC without running (R355,
assumption 25). -/
def copyDescriptor (q : Nat) (err : DramErr) (s : State) : State :=
  if retraining s then s else
  match (queueJobs s q).find? (fun j => j.phase == .accepted) with
  | none => s
  | some j =>
    let d := descOf s j
    let a := descAddr s j
    let s := dramFetch (strike s [{ line := a / 64, err := err }]) a 64
    markHeads (modJob s q j.seq (fun j =>
      let j := { j with desc := d, phase := .copied }
      if j.valid then j else j.endUnrun 0x10))

def execDescriptorCopy (q : Nat) (err : DramErr) (s : State) : Host.Outcome State Fault Refusal :=
  finish (copyDescriptor q err s)

/-! ### Contexts and readiness (R356, R357) -/

/-- The job that occupies a context. -/
def ctxJob (s : State) (c : Nat) : Option Job := s.saiga.jobs.find? (fun j => j.holds && j.ctx == c)

/-- No head of another queue waits longer for the context. -/
def firstInLine (s : State) (j : Job) : Bool :=
  (List.range 8).all (fun q => match headJob s q with
    | some h => decide (h.q = j.q ∨ h.ctx ≠ j.ctx ∨ j.order < h.order)
    | none => true)

def takeContext (q : Nat) (s : State) : State :=
  match headJob s q with
  | none => s
  | some j =>
    if (ctxJob s j.ctx).isSome || !firstInLine s j then s
    else
      let s := if j.flags.testBit 1 then dropFlags s j.ctx 0xFFFFFFFFFFFFFFFF else s
      markHeads (modJob s q j.seq (fun j => { j with phase := .inContext, holds := true }))

def execContextTake (q : Nat) (s : State) : Host.Outcome State Fault Refusal := finish (takeContext q s)

/-- WAIT_MASK of a job. -/
def Job.waitMask (j : Job) : Word := BitVec.ofNat 64 (j.par 8 8)

/-- The job of the context becomes ready, and the flags that it matched clear. -/
def makeReady (c : Nat) (s : State) : State :=
  match ctxJob s c with
  | none => s
  | some j =>
    let hit := ctxFlags s c &&& j.waitMask
    if j.phase ≠ .inContext ∨ (j.waitMask ≠ 0 ∧ hit = 0) then s
    else
      let n := s.saiga.serial + 1
      let s := putFlags s c (ctxFlags s c &&& ~~~hit)
      modJob { s with saiga := { s.saiga with serial := n } } j.q j.seq
        (fun j => { j with phase := .ready, order := n })

def execJobReady (ctx : Nat) (s : State) : Host.Outcome State Fault Refusal := finish (makeReady ctx s)

/-- A HUBCLK period ends with the readiness test of every context (R357). -/
def flagPeriod (s : State) : State :=
  let s := ((s.saiga.jobs.filter (fun j => j.phase == .inContext)).map Job.ctx).foldl (fun s c => makeReady c s) s
  { s with saiga := { s.saiga with fresh := [] } }

/-- One HUBCLK period with nothing commanded: readiness, the timebase, and the rim's clocks. -/
def hubPeriod (s : State) : State := rimPeriod (timebaseTick (flagPeriod s))

def flagSetWrite (v : Reg) (s : State) : State := setFlag s (fld v 0 8) (fld v 8 6) none
def execFlagSet (v : Reg) (s : State) : Host.Outcome State Fault Refusal := finish (flagSetWrite v s)

def flagClrWrite (v : Reg) (s : State) : State := clrFlag s (fld v 0 8) (fld v 8 6)
def execFlagClr (v : Reg) (s : State) : Host.Outcome State Fault Refusal := finish (flagClrWrite v s)

/-! ### Dispatch (R18, R358) -/

/-- A START job, a GRANT or STOP job. -/
def Job.isStart (j : Job) : Bool := decide (j.exec = 0x0A ∧ j.op = 1)
def Job.isGrantStop (j : Job) : Bool := decide (j.exec = 0x0A ∧ (j.op = 2 ∨ j.op = 3))

/-- The earliest ready job of an executor that satisfies `f`. -/
def readyHead (s : State) (x : Nat) (f : Job → Bool) : Option Job :=
  (s.saiga.jobs.filter (fun j => j.phase == .ready && j.exec == x && f j)).foldl (fun m j =>
    match m with
    | some k => if j.order < k.order then some j else some k
    | none => some j) none

/-- The job that the executor takes now, if any: one at a time, but GRANT and STOP while a START is active (R358). -/
def takes (s : State) (x : Nat) : Option Job :=
  let busy := s.saiga.jobs.filter (fun j => j.works && j.exec == x)
  if busy.isEmpty then
    (readyHead s x (fun _ => true)).filter (fun j => !(j.isStart && s.saiga.jobs.any (fun k => k.works && k.exec == 9)))
  else if busy.any Job.isStart then readyHead s x Job.isGrantStop
  else none

/-- A JOB packet (R448). -/
def traceJob (s : State) (j : Job) (rel : Nat) : State :=
  if trcClass s 7 then
    tracePkt s 4 (curCycle s) 0x07 (j.q % 8 + 8 * rel + 256 * j.exec + 65536 * j.seq) []
  else s

/-- The executor takes its job; RUNINFO goes out when a START is dispatched (R302). -/
def dispatch (x : Nat) (s : State) : State :=
  match takes s x with
  | none => s
  | some j =>
    let s := traceJob (modJob s j.q j.seq (fun j => { j with phase := .dispatched })) j 0
    if j.isStart then sendRunInfo s else s

def execJobDispatch (x : Nat) (s : State) : Host.Outcome State Fault Refusal := finish (dispatch x s)

/-! ### Release (R361, R364, R365) -/

/-- The completion entry of a job on a ring of `size` entries. -/
def entryOf (j : Job) (size : Nat) : List Byte :=
  leBytes 2 j.seq ++ leBytes 1 j.status ++ leBytes 1 j.exec ++ leBytes 1 j.op ++
    leBytes 1 ((j.seq / size + 1) % 2 + 2 * j.workDone.toNat) ++ leBytes 1 j.q ++ leBytes 1 0 ++
    leBytes 8 (j.par 0x10 8) ++ leBytes 8 j.result.toNat ++ leBytes 8 j.detail.toNat

/-- The queue's vector; its count and timer start again. -/
def announce (s : State) (q : Nat) : State :=
  raiseVector (putQueue s q { queueOf s q with unann := 0, timer := false }) (1 + q)

/-- One more unannounced entry. -/
def coalesce (s : State) (q : Nat) : State :=
  let x := queueOf s q
  let n := x.unann + 1
  if max 1 (regF s (sqReg q 0) 8 8) ≤ n then announce s q
  else putQueue s q { x with unann := n, timer := x.timer || decide (regF s (sqReg q 0) 16 16 ≠ 0) }

/-- What a release with OK raises: SIGNAL, MKH_EV (R353). -/
def releaseSignals (s : State) (j : Job) : State :=
  if j.status ≠ 0 then s
  else
    let s := if j.flags.testBit 2 then setFlag s (j.par 4 1) (j.par 5 1 % 64) none else s
    if j.flags.testBit 3 then mkhEvent s (plainEvent s (0x30 + j.flags / 16 % 8) 0) else s

def release (q : Nat) (s : State) : State :=
  let x := queueOf s q
  match findJob s q x.cqTail with
  | none => s
  | some j =>
    if j.phase ≠ .finished then s
    else
      let size := sqSize s q
      let s := hostWrite s (reg64 s (sqReg q 0x0C) (sqReg q 0x10) + 32 * (j.seq % size)) (entryOf j size)
      let s := putQueue s q { x with cqTail := (x.cqTail + 1) % 65536, done := x.done + 1 }
      let s := { s with saiga := { s.saiga with jobs := s.saiga.jobs.filter (fun k => !(k.q == q && k.seq == j.seq)) } }
      let s := if trcClass s 7 then traceJob s j 1 else s
      let s := releaseSignals s j
      if j.flags.testBit 0 then coalesce s q else s

def execJobRelease (q : Nat) (s : State) : Host.Outcome State Fault Refusal := finish (release q s)

def coalTimer (q : Nat) (s : State) : State := if (queueOf s q).timer then announce s q else s
def execIrqCoalesceTimer (q : Nat) (s : State) : Host.Outcome State Fault Refusal := finish (coalTimer q s)

/-! ### Aborts (R366 to R368) -/

/-- What happens to an executing job's work at once; a running START stops with its run, a copy under way and a READOUT
when their engine reports how many bytes stand, a SNAP once the part that was captured has drained (R363, R368). -/
def stopWork (s : State) (j : Job) : State :=
  let done := fun (s : State) (r : Word) => finishJob s j.q j.seq 1 r 0
  match j.exec with
  | 0x08 =>
    let s := if j.phase = .running then
        putSlot { s with cfg := { s.cfg with loading := none } } (j.par 0x31 1)
          { slotOf s (j.par 0x31 1) with st := 3 }
      else s
    finishJob s j.q j.seq 1 0 (place 64 8 8 (j.par 0x31 1))
  | 0x09 =>
    let s := if s.run.active then s else { s with cfg := { s.cfg with resValid := false, swapping := none } }
    finishJob s j.q j.seq 1 0 (place 64 8 8 (j.par 0x31 1))
  | 0x0A =>
    if j.op = 1 then (if s.run.job = some (j.q, j.seq) then stopNow s 4 else done s 0)
    else done s (if j.op = 2 then j.result else 0)
  | 0x0B =>
    let s := { s with rim := { s.rim with want := none } }
    match s.trc.snap with
    | some n =>
      if n.gotArr.isSome || n.gotRim then
        { s with trc := { s.trc with snap := some { n with wantArr := n.gotArr.isSome, wantRim := n.gotRim } } }
      else done { s with trc := { s.trc with snap := none } } 0xFFFFFFFFFFFF
    | none => done s 0xFFFFFFFFFFFF
  | 0x0D =>
    let s := if j.phase = .running ∧ j.op = 1 then
        putBank s (j.par 0x31 1) { bankOf s (j.par 0x31 1) with testing := false }
      else if j.phase = .running then
        let p := 17 * j.par 0x30 1 + j.par 0x31 1
        putTile s p { tileOf s p with testing := false }
      else s
    done s 0
  | 0x0C => if j.op = 2 then s else done s 0
  | _ => if j.phase = .running then s else done s 0

/-- An abort takes one job (R368). -/
def abortOne (s : State) (q seq : Nat) : State :=
  match findJob s q seq with
  | none => s
  | some j =>
    match j.phase with
    | .finished =>
      let s := modJob s q seq (fun j => if j.aborted then j else { j with status := 1, workDone := true, aborted := true })
      if j.exec = 0x0C ∧ j.op = 1 ∧ j.status = 0 then disarm s else s
    | .accepted =>
      let d := descOf s j
      modJob s q seq (fun j => { { j with desc := d }.endUnrun 1 with aborted := true })
    | .dispatched | .running => stopWork (modJob s q seq (fun j => { j with aborted := true })) { j with aborted := true }
    | _ => modJob s q seq (fun j => { j.endUnrun 1 with aborted := true })

/-- A run without a START job of its own stops too (R367). -/
def stopAbortedRun (s : State) : State := if s.run.active && s.run.cause != some 4 then stopNow s 4 else s

/-- The jobs that a target names: 0 job, 1 queue, 2 run, 3 device. -/
def abortHits (s : State) (target q seq : Nat) : List Job :=
  s.saiga.jobs.filter (fun j => match target with
    | 0 => j.q == q && j.seq == seq
    | 1 => j.q == q
    | 2 => s.run.active && s.run.job == some (j.q, j.seq)
    | _ => true)

/-- RESULT of an abort: 1 ACCEPTED, 2 ALREADY_DONE, 3 NOT_FOUND (R368, assumption 26). -/
def abortResult (s : State) (target q seq : Nat) : Nat :=
  let x := queueOf s q
  let back := (x.cqTail + 65536 - seq) % 65536
  if !(abortHits s target q seq).isEmpty then 1
  else if target = 0 then (if 1 ≤ back ∧ back ≤ min x.done 32767 then 2 else 3)
  else if target = 2 then (if s.run.active then 1 else 3)
  else if target = 3 then (if s.run.active ∨ mkhArmed s then 1 else 3)
  else 3

/-- Take every target of an abort; the abort waits for its decision. -/
def beginAbort (s : State) (target q seq : Nat) : State :=
  let hits := abortHits s target q seq
  let a : Abort := { target := target, q := q, seq := seq, result := abortResult s target q seq, count := hits.length }
  let s := hits.foldl (fun s j => abortOne s j.q j.seq) s
  let s := if 2 ≤ target then stopAbortedRun s else s
  let s := if target = 3 then disarm s else s
  markHeads { s with saiga := { s.saiga with abort := some a } }

/-- A write of ABORT_CMD. -/
def abortWrite (v : Reg) (s : State) : State :=
  if s.saiga.abort.isSome then refuse s pJob else beginAbort s (fld v 0 2) (fld v 2 3) (fld v 16 16)

def execAbortJob (v : Reg) (s : State) : Host.Outcome State Fault Refusal := finish (abortWrite v s)
def execAbortQueue (v : Reg) (s : State) : Host.Outcome State Fault Refusal := finish (abortWrite v s)
def execAbortRun (v : Reg) (s : State) : Host.Outcome State Fault Refusal := finish (abortWrite v s)
def execAbortDevice (v : Reg) (s : State) : Host.Outcome State Fault Refusal := finish (abortWrite v s)

/-- A device abort that the device performs by itself: it takes everything an abort in progress has not (R344, R487, R496). -/
def deviceAbort (s : State) : State := beginAbort s 3 0 0

/-- Has the work of everything that the abort took stopped? -/
def abortIdle (s : State) (a : Abort) : Bool :=
  !(s.saiga.jobs.any (fun j => j.aborted && j.works)) && !(decide (2 ≤ a.target ∧ a.result = 1) && s.run.active)

/-- Every register of a submission queue's block returns to its reset value. -/
def resetQueueRegs (s : State) (q : Nat) : State :=
  [0x00, 0x04, 0x08, 0x0C, 0x10, 0x24, 0x28].foldl (fun s o => setReg s (sqReg q o) (resetOf (sqReg q o))) s

/-- A Function Level Reset once its abort is decided: the completions are released, then every submission queue is reset
(R344, R368; assumption 60). -/
def resetQueues (s : State) : State :=
  let s := s.saiga.jobs.foldl (fun s j => release j.q s) s
  let s := (List.range 8).foldl resetQueueRegs s
  { s with saiga := { s.saiga with queues := [], jobs := [], flr := false } }

/-- The abort is decided (R366). -/
def decideAbort (s : State) : State :=
  match s.saiga.abort with
  | none => s
  | some a =>
    if !abortIdle s a then s
    else
      let s := raiseVector
        { s with saiga := { s.saiga with abort := none, abortRes := a.result, abortCnt := min 255 a.count } } 26
      if s.saiga.flr then resetQueues s else s

def execAbortDecided (s : State) : Host.Outcome State Fault Refusal := finish (decideAbort s)

end Sys2Proof.Machine
end

