-- ==== Sys2Proof/Machine/Reliab.lean ====
section
/-!
DEFINITION. Fault tolerance (14): heartbeats, checkpoints, rollback, the Chamois scrubber and the voted fields.
-/
namespace Sys2Proof.Machine

/-! ### Heartbeat (R416) -/

/-- A heartbeat is missing for HB_LIMIT µs: the tile is declared dead.  HERR_LAST shows kind 3 (R440). -/
def heartbeatLoss (p : Nat) (s : State) : State :=
  if inRun s p && !fenced s p && decide (s.pwr.state = 0) then
    killTile (setReg s (ro (pTil p) 0x224) (place 32 0 2 3 ||| place 32 31 1 1)) p 1
  else s

def execHeartbeatLoss (p : Nat) (s : State) : Host.Outcome State Fault Refusal := finish (heartbeatLoss p s)

/-! ### Checkpoints (R422 to R425) -/

def recovCtl : Nat := ro pGlb 0x400
def ckptBase (s : State) : Nat := reg64 s (ro pGlb 0x408) (ro pGlb 0x40C)
def ckptLen (s : State) : Nat := regF s (ro pGlb 0x410) 0 20 * 2 ^ 20

/-- C_min (R422). -/
def ckptMin (s : State) : Nat := ckptBytes s + 67108864

/-- The device writes into its checkpoint area: every channel takes part of it and leaves its idle states (R223, R224).  The
area's layout is not stated, so which lines the copies touch, and their activates, are left out (assumption 119). -/
def spoilCkpt (s : State) : State :=
  let s := (List.range 8).foldl (fun s ch => putChan s ch { chanOf s ch with selfRefresh := false, rankPd := 0 }) s
  { s with dram := s.dram.lose (ckptBase s) (ckptBase s + ckptLen s) }

/-- The ranges that the checkpoint area may not overlap, beside image slots and QPORT regions (R422). -/
def ckptForbidden (s : State) : List (Nat × Nat) :=
  [(reg64 s (ro pAcq 0x090) (ro pAcq 0x094), reg64 s (ro pAcq 0x098) (ro pAcq 0x09C)),
   (reg64 s (ro pAcq 0x0A8) (ro pAcq 0x0AC), (getReg s (ro pAcq 0x0B0)).toNat),
   (reg64 s (ro pTrc 0x088) (ro pTrc 0x08C), (getReg s (ro pTrc 0x090)).toNat)]

/-- Is the checkpoint area accepted (R422)? -/
def ckptAreaOk (s : State) : Bool :=
  let a := ckptBase s
  let n := ckptLen s
  decide (a + n ≤ capacity s ∧ ckptMin s ≤ n) && !hitsSlot s a n && !hitsRegion s a n &&
    !(ckptForbidden s).any (fun r => overlap a n r.1 r.2)

/-- Log CKPT_FAIL with its reason. -/
def ckptFail (s : State) (reason : Nat) : State :=
  logEvent { s with recov := { s.recov with fail := reason } } pGlb 0x006D (BitVec.ofNat 32 reason)

/-- The used tiles' owned banks. -/
def runBanks (s : State) : List Nat :=
  (List.range 128).filter (fun b => (usedTiles s).contains (bankOwner s b))

/-- What the checkpoint holds of a tile at the boundary; issues that a unit has accepted and not applied belong to it, since
they use latches and banks as the boundary leaves them (R122, R423). -/
def saveTile (s : State) (l : Nat) : Nat × TileSave :=
  let p := physOf s l
  let t := tileOf s p
  (l, { phys := p, ds := t.st.ckShadow, win := t.st.win, ports := t.st.ports
        un := { t.un with returns := [] }, gen1 := [] })

/-- The bank as the last checkpoint holds it, which the next one starts from; none when every region is to be copied. -/
def savedBank (s : State) (b : Nat) (all : Bool) : Option (Tbl BankWord) :=
  if all then none else s.recov.last.bind (fun c => (c.banks.find? (fun e => e.1 == b)).map (·.2))

/-- Take checkpoint k; with `all`, every bank region counts as dirty (R201, R424).  DESIGN CHOICE (assumption 117): the boundary
covers the banks that used tiles own, as R423 lists them, and a bank that the last checkpoint does not hold is copied whole. -/
def capture (s : State) (k : Nat) (all : Bool) : State :=
  let c : Ckpt :=
    { cyc := k, grant := s.run.grant, tiles := (usedTiles s).map (saveTile s)
      banks := (runBanks s).map (fun b => (b, (savedBank s b all).getD [])), record := s.run.record }
  let s := (runBanks s).foldl (fun s b =>
    let x := bankOf s b
    putBank s b { x with pend := if (savedBank s b all).isNone then everyRegion else x.dirty, dirty := [] }) s
  let r := s.recov
  { s with recov := { r with
      next := some c, early := if r.early = some k then none else r.early
      countsAt := r.counts.map (fun e => (e.1, e.2 - Tbl.get 0 r.skip e.1)) } }

/-- Has every QRD of the run's tiles a response? -/
def qrdsAnswered (s : State) : Bool :=
  (runTiles s).all (fun p => [0, 1].all (fun q => (((tileOf s p).un.port q).reads).all (fun r =>
    r.stage == .reorder || r.stage == .ready)))

/-- At the boundary before cycle k, where every tile waits: the next checkpoint (R424). -/
def ckptBoundary (s : State) : State :=
  let k := curCycle s + 1
  if s.run.active && (runTiles s).all (fun p => decide ((tileOf s p).phase = .close 8 ∧ (tileOf s p).cycle + 1 = k)) &&
      ckptDue s k && !ckptTaken s k && s.recov.next.isNone && s.run.holds.isEmpty && qrdsAnswered s then
    capture s k false
  else s

def execCheckpointBoundary (s : State) : Host.Outcome State Fault Refusal := finish (ckptBoundary s)

/-- The records of GEN = 1 that the stops logged for cycle k. -/
def savedGen (s : State) (c : Ckpt) : Ckpt :=
  { c with tiles := c.tiles.map (fun e =>
      (e.1, { e.2 with gen1 := (tileOf s e.2.phys).genLog.filter (fun x => decide (x.1 = c.cyc)) })) }

/-- Did the queue's request come before the checkpoint: its number is below the one that the checkpoint holds? -/
def Ckpt.before (c : Ckpt) (p q id : Nat) : Bool :=
  match c.tiles.find? (fun e => e.2.phys == p) with
  | some e => decide (id < (e.2.un.port q).nextId)
  | none => false

/-- Every save buffer drains into the journal. -/
def drainSaves (s : State) : State :=
  (List.range 4).foldl (fun s d => (List.range 4).foldl (fun s _ => drainSave s d) s) s

/-- All copies have reached the checkpoint area; the journals begin at this checkpoint (R424, R425). -/
def ckptComplete (s : State) : State :=
  let s := drainSaves s
  match s.recov.next with
  | none => s
  | some c =>
    if s.banks.any (fun e => e.2.pend.any (·.2)) || (s.run.active && decide (0 < c.cyc) && undelivered s (c.cyc - 1)) then s
    else
      let r := s.recov
      spoilCkpt { s with recov := { r with
        last := some (savedGen s c), next := none
        journal := r.journal.filter (fun x => decide (c.cyc < x.cyc) || (c.record.isNone && decide (c.cyc ≤ x.cyc)))
        undo := r.undo.filter (fun u => !c.before u.tile u.q u.id)
        counts := r.counts.map (fun e => (e.1, e.2 - Tbl.get 0 r.countsAt e.1)) } }

def execCheckpointComplete (s : State) : Host.Outcome State Fault Refusal := finish (ckptComplete s)

/-- A write of RECOV_CTL: during a run only CKPT_NOW acts (R438, R439). -/
def recovWrite (v : Reg) (s : State) : State :=
  if s.run.active then
    if !v.getLsbD 1 then refuse s pGlb
    else if s.recov.active then bump (bringForward s) (ro pGlb 0x428) 1
    else s
  else writeRW s recovCtl v

def execCkptNow (v : Reg) (s : State) : Host.Outcome State Fault Refusal := finish (recovWrite v s)

/-! ### Rollback (R426, R427) -/

/-- The hub reads a logical tile's step words and tables from the golden copy, and whether they can be had. -/
def fetchTile (s : State) (l : Nat) : State × Bool :=
  match golden s with
  | none => (s, false)
  | some g =>
    let L := iL g
    ([(1, 1024 * L * 9), (2, 16384), (3, 262144), (4, 2048)] ++ (if iFlag g 0 then [(7, 1024 * L * 9)] else [])).foldl
      (fun (x : State × Bool) (e : Nat × Nat) => let y := goldenFetch x.1 (iOff (iDir g) e.1 l) e.2; (y.1, x.2 && y.2)) (s, true)

/-- A newly mapped spare that a used logical tile maps to is loaded from the golden copy; was every read good? -/
def loadSpares (s : State) : State × Bool :=
  match golden s with
  | none => (s, false)
  | some g =>
    (usedTiles s).foldl (fun x l =>
      let p := physOf x.1 l
      if (tileOf x.1 p).unloaded then
        let y := fetchTile x.1 l
        let t := tileOf y.1 p
        (putTile y.1 p { t with unloaded := false, testing := false, st := imageStore g (iDir g) l t.st }, x.2 && y.2)
      else x) (s, true)

/-- The GEN = 1 records of a checkpoint in buffer k mod 2: presence and values. -/
def TileSave.mailboxes (x : TileSave) (k : Nat) : Tbl Bool × Tbl Bool :=
  x.gen1.foldl (fun m e =>
    let key := k % 2 * 262144 + e.2.1
    (Tbl.set false m.1 key true, Tbl.set false m.2 key e.2.2)) ([], [])

/-- QPORT places after a rollback: those of the checkpoint, without the writes that have been handed off since. -/
def restorePort (now saved : QPort) : QPort :=
  { saved with places := saved.places.filterMap (fun r =>
      if r.write then now.places.find? (fun x => x.id == r.id) else some r) }

/-- A tile stands at the beginning of cycle k as the checkpoint holds it. -/
def restoreTile (s : State) (c : Ckpt) (e : Nat × TileSave) : State :=
  let p := physOf s e.1
  let s := gateStall s p
  let t := tileOf s p
  let now := (tileOf s e.2.phys).un
  let m := e.2.mailboxes c.cyc
  putTile s p { t with
    st := { t.st with ds := e.2.ds, ckShadow := e.2.ds, win := e.2.win, ports := e.2.ports, written := []
                      mbxHere := m.1, mbxVal := m.2, holdHere := [], holdVal := [] }
    un := { e.2.un with q0 := restorePort now.q0 e.2.un.q0, q1 := restorePort now.q1 e.2.un.q1 }
    phase := if c.record.isSome then .ready else .start
    step := 0, cycle := c.cyc, mbxCycle := c.cyc, windows := [], released := [], genLog := e.2.gen1
    since := s.tb, wait := none, lent := [], dsBad := t.dsBad ++ t.dsHit, dsHit := [] }

/-- Requests of the run at the controllers: those made after the checkpoint are discarded, the others follow their logical
tile. -/
def restoreRequests (s : State) (c : Ckpt) : State :=
  let f := fun l : List DReq => l.filterMap (fun r => match r.src with
    | .qport p q id =>
      if c.before p q id then
        (c.tiles.find? (fun e => e.2.phys == p)).map (fun e => { r with src := .qport (physOf s e.1) q id })
      else none
    | .other => some r)
  (List.range 8).foldl (fun s ch =>
    let x := chanOf s ch
    putChan s ch { x with arriving := f x.arriving, readQ := f x.readQ }) s

/-- Undo the QWD journal, newest entry first. -/
def undoWrites (s : State) (c : Ckpt) : State :=
  (s.recov.undo.reverse.filter (fun u => !c.before u.tile u.q u.id)).foldl (fun s u =>
    dramWrite s u.addr (wordBytes u.old) loadStop) s

/-- Restore the last complete checkpoint, the spares being loaded; the gate opens at its cycle. -/
def restore (s : State) (c : Ckpt) : State :=
  let k := c.cyc
  let s := noteGate s
  let stay := runTiles s
  let s := c.tiles.foldl (fun s e =>
    if stay.contains e.2.phys then s else putTile s e.2.phys { tileOf s e.2.phys with phase := .idle }) s
  let s := undoWrites (restoreRequests s c) c
  let s := c.tiles.foldl (fun s e => restoreTile s c e) s
  let s := (List.range 4).foldl (fun s d => putDie s d { dieOf s d with save := [] }) s
  let s := c.banks.foldl (fun s e =>
    let s := testOff s e.1
    putBank s e.1 { bankOf s e.1 with words := e.2, prev := none, dirty := [], pend := [], repair := none }) s
  let last := ((s.recov.journal.getLast?).map (·.cyc)).getD k
  let r := s.recov
  let s := { s with
    ex := { s.ex with flits := [] }
    aq := { s.aq with outq := s.aq.outq.map (fun e => (e.1, e.2.filter (fun x => decide (x.cyc < k)))) }
    run := { s.run with record := c.record, holds := s.run.holds.filter (fun h => h != .rollback) }
    recov := { r with
      last := some { c with tiles := c.tiles.map (fun e => (e.1, { e.2 with phys := physOf s e.1 })) }
      next := none, early := none, rolling := true, replay := r.journal, skip := r.counts, undo := []
      redone := last - k, upto := last, rollbacks := (r.rollbacks + 1) % 65536 } }
  let s := logEvent s pGlb 0x006A (BitVec.ofNat 32 k)
  let s := if trcClass s 6 then tracePkt s 4 k 0x06 2 [BitVec.ofNat 64 (k % cycleLimit)] else s
  (usedDies s).foldl (fun s d => traceCycle s d k) s

/-- The lines of the checkpoint area in which something is wrong: a rollback reads them (assumption 119). -/
def ckptErrors (s : State) : List Nat :=
  (s.dram.bad.map (·.1)).filter (fun l => overlap (64 * l) 64 (ckptBase s) (ckptLen s))

/-- With every tile held, a rollback; state that cannot be read stops the run (R426): a line of the checkpoint area or of the
golden copy with an uncorrectable error (R219). -/
def rollback (s : State) : State :=
  match s.recov.last with
  | none => s
  | some c =>
    if !(s.run.active && s.run.holds.contains .rollback) || s.run.faultStop then s
    else
    let ue := (ckptErrors s).any (fun l => decide (s.dram.ecc (lineErr s l) = .uncorrectable))
    let s := (ckptErrors s).foldl (readLine loadStop) s
    let x := loadSpares s
    let s := x.1
    if ue || !x.2 then
      let s := { s with run := { s.run with holds := s.run.holds.filter (fun h => h != .rollback) } }
      checkRunEnd (signalFault (ckptFail s 2))
    else restore s c

def execRollback (lines : List LineErr) (s : State) : Host.Outcome State Fault Refusal := finish (rollback (strike s lines))

/-- Re-execution has passed the last journaled record (R427). -/
def rollbackDone (s : State) : State :=
  let r := s.recov
  if r.rolling && r.replay.isEmpty && decide (r.upto ≤ curCycle s) then
    let s := logEvent { s with recov := { r with rolling := false } } pGlb 0x006B (BitVec.ofNat 32 r.redone)
    if trcClass s 6 then tracePkt s 4 (curCycle s) 0x06 3 [BitVec.ofNat 64 r.redone] else s
  else s

def execRollbackDone (s : State) : Host.Outcome State Fault Refusal := finish (rollbackDone s)

/-! ### The scrubber (R429 to R432, R441, R442) -/

def scrCtl : Nat := ro pScr 0x080

/-- The items of a region of tile storage, by the storage's own keys: instruction memory, function, route, port tables. -/
def regionKeys (s : State) (storage region : Nat) : List Nat :=
  let L := s.img.len
  match storage with
  | 0 => ((List.range L) ++ (if s.img.debug then (List.range L).map (2048 + ·) else [])).map (region * 4096 + ·)
  | 1 => (List.range 256).map (region * 256 + ·)
  | _ => (List.range 64).map (region * 64 + ·)

/-- Bytes of an item as the image holds it (R163). -/
def itemBytes (storage : Nat) : Nat := match storage with | 0 => 9 | 3 => 2 | _ => 4

def Store.item (st : Store) (storage k : Nat) : Nat :=
  match storage with
  | 0 => (Tbl.get st.imemFill st.imem k).toNat
  | 1 => (Tbl.get 0 st.ftab k).toNat
  | 2 => (Tbl.get 0 st.rtab k).toNat
  | _ => (Tbl.get 0 st.ptab k).toNat

/-- What the golden copy holds for an item of a logical tile. -/
def goldenItem (s : State) (l storage k : Nat) : Option Nat :=
  match storage with
  | 0 => (goldenWord s l (k / 4096) (k % 4096)).map (·.toNat)
  | 1 => (goldenFn s l k).map (·.toNat)
  | 2 => (goldenRoute s l k).map (·.toNat)
  | _ => (goldenPort s l k).map (·.toNat)

/-- A region named: its storage, physical tile, number. -/
structure Region where
  storage : Nat
  tile : Nat
  region : Nat
  deriving DecidableEq, Repr

/-- Is it a region of the resident configuration (R429)? -/
def Region.exists (s : State) (r : Region) : Bool :=
  match r.storage with
  | 4 => decide (s.rim.state ≠ .noConfig ∧ r.region < 193)
  | 5 => decide (r.region = 0)
  | n => decide (n < 4) && s.cfg.resValid && (runTiles s).contains r.tile &&
      decide (r.region < (if n = 0 ∨ n = 2 then 1024 else 16))

/-- The place of its reference. -/
def Region.key (r : Region) : Nat := (r.storage * 128 + r.tile) * 1024 + r.region

/-- First byte and length of a rim region. -/
def rimSpan (region : Nat) : Nat × Nat := if region < 192 then (6144 * region, 6144) else (ioFrames, 3328)

/-- The 96 EQ entries as the ports hold them. -/
def eqTable (s : State) : List Word :=
  (List.range 96).map (fun i => (Tbl.get Lane.reset (portOf s (i / 4)).lanes (i % 4)).eqNext)

/-- The bytes of a region as it stands. -/
def Region.bytes (s : State) (r : Region) : List Byte :=
  match r.storage with
  | 4 => let x := rimSpan r.region; (s.rim.frames.drop x.1).take x.2
  | 5 => (eqTable s).flatMap wordBytes
  | n => (regionKeys s n r.region).flatMap (fun k => leBytes (itemBytes n) ((tileOf s r.tile).st.item n k))

/-- The bytes of its repair source, where one can be read. -/
def Region.source (s : State) (r : Region) : Option (List Byte) :=
  match r.storage with
  | 4 => let x := rimSpan r.region; some ((s.rim.store.drop x.1).take x.2)
  | 5 => some ((List.range 96).flatMap (fun i => wordBytes (Tbl.get 0 s.scr.eqCopy i)))
  | n =>
    let l := logicalNo s r.tile
    ((regionKeys s n r.region).mapM (fun k => goldenItem s l n k)).map (fun vs => vs.flatMap (leBytes (itemBytes n)))

/-- Replace `bs.length` bytes of a list from `off`. -/
def splice (l : List Byte) (off : Nat) (bs : List Byte) : List Byte := l.take off ++ bs ++ l.drop (off + bs.length)

def setEq (s : State) (i : Nat) (w : Word) : State :=
  let x := portOf s (i / 4)
  putPort s (i / 4) { x with lanes := Tbl.upd Lane.reset x.lanes (i % 4) (fun e => { e with eqNext := w }) }

/-- The repair source of a region is read; can it be had?  The golden copy is read in DRAM (R219). -/
def Region.fetch (s : State) (r : Region) : State × Bool :=
  if 4 ≤ r.storage then (s, true)
  else
    let l := logicalNo s r.tile
    let ks := regionKeys s r.storage r.region
    let parts := if r.storage = 0 then [ks.take s.img.len, ks.drop s.img.len] else [ks]
    parts.foldl (fun x part =>
      match part.head?, part.getLast? with
      | some a, some b =>
        let f := itemSpan x.1 l r.storage a
        let e := itemSpan x.1 l r.storage b
        let y := goldenFetch x.1 f.1 (e.1 + e.2 - f.1)
        (y.1, x.2 && y.2)
      | _, _ => x) (s, true)

/-- Rewrite a region from its repair source. -/
def Region.rewrite (s : State) (r : Region) : State :=
  match r.storage with
  | 4 =>
    let x := rimSpan r.region
    { s with rim := { s.rim with frames := splice s.rim.frames x.1 ((s.rim.store.drop x.1).take x.2) } }
  | 5 => (List.range 96).foldl (fun s i => setEq s i (Tbl.get 0 s.scr.eqCopy i)) s
  | n =>
    let l := logicalNo s r.tile
    let t := tileOf s r.tile
    putTile s r.tile { t with st := (regionKeys s n r.region).foldl (fun st k =>
      match goldenItem s l n k with | some v => st.setItem n k v | none => st) t.st }

/-- A stored bit of the region flips: item i, bit b; parity of a table entry no longer agrees. -/
def Region.upset (s : State) (r : Region) (u : Nat × Nat) : State :=
  match r.storage with
  | 4 =>
    let a := (rimSpan r.region).1 + u.1
    if u.1 < (rimSpan r.region).2 then
      { s with rim := { s.rim with frames := s.rim.frames.modify a (· ^^^ place 8 (u.2 % 8) 1 1) } }
    else s
  | 5 => if u.1 < 96 then setEq s u.1 ((eqTable s).getD u.1 0 ^^^ place 64 (u.2 % 64) 1 1) else s
  | n =>
    match (regionKeys s n r.region)[u.1]? with
    | none => s
    | some k =>
      let t := tileOf s r.tile
      let v := t.st.item n k ^^^ 2 ^ u.2
      let st := t.st.setItem n k v
      let st := if n ≠ 0 then { st with badParity :=
        if (n, k) ∈ t.st.badParity then st.badParity else (n, k) :: st.badParity } else st
      putTile s r.tile { t with st := st }

/-- Layout of SCR_LAST (R441). -/
def Region.last (r : Region) : Reg :=
  place 32 0 3 r.storage ||| place 32 3 7 (if r.storage < 4 then r.tile else 0x7F) ||| place 32 10 18 r.region |||
    place 32 31 1 1

/-- A repair: counted, recorded, logged. -/
def scrubRepair (s : State) (r : Region) : State :=
  logEvent (setReg (bump (tableQueues (r.rewrite s)) (ro pScr 0x090) 1) (ro pScr 0x094) r.last) pScr 0x0064 r.last

/-- The reference is replaced by the CRC of the source. -/
def refFix (s : State) (r : Region) (src : List Byte) : State :=
  let s := setReg (bump s (ro pScr 0x098) 1) (ro pScr 0x094) r.last
  logEvent { s with scr := { s.scr with refs := Tbl.set 0 s.scr.refs r.key (crc32c src) } } pScr 0x0065 r.last

/-- Chamois reads a region and compares it with its reference; a region that mismatches is rewritten and checked again (R429,
R431). -/
def scrub (r : Region) (s : State) : State :=
  match r.source s with
  | none => s
  | some src =>
    let ref := Tbl.get 0 s.scr.refs r.key
    if crc32c (r.bytes s) = ref then s
    else
      let x := r.fetch s
      let s := x.1
      if !x.2 then s else
      let s := scrubRepair s r
      if crc32c (r.bytes s) ≠ ref ∧ r.bytes s = src then refFix s r src else s

/-- Chamois halts: SCRUB_SELF, COMMITTED clear, event SCRUB_SELF (R432). -/
def scrubHalt (s : State) : State :=
  logEvent { s with scr := { s.scr with halted := true, committed := false, commitBusy := false } } pScr 0x0061 0

/-- The vote of three copies: the value that they take, and whether all three differed (R433). -/
def vote (x y z : Nat) : Nat × Bool :=
  let lost := decide (x ≠ y ∧ y ≠ z ∧ x ≠ z)
  (if lost ∨ x = y ∨ x = z then x else y, lost)

/-- The sequencer has come to the end of a region: its state, after the upsets that struck a copy, is checked against its
voted copy; three different copies halt Chamois (R432; assumption 118). -/
def seqCheck (s : State) (k : Nat) (ups : List (Nat × BitVec 32)) : State :=
  let hit := fun c => ups.foldl (fun (v : BitVec 32) u => if u.1 = c then v ^^^ u.2 else v) (BitVec.ofNat 32 k)
  let v := vote (hit 0).toNat (hit 1).toNat (hit 2).toNat
  let m := BitVec.ofNat 32 v.1
  let s := { s with scr := { s.scr with seq0 := m, seq1 := m, seq2 := m } }
  if v.2 then scrubHalt s else s

def scrubRegion (storage tile region : Nat) (ups : List (Nat × Nat)) (refUpset : BitVec 32) (seq : List (Nat × BitVec 32))
    (s : State) : State :=
  let r : Region := { storage := storage, tile := tile, region := region }
  if !(s.scr.committed && regBit s scrCtl 0 && !s.scr.halted && r.exists s) then s
  else
    let s := ups.foldl (fun s u => r.upset s u) s
    let s := { s with scr := { s.scr with refs := Tbl.upd 0 s.scr.refs r.key (· ^^^ refUpset) } }
    let s := scrub r s
    let s := if storage = 5 then setReg s (ro pScr 0x0A0) (getReg s (ro pScr 0x0A0) + 1) else s
    seqCheck s r.key seq

def execScrubRegion (storage tile region : Nat) (ups : List (Nat × Nat)) (refUpset : BitVec 32)
    (seq : List (Nat × BitVec 32)) (s : State) : Host.Outcome State Fault Refusal :=
  finish (scrubRegion storage tile region ups refUpset seq s)

/-- A write of SCR_CTL (R442). -/
def scrWrite (v : Reg) (s : State) : State :=
  let s := writeRW s scrCtl v
  if v.getLsbD 1 then { s with scr := { s.scr with commitBusy := true, halted := false } } else s

def execCommit (v : Reg) (s : State) : Host.Outcome State Fault Refusal := finish (scrWrite v s)

/-- The regions of the resident configuration, in the order of R429. -/
def allRegions (s : State) : List Region :=
  ((List.range 6).flatMap (fun n =>
    if n < 4 then (runTiles s).flatMap (fun p =>
      (List.range (if n = 0 ∨ n = 2 then 1024 else 16)).map (fun k => ({ storage := n, tile := p, region := k } : Region)))
    else (List.range (if n = 4 then 193 else 1)).map (fun k => ({ storage := n, tile := 0, region := k } : Region)))).filter
    (fun r => r.exists s)

/-- The commit pass is over: every region equals its source, and the references are stored (R430). -/
def commitDone (s : State) : State :=
  if !s.scr.commitBusy || s.scr.halted then s
  else
    let rs := allRegions s
    let s := rs.foldl (fun s r => match r.source s with
      | some src =>
        let x := r.fetch s
        if r.bytes s = src || !x.2 then x.1 else scrubRepair x.1 r
      | none => s) s
    let refs := tblOf (0 : BitVec 32) (rs.map (fun r => (r.key, crc32c (r.bytes s))))
    setReg { s with scr := { s.scr with committed := true, commitBusy := false, refs := refs } } (ro pScr 0x0A0) 0

def execCommitDone (s : State) : Host.Outcome State Fault Refusal := finish (commitDone s)

/-- A swap, a rim load or a software write to a CMT field: uncommitted until the next commit (R430). -/
def uncommit (s : State) : State := { s with scr := { s.scr with committed := false, commitBusy := false } }

/-! ### Voted fields (R433) -/

/-- The voted fields of a register: low bit and length. -/
def voteFields (a : Nat) : List (Nat × Nat) :=
  if !votedReg a then []
  else match pageKind (a / 4096), a % 4096 with
    | .glb, o => if o < 0x300 then [(0, 5), (8, 8)] else [(0, 17)]
    | .cfg, _ => [(1, 1)]
    | .pwr, _ => [(0, 10)]
    | .scr, o => if o = 0x080 then [(0, 1)] else [(0, 16)]
    | .lnk, _ => [(0, 4), (4, 1)]
    | .bnk, _ => [(0, 7)]
    | _, _ => []

/-- One copy of a register. -/
def copyOf (s : State) (a c : Nat) : Reg :=
  match c with
  | 0 => getReg s a
  | 1 => Tbl.get (resetOf a) s.scr.v1 a
  | _ => Tbl.get (resetOf a) s.scr.v2 a

/-- Bits of one copy flip. -/
def flipCopy (s : State) (u : VoteUpset) : State :=
  let m := (voteFields u.off).foldl (fun (m : Reg) f => m ||| place 32 f.1 f.2 (2 ^ f.2 - 1)) 0
  let v := copyOf s u.off u.copy ^^^ (u.flip &&& m)
  match u.copy with
  | 0 => { s with regs := Tbl.set (resetOf u.off) s.regs u.off v }
  | 1 => { s with scr := { s.scr with v1 := Tbl.set (resetOf u.off) s.scr.v1 u.off v } }
  | _ => { s with scr := { s.scr with v2 := Tbl.set (resetOf u.off) s.scr.v2 u.off v } }

/-- Every copy of a voted field takes a value. -/
def putField (s : State) (a : Nat) (f : Nat × Nat) (v : Nat) : State :=
  let w := fun c => setFld (copyOf s a c) f.1 f.2 v
  { s with
    regs := Tbl.set (resetOf a) s.regs a (w 0)
    scr := { s.scr with v1 := Tbl.set (resetOf a) s.scr.v1 a (w 1), v2 := Tbl.set (resetOf a) s.scr.v2 a (w 2) } }

/-- VOTE_LAST of a register. -/
def voteLast (a : Nat) (lost : Bool) : Reg :=
  place 32 0 16 (a / 4096) ||| place 32 16 12 (a % 4096 / 4) ||| place 32 30 1 lost.toNat ||| place 32 31 1 1

/-- What a vote that found a difference reports: a minority copy corrected, or three values. -/
def voteReport (s : State) (a : Nat) (lost : Bool) : State :=
  let s := setReg s (ro pScr 0x0A4) (voteLast a lost)
  if !lost then logEvent (bump (stick s (a / 4096) 31) (ro pScr 0x09C) 1) pScr 0x0062 (voteLast a false)
  else
    let s := checkRunEnd (signalFault (logEvent s pGlb 0x0063 (voteLast a true)))
    if a / 4096 = pScr then scrubHalt s else s

/-- Vote one field: agreement, a minority copy, or three values. -/
def voteField (s : State) (a : Nat) (f : Nat × Nat) : State :=
  let x := fld (copyOf s a 0) f.1 f.2
  let y := fld (copyOf s a 1) f.1 f.2
  let z := fld (copyOf s a 2) f.1 f.2
  if x = y ∧ y = z then s
  else voteReport (putField s a f (vote x y z).1) a (vote x y z).2

/-- Bits of one copy of a bank's map of spares flip. -/
def flipMap (s : State) (u : MapUpset) : State :=
  let x := bankOf s u.bank
  if 128 ≤ u.bank then s
  else match u.copy with
    | 0 => putBank s u.bank { x with map0 := x.map0 ^^^ u.flip }
    | 1 => putBank s u.bank { x with map1 := x.map1 ^^^ u.flip }
    | _ => putBank s u.bank { x with map2 := x.map2 ^^^ u.flip }

/-- Vote the map of a bank, one field (R205).  DESIGN CHOICE (assumption 100): the map has no register, and VOTE_LAST names
TT_FAIL of the bank's page for it. -/
def voteMap (s : State) (b : Nat) : State :=
  let x := bankOf s b
  if x.map0 = x.map1 ∧ x.map1 = x.map2 then s
  else
    let v := vote x.map0.toNat x.map1.toNat x.map2.toNat
    let m := BitVec.ofNat 52 v.1
    voteReport (putBank s b { x with map0 := m, map1 := m, map2 := m }) (ro (pBnk b) 0x09C) v.2

/-- CFG_STAT, whose STATE shows the configuration state. -/
def cfgStat : Nat := ro pCfg 0x080

/-- Bits of one copy of the configuration state flip. -/
def flipState (s : State) (u : VoteUpset) : State :=
  let f := fun n : Nat => n ^^^ fld u.flip 0 4
  if u.off ≠ cfgStat then s
  else match u.copy with
    | 0 => { s with cfg := { s.cfg with state := f s.cfg.state } }
    | 1 => { s with cfg := { s.cfg with stateB := f s.cfg.stateB } }
    | _ => { s with cfg := { s.cfg with stateC := f s.cfg.stateC } }

/-- Vote the configuration state, which has three copies of its own behind CFG_STAT (R433). -/
def voteState (s : State) : State :=
  let c := s.cfg
  if c.state = c.stateB ∧ c.stateB = c.stateC then s
  else
    let v := vote c.state c.stateB c.stateC
    voteReport { s with cfg := c.goTo v.1 } cfgStat v.2

/-- The background sweep: the upsets that struck, and the vote of every field that they touched. -/
def voteSweep (ups : List VoteUpset) (maps : List MapUpset) (s : State) : State :=
  let s := maps.foldl flipMap (ups.foldl (fun s u => flipState (flipCopy s u) u) s)
  let s := voteState s
  let s := (ups.map (·.off)).eraseDups.foldl (fun s a => (voteFields a).foldl (fun s f => voteField s a f) s) s
  (maps.map (·.bank)).eraseDups.foldl voteMap s

def execVoteSweep (ups : List VoteUpset) (maps : List MapUpset) (s : State) : Host.Outcome State Fault Refusal :=
  finish (voteSweep ups maps s)

end Sys2Proof.Machine
end

