-- ==== Sys2Proof/Machine/Copy.lean ====
section
/-!
DEFINITION. The copy engines (R192, R197, R198, R355): dispatch checks of a COPY, its completion, and collisions in a bank.
-/
namespace Sys2Proof.Machine

/-- A job begins its work. -/
def beginJob (s : State) (j : Job) : State := modJob s j.q j.seq (fun k => { k with phase := .running })

/-- A job finishes without a result. -/
def failJob (s : State) (j : Job) (status : Nat) : State := finishJob s j.q j.seq status 0 0

/-- A failed host request of the device: counted, and logged with the DETAIL of its completion (R374, R381). -/
def pciFailure (s : State) (detail : Nat) : State :=
  bump (logEvent s pPci 0x0083 (BitVec.ofNat 32 detail)) (ro pPci 0x088) 1

def Job.srcSpace (j : Job) : Nat := j.par 0x30 1 % 4
def Job.dstSpace (j : Job) : Nat := j.par 0x30 1 / 4 % 4
def Job.src (j : Job) : Nat := j.par 0x18 8
def Job.dst (j : Job) : Nat := j.par 0x20 8
def Job.len (j : Job) : Nat := j.par 0x28 8

/-- Do `n` bytes at `a` lie beyond installed DRAM, or beyond bank space (R362)? -/
def outside (s : State) (space a n : Nat) : Bool :=
  match space with
  | 1 => decide (capacity s < a + n)
  | 2 => decide (2 ^ 28 < a + n)
  | _ => false

/-- Why a COPY is not run, in the order of judgement: malformed operands, RANGE, NOT_OWNER, REFUSED (R29, R197, R355,
R403; the order and BAD_DESC are DEDUCED, assumption 25). -/
def copyRefusal (s : State) (j : Job) : Option Nat :=
  if j.src % 8 ≠ 0 ∨ j.dst % 8 ≠ 0 ∨ j.len % 8 ≠ 0 ∨ j.len < 8 ∨ 2 ^ 36 < j.len then some 0x10
  else if outside s j.srcSpace j.src j.len || outside s j.dstSpace j.dst j.len then some 0x11
  else if j.copyBanks.any (fun b => decide (bankOwner s b ≠ 0x41)) then some 0x04
  else if decide (j.dstSpace = 1) &&
      ((s.run.active && hitsRegion s j.dst j.len) || hitsHeldSlot s j.dst j.len) then some 0x12
  else none

/-- An engine takes a COPY: it is refused, or its copy is under way. -/
def copyJob (x : Nat) (s : State) : State :=
  match jobAt s x 1 .dispatched with
  | none => s
  | some j =>
    if 8 ≤ x then s
    else match copyRefusal s j with
      | none => beginJob s j
      | some st =>
        let s := failJob s j st
        if st = 0x12 ∧ s.run.active ∧ hitsRegion s j.dst j.len then refuse s pGlb else s

def execCopy (x : Nat) (s : State) : Host.Outcome State Fault Refusal := finish (copyJob x s)

/-! ### Collisions (R192, R198) -/

/-- Does the running job write word `w` of bank space? -/
def Job.writesWord (k : Job) (w : Nat) : Bool :=
  k.phase == .running && k.dstSpace == 2 && decide (k.dst / 8 ≤ w ∧ w < (k.dst + k.len) / 8)

/-- The engines of the other port, with their jobs: even engines use port A, odd ones B (R192). -/
def otherPort (s : State) (x : Nat) : List Job := s.saiga.jobs.filter (fun k => decide (k.exec < 8 ∧ k.exec % 2 ≠ x % 2))

/-- Does an engine of the other port write word `w` of bank space while job `j` of engine `x` runs? -/
def otherWriter (s : State) (x : Nat) (j : Job) (w : Nat) : Bool :=
  (otherPort s x).any (·.writesWord w) || j.met.any (fun r => decide (r.1 ≤ w ∧ w < r.2))

/-- Job `j` of engine `x` can lose a collision at word `w`: WIN_PORT of the bank names the other port (R198). -/
def canLose (s : State) (x : Nat) (j : Job) (w : Nat) : Bool :=
  otherWriter s x j w && decide (regF s (ro (pBnk (w / 2 ^ 18)) 0x084) 0 1 ≠ x % 2)

/-- COLL_ADDR, COLL_CNT, the sticky COLLIDE bit and the event, for a write of engine `x` that was discarded. -/
def collide (s : State) (x w : Nat) : State :=
  let g := pBnk (w / 2 ^ 18)
  let v := place 32 0 18 w ||| place 32 18 1 x ||| place 32 31 1 1
  logEvent (stick (bump (setReg s (ro g 0x088) v) (ro g 0x08C) 1) g 2) g 0x0020 v

/-- The bytes of a write that may not change: in a QPORT region of the resident image while a run is active, or in a slot
that is LOADING or VALID (R29, R403). -/
def heldByte (s : State) (a : Nat) : Bool := (s.run.active && hitsRegion s a 1) || hitsHeldSlot s a 1

/-- A write of an engine to DRAM whose copy began before the run or the load: what lies in a region or slot is discarded,
a write to a region with WR_REFUSED of GLB (R29, R403). -/
def dramWriteOpen (s : State) (a : Nat) (bs : List Byte) : State :=
  let w := dramWriteSome s a bs (fun k => !heldByte s k)
  if s.run.active && hitsRegion s a bs.length then refuse w pGlb else w

/-- Does a copy of `n` bytes lose a part because its target has since become a region of a run or a held slot? -/
def copyHeld (s : State) (j : Job) (n : Nat) : Bool :=
  decide (j.dstSpace = 1) && ((s.run.active && hitsRegion s j.dst n) || hitsHeldSlot s j.dst n)

/-- The bytes a space holds; `host` is what the host's memory returned. -/
def spaceRead (s : State) (space a n : Nat) (host : List Byte) : List Byte :=
  match space with
  | 1 => dramRead s a n
  | 2 => bankBytes s a n
  | _ => bytesAt host 0 n

def spaceWrite (s : State) (space a : Nat) (bs : List Byte) (lost : List Nat) : State :=
  match space with
  | 1 => if (s.run.active && hitsRegion s a bs.length) || hitsHeldSlot s a bs.length then dramWriteOpen s a bs
    else dramWrite s a bs
  | 2 => bankPut s a bs lost
  | _ => hostWrite s a bs

/-! ### Reads that meet a write (R199) -/

/-- The word that a job writes at word `w` of bank space; `new` is the host's. -/
def Job.wordFor (s : State) (k : Job) (w : Nat) (new : Word) : Word :=
  let o := 8 * w - k.dst
  if k.srcSpace = 0 then new else BitVec.ofNat 64 (leNat (spaceRead s k.srcSpace (k.src + o) 8 []))

/-- What job `j` of engine `x` reads at word `w` where its read met a write of the other port: the new data with RDW NEW, the
old with RDW OLD; none where no such write ran. -/
def meetRead (s : State) (x : Nat) (j : Job) (m : ReadMeet) : Option Word :=
  let w := m.word
  let cur := (bankOf s (w / 2 ^ 18)).word (w % 2 ^ 18)
  let pick := fun old new : Word => if regBit s (ro (pBnk (w / 2 ^ 18)) 0x084) 1 then old else new
  match (otherPort s x).find? (·.writesWord w) with
  | some k => some (pick cur (k.wordFor s w m.new))
  | none => (Tbl.get none j.olds w).map (fun old => pick old cur)

/-- The bytes that a job reads from bank space, with the words at which its read met a write. -/
def meetBytes (s : State) (x : Nat) (j : Job) (same : List ReadMeet) (n : Nat) : List Byte :=
  (List.range (n / 8)).flatMap (fun i =>
    let w := j.src / 8 + i
    let v := (same.find? (fun m => m.word == w)).bind (meetRead s x j)
    wordBytes (v.getD ((bankOf s (w / 2 ^ 18)).word (w % 2 ^ 18))))

/-- Engine `x` is about to write `n` bytes of bank space for job `j`: the running jobs of the other port keep what their
source words held, and the words written. -/
def noteWrite (s : State) (x : Nat) (j : Job) (n : Nat) : State :=
  let lo := j.dst / 8
  let hi := (j.dst + n) / 8
  modJobs s (fun k => decide (k.exec < 8 ∧ k.exec % 2 ≠ x % 2) && k.phase == .running) (fun k =>
    let olds := if k.srcSpace ≠ 2 then k.olds
      else (List.range (min hi ((k.src + k.len) / 8) - max lo (k.src / 8))).foldl (fun t i =>
        let w := max lo (k.src / 8) + i
        if (Tbl.get none t w).isSome then t
        else Tbl.set none t w (some ((bankOf s (w / 2 ^ 18)).word (w % 2 ^ 18)))) k.olds
    { k with met := k.met ++ [(lo, hi)], olds := olds })

/-- What the read side of a copy leaves behind: errors of DRAM lines and bank words, a test of a region that ends. -/
def readSide (s : State) (j : Job) (n : Nat) : State :=
  match j.srcSpace with
  | 1 => dramFetch s j.src n
  | 2 => bankRead s (j.src / 8) (n / 8)
  | _ => s

/-- A copy ends: every byte written, or the first `host.length` bytes when a host request failed with code `err` or an abort
stopped the engine (R368); `lost` are the words of bank space at which its write met one of the other port in the same bank
clock and lost (R198), `same` those at which its read met one (R199).  A copy that reaches DRAM waits for a retrain (R229). -/
def copyEnd (x : Nat) (host : List Byte) (err : Nat) (lost : List Nat) (same : List ReadMeet) (s : State) :
    State :=
  match jobAt s x 1 .running with
  | none => s
  | some j =>
    if decide (8 ≤ x) || (retraining s && (j.srcSpace == 1 || j.dstSpace == 1)) then s
    else
      let bad := decide (err ≠ 0) && (j.srcSpace == 0 || j.dstSpace == 0)
      let n := if bad || j.aborted then min j.len host.length / 8 * 8 else j.len
      let hit := if j.dstSpace ≠ 2 then []
        else lost.eraseDups.filter (fun w => decide (j.dst / 8 ≤ w ∧ w < (j.dst + n) / 8) && canLose s x j w)
      let held := copyHeld s j n
      let gone := if held then ((List.range n).filter (fun i => heldByte s (j.dst + i))).length else 0
      let s := readSide s j n
      let data := if j.srcSpace = 2 then meetBytes s x j same n else spaceRead s j.srcSpace j.src n host
      let s := if j.dstSpace = 2 then noteWrite s x j n else s
      let s := spaceWrite s j.dstSpace j.dst data hit
      let s := hit.foldl (fun s w => collide s x w) s
      if bad then finishJob (pciFailure s err) j.q j.seq 0x13 (BitVec.ofNat 64 n) (BitVec.ofNat 64 err)
      else finishJob s j.q j.seq (if held then 0x12 else 0) (BitVec.ofNat 64 (n - gone)) 0

def execDmaCopy (x : Nat) (host : List Byte) (err : Nat) (lost : List Nat) (same : List ReadMeet) (ups : List BankUpset)
    (lines : List LineErr) (s : State) : Host.Outcome State Fault Refusal :=
  finish (copyEnd x host err lost same (ups.foldl bankUpset (strike s lines)))

end Sys2Proof.Machine
end

