-- ==== Sys2Proof/Machine/Loader.lean ====
section
/-!
DEFINITION. The image loader and the image swap (13: R403 to R407; R18, R179, R180, R244, R402): LOAD and SWAP jobs, and
what an image's installation writes, which boot shares.
-/
namespace Sys2Proof.Machine

/-! ### Loads (R404, R406) -/

/-- DETAIL of LOADER and SWAP: the code and the slot (R361). -/
def loadDetail (code slot : Nat) : Word := place 64 0 8 code ||| place 64 8 8 slot

/-- The location word of a failure that no part of the image locates (R180). -/
def noLoc : Word := locWord 0x3F 0 0 0xFFFF

/-- A slot's state changes. -/
def setSlot (s : State) (k st : Nat) : State := putSlot s k { slotOf s k with st := st }

/-- A load or swap ends with a failed status. -/
def failLoad (s : State) (j : Job) (status code : Nat) (loc : Word) : State :=
  finishJob s j.q j.seq status loc (loadDetail code (j.par 0x31 1))

/-- A load that has taken its slot fails: the slot is INVALID. -/
def spoilSlot (s : State) (j : Job) (status code : Nat) (loc : Word) : State :=
  failLoad (setSlot { s with cfg := { s.cfg with loading := none } } (j.par 0x31 1) 3) j status code loc

/-- Is the source of a LOAD the device's DRAM? -/
def Job.fromDram (j : Job) : Bool := j.par 0x30 1 % 4 == 1

/-- Why a LOAD does not begin: CONFIG, BUSY, RANGE. -/
def loadRefusal (s : State) (j : Job) : Option Nat :=
  let k := j.par 0x31 1
  if slotCount s ≤ k then some 0x09
  else if decide ((slotOf s k).st = 1 ∨ s.cfg.swapping = some k) ||
      (s.run.active && decide (s.cfg.resSlot = k)) then some 0x02
  else if capacity s < slotBase s k + slotSize s then some 0x11
  else if j.fromDram && decide (capacity s < j.src + min 256 j.len) then some 0x11
  else none

/-- The loader takes its job once the device is READY (R18): the slot becomes LOADING, and once the header has arrived its checks run (R394 with KIND
IMAGE); `header` is what the host returned for it, `err` the code of a host request that failed. -/
def loadJob (header : List Byte) (err : Nat) (s : State) : State :=
  match jobAt s 8 1 .dispatched with
  | none => s
  | some j =>
    if s.cfg.state ≠ 6 ∨ retraining s then s
    else match loadRefusal s j with
    | some st => failLoad s j st 0 0
    | none =>
      let k := j.par 0x31 1
      let s := if s.cfg.resSlot = k then { s with cfg := { s.cfg with resValid := false, hadImage := false } } else s
      let s := setSlot s k 1
      let s := if j.fromDram then dramFetch s j.src 256 else s
      let head := if j.fromDram then dramRead s j.src 256 else bytesAt header 0 256
      let g := bytesOf head
      if !j.fromDram && decide (err ≠ 0) then pciFailure (spoilSlot s j 0x13 0 0) (loadDetail 0 k).toNat
      else if j.len < 256 then spoilSlot s j 0x0E 0x45 noLoc
      else match headerCheck s g 2 false with
        | some code => spoilSlot s j 0x0E code noLoc
        | none =>
          if slotSize s < conTotal g then spoilSlot s j 0x11 0 0
          else if j.fromDram ∧ capacity s < j.src + min j.len (conTotal g) then spoilSlot s j 0x11 0 0
          else
            let s := dramWrite s (slotBase s k) head loadStop
            beginJob { s with cfg := { s.cfg with loading := some k } } j

def execLoad (header : List Byte) (err : Nat) (lines : List LineErr) (s : State) : Host.Outcome State Fault Refusal :=
  finish (loadJob header err (strike s lines))

/-- PROTECT in the image of a container without a key (R389). -/
def protectBare (con img : Bytes) : Bool := decide (conKeySlot con = 0xFF) && iFlag img 1

/-- The checks at the end of a load, over the container and its plaintext: a container code, or a failed image check. -/
def loadVerdict (s : State) (bs : List Byte) : Option (Nat × Nat × Word) :=
  let plain := conPlain s bs
  let g := bytesOf plain
  match trailerCheck s bs plain with
  | some code => some (0x0E, code, noLoc)
  | none =>
    let broken := match findSect g 6 with | some x => subFor g (devIdx s) x == SubFind.broken | none => false
    match findSect g 5 with
    | none => some (0x0E, 0x49, noLoc)
    | some x =>
      match subFor g (devIdx s) x with
      | .at off len =>
        let img : Bytes := fun i => g (off + i)
        if protectBare g img then some (0x0E, 0x44, noLoc)
        else if broken then some (0x0E, 0x49, noLoc)
        else (loadChecks (devIdx s) img len).map (fun (f : IFail) => (0x0D, f.1, f.2))
      | _ => some (0x0E, 0x49, noLoc)

/-- The container has arrived, or the host's memory failed after `host.length` bytes: `host` holds the bytes after the
header, `err` the code of a failed host request. -/
def loadDone (host : List Byte) (err : Nat) (s : State) : State :=
  if retraining s then s else
  match jobAt s 8 1 .running with
  | none => s
  | some j =>
    let k := j.par 0x31 1
    let base := slotBase s k
    let head := dramRead s base 256
    let total := conTotal (bytesOf head)
    let n := min j.len total
    if !j.fromDram && decide (err ≠ 0) then
      let s := dramWrite s (base + 256) (host.take (n - 256)) loadStop
      pciFailure (spoilSlot s j 0x13 0 0) (loadDetail 0 k).toNat
    else
      let s := if j.fromDram then dramFetch s (j.src + 256) (n - 256) loadStop else s
      let rest := if j.fromDram then dramRead s (j.src + 256) (n - 256) else bytesAt host 0 (n - 256)
      let s := dramWrite s (base + 256) rest loadStop
      if j.len < total then spoilSlot s j 0x0E 0x45 noLoc
      else match loadVerdict s (head ++ rest) with
        | some (st, code, loc) => spoilSlot s j st code loc
        | none =>
          let s := putSlot { s with cfg := { s.cfg with loading := none } } k
            { st := 2, bbram := decide (conKeySlot (bytesOf head) = 1) }
          finishJob s j.q j.seq 0 0 (loadDetail 0 k)

def execLoadEnd (host : List Byte) (err : Nat) (lines : List LineErr) (s : State) : Host.Outcome State Fault Refusal :=
  finish (loadDone host err (strike s lines))

/-! ### Swap checks (R179, R405, R406) -/

/-- REGION_CONFLICT: the region beyond DRAM, or over a slot, the checkpoint area or the Chital ring. -/
def regionConflict (s : State) (r : QRegion) : Bool :=
  decide (capacity s < r.base + r.len) || hitsSlot s r.base r.len || overlap r.base r.len (ckptBase s) (ckptLen s) ||
    overlap r.base r.len (reg64 s (ro pTrc 0x088) (ro pTrc 0x08C)) (getReg s (ro pTrc 0x090)).toNat

/-- Used tiles on fenced physical tiles that no spare is left for. -/
def stranded (s : State) (tiles : List Nat) : Option Nat :=
  (List.range 4).findSome? (fun d =>
    let need := tiles.filter (fun l => l / 16 == d && fenced s (physOf s l))
    (need.drop (if (spareOf s d).isSome then 1 else 0)).head?)

/-- The first swap check that fails: its code and location. -/
def swapChecks (s : State) (g : Bytes) : Option IFail :=
  let dir := iDir g
  let img := imageOf g
  match (List.range 128).find? (fun b =>
      decide (Tbl.get 0xFF img.bankReq b ≠ 0xFF ∧ 0x42 ≤ bankOwner s b ∧ bankOwner s b ≤ 0x44)), stranded s (iTiles dir) with
  | b, l =>
    if img.regions.any (regionConflict s) then some (0x30, locWord 0x3F 0 0 (iIdx dir 0x0A 0xFFFF))
    else match b, l with
      | some b, _ => some (0x31, locWord (Tbl.get 0xFF img.bankReq b) 0 0 (iIdx dir 9 0xFFFF))
      | none, some l => some (0x32, locWord l 0 0 0xFFFF)
      | none, none => none

/-- The subsection of a section for this device, in the plaintext of a slot. -/
def slotSub (s : State) (k ty : Nat) : SubFind :=
  let g := slotPlain s k
  match findSect g ty with
  | none => .absent
  | some x => subFor g (devIdx s) x

/-- Does no key open the container in a slot: it has been replaced, or is gone (R388, R406)? -/
def keyLost (s : State) (k : Nat) : Bool :=
  let g := slotSrc s k
  decide (conKeySlot g ≠ 0xFF) && (keyFor s (conKeySlot g) (BitVec.ofNat 64 (rd g 0x10 8))).isNone

/-- Why a SWAP is not begun: status, check code, location.  A container that no key opens is read to its end, where it fails. -/
def swapRefusal (s : State) (k : Nat) : Option (Nat × Nat × Word) :=
  if s.run.active then some (0x02, 0, 0)
  else if slotCount s ≤ k ∨ (slotOf s k).st ≠ 2 then some (0x09, 0, 0)
  else
    let rimPart := match slotSub s k 6 with | .at _ _ => true | _ => false
    if keyLost s k then none
    else if rimPart && decide (s.rim.state = .running) then some (0x02, 0, 0)
    else match slotSub s k 5 with
      | .at off len =>
        let g := slotPlain s k
        let img : Bytes := fun i => g (off + i)
        ((loadChecks (devIdx s) img len) <|> swapChecks s img).map (fun (f : IFail) => (0x0D, f.1, f.2))
      | _ => some (0x0E, 0x49, noLoc)

/-- The swap executor takes its job once the device is READY (R18): from here on, no image is resident until the swap succeeds. -/
def swapJob (s : State) : State :=
  match jobAt s 9 1 .dispatched with
  | none => s
  | some j =>
    let k := j.par 0x31 1
    if s.cfg.state ≠ 6 then s
    else match swapRefusal s k with
    | some (st, code, loc) => failLoad s j st code loc
    | none => beginJob { s with cfg := { s.cfg with resValid := false, hadImage := s.cfg.resValid, swapping := some k } } j

def execSwap (s : State) : Host.Outcome State Fault Refusal := finish (swapJob s)

/-! ### Rim configurations (R244, R402) -/

/-- The clock frame holds an unimplemented code: a non-zero bit in [7:3] of an assignment byte. -/
def clockFrameBad (g : Bytes) (off : Nat) : Bool := (List.range 128).any (fun q => decide (8 ≤ (g (off + clockFrame + q)).toNat))

/-- The first unimplemented code of a rim configuration at `off`: of the cluster and I/O frames, then of the clock frame and
the PLLs' references, four bits each for nine sources. -/
def rimVerdict (g : Bytes) (off : Nat) (net : RimNet) : Option (BitVec 31) :=
  match net.firstBad with
  | some p => some p.loc
  | none => if clockFrameBad g off || net.refs.any (fun r => decide (8 < r)) then some Config.decLoc else none

/-- The RIMCLKs that a configuration uses: those of clusters, pin groups and array queues. -/
def clksUsed (g : Bytes) (off : Nat) (net : RimNet) : BitVec 8 :=
  net.clocks ||| bitsOf 8 ((List.range 128).map (fun q => (g (off + clockFrame + q)).toNat % 8))

/-- Load a rim configuration, which only a rim that is not RUNNING takes (R261): decoded whole, the rim is HELD under it with
its delay settings; else DECODE_FAIL, and the configuration that was there stays. -/
def rimLoad (s : State) (g : Bytes) (off len : Nat) (net : RimNet) : State :=
  if s.rim.state = .running then s
  else match rimVerdict g off net with
  | some l =>
    let s := setReg s (ro pRim 0x088) (BitVec.ofNat 32 l.toNat ||| place 32 31 1 1)
    { s with rim := { s.rim with state := .decodeFail, frames := s.rim.store } }
  | none =>
    let fs := slice (fun i => g (off + i)) 0 len
    let s := { uncommit s with rim := { ({ s.rim with net := net } : Rim).restart with
      state := .held, frames := fs, store := fs, usedClks := clksUsed g off net, clkRun := 0, pllLock := 0 } }
    { s with rim := { s.rim with delay := tblOf { target := 0, tap := 0 } ((List.range 192).map (fun p =>
      let d := ioWord s p 1 % 1024
      (p, { target := d, tap := d }))) } }

/-! ### Installation (R163, R166, R253, R371, R405) -/

/-- A used tile takes its logical tile's content; one on a fenced physical tile goes to the spare. -/
def installTile (g : Bytes) (dir : List ISect) (s : State) (l : Nat) : State :=
  let s := if fenced s (physOf s l) then match spareOf s (l / 16) with | some k => remap s l k | none => s else s
  let p := physOf s l
  let t := tileOf s p
  putTile s p { Tile.reset with
    st := imageStore g dir l t.st, un := { Units.reset with cnt := imageCounters g dir l }
    retention := false, mv := opMv s p, testing := t.testing, testOk := t.testOk, dead := t.dead, hardTimes := t.hardTimes, since := s.tb }

/-- A tile that no run will use goes back to retention. -/
def restTile (s : State) (p : Nat) : State :=
  if (runTiles s).contains p then s
  else putTile s p { (tileOf s p).rest with phase := .idle }

/-- A claimed bank is handed to its tile and takes its BANKINIT words, or zeros. -/
def installBank (g : Bytes) (dir : List ISect) (s : State) (b : Nat) : State :=
  let t := Tbl.get 0xFF s.img.bankReq b
  if t = 0xFF then s
  else
    let s := setReg s (ownerReg b) (place 32 0 7 t ||| place 32 8 7 t)
    let ws : Tbl BankWord := match iSect dir 8 b with
      | none => []
      | some e => tblOf 0 ((List.range 262144).map (fun i => (i, withParity (BitVec.ofNat 64 (rd g (e.off + 8 * i) 8)))))
    let s := testOff s b
    putBank s b { bankOf s b with
      words := ws, prev := none, dirty := [], pend := [], touched := [], repair := none, due := none }

/-- A swap empties every message FIFO, its open packet included (R371). -/
def dropFifos (s : State) : State :=
  (List.range 16).foldl (fun s f =>
    let g := 0x20 * f
    setReg (setReg (setReg s (ro pMsg (0x10C + g)) 0) (ro pMsg (0x110 + g)) 0) (ro pMsg (0x114 + g)) 0)
    { s with msg := [] }

/-- An image becomes resident from slot k: tiles, banks, queues and everything that belonged to the previous image. -/
def installImage (s : State) (k : Nat) (g : Bytes) (keySlot : Nat) : State :=
  let dir := iDir g
  let s := { s with img := imageOf g }
  let s := (usedTiles s).foldl (installTile g dir) s
  let s := (List.range 68).foldl restTile s
  let s := (List.range 128).foldl (installBank g dir) s
  let s := emptyQueues (dropFifos s)
  let s := { s with
    ex := { s.ex with flits := [], peerBegun := [], sentBegun := [] }
    run := { Run.reset with swapped := true, grant := s.run.grant }
    recov := { Recov.reset with fail := s.recov.fail, rollbacks := s.recov.rollbacks }
    trc := { s.trc with unlocked := false, authFails := 0 }
    mkh := { s.mkh with probes := [], probeGot := [], probeDone := 0 }
    cfg := { s.cfg with
      resSlot := k, resValid := true, resEnc := decide (keySlot ≠ 0xFF), resBbram := decide (keySlot = 1), swapping := none } }
  sendMapSync (sendRunInfo (uncommit s))

/-- What a swap writes while it reads the container of slot k: the image, and the rim configuration that it brings. -/
def swapWrites (s : State) (k : Nat) (plain : List Byte) (net : RimNet) (ks : Nat) : State :=
  let g := bytesOf plain
  let sub := slotSub s k 6
  match slotSub s k 5 with
  | .at off _ =>
    let s := installImage s k (fun i => g (off + i)) ks
    match sub with
    | .at o n => rimLoad s g o n net
    | _ => s
  | _ => s

/-- The swap has read its container.  A rim that has been set RUNNING and must not take its new configuration (R261) leaves the
resident image as it was; a CRC, TAG or key failure leaves no resident image, what was written staying written; else the image
is resident. -/
def swapEnd (net : RimNet) (s : State) : State :=
  if retraining s then s else
  match jobAt s 9 1 .running with
  | none => s
  | some j =>
    let k := j.par 0x31 1
    let head := dramRead s (slotBase s k) 256
    let bs := dramRead s (slotBase s k) (conTotal (bytesOf head))
    let s := dramFetch s (slotBase s k) (conTotal (bytesOf head)) loadStop
    let plain := conPlain s bs
    let ks := conKeySlot (bytesOf head)
    let fails := fun (s : State) (code : Nat) =>
      failLoad (setSlot { s with cfg := { s.cfg with resValid := false, swapping := none } } k 3) j 0x0E code noLoc
    if keyLost s k then fails s 0x43
    else if (match slotSub s k 6 with | .at _ _ => true | _ => false) && decide (s.rim.state = .running) then
      failLoad { s with cfg := { s.cfg with resValid := s.cfg.hadImage, swapping := none } } j 0x02 0 0
    else match trailerCheck s bs plain, slotSub s k 5 with
      | some code, _ => fails (swapWrites s k plain net ks) code
      | none, .at _ _ => finishJob (swapWrites s k plain net ks) j.q j.seq 0 0 (loadDetail 0 k)
      | none, _ => fails s 0x49

def execImageSwap (net : RimNet) (lines : List LineErr) (s : State) : Host.Outcome State Fault Refusal :=
  finish (swapEnd net (strike s lines))

end Sys2Proof.Machine
end

