-- ==== Sys2Proof/Machine/RunJobs.lean ====
section
/-!
DEFINITION. Run control (R18, R42, R111, R181, R360, R422): START, GRANT and STOP jobs.
-/
namespace Sys2Proof.Machine

/-! ### Why a START does not start a run -/

/-- The RUNINFO of a device of the run has not arrived on any port that carries it. -/
def peerInfo (s : State) (d : Nat) : Option (List Word) :=
  ((linkPorts s d).filter (portUp s)).findSome? (fun n =>
    let w := (portOf s n).runInfo
    if w.isEmpty then none else some w)

/-- NO_LINK: a device of the run has no port that is up (R111). -/
def noLink (s : State) : Bool := (peers s).any (fun d => !(linkPorts s d).any (portUp s))

/-- Does a device's RUNINFO contradict the resident image (R181)? -/
def infoMismatch (s : State) (d : Nat) (w : List Word) : Bool :=
  decide (w.getD 1 0 ≠ s.img.runId) || decide (fld (w.getD 2 0) 0 16 ≠ s.img.devMask) || !(w.getD 2 0).getLsbD 16 ||
    s.img.devTargets.any (fun t => t.1 == d && !(w.getD 3 0).getLsbD (16 * t.2.1 + t.2.2))

def imageMismatch (s : State) : Bool :=
  (peers s).any (fun d => match peerInfo s d with | some w => infoMismatch s d w | none => false)

/-- A partner's image names a tile that no TILES_USED declares (R86, R181); the spec names no message that says so: the
command brings it (assumption 90). -/
def peerMismatch (s : State) (peer : Option PeerVerdict) : Bool :=
  match peer with
  | some (.route dev) => (peers s).contains dev
  | _ => false

/-- Does a swap work at its executor (R18)? -/
def swapWorks (s : State) : Bool := s.saiga.jobs.any (fun k => k.works && decide (k.exec = 9))

/-- The START waits: for a swap in progress (R18), for a self-test of a tile of the image to end (R16, assumption 91), for
the RUNINFO of some device of the run, or for the device to be in power state RUN. -/
def startWaits (s : State) : Bool :=
  swapWorks s || (runTiles s).any (fun p => (tileOf s p).testing) ||
    decide (s.pwr.state ≠ 0) || (peers s).any (fun d => (peerInfo s d).isNone)

/-- The admission that a START needs: paced mode, and non-stalling trace; STALL_ON_FULL refuses a paced run (R52, R453,
R454). -/
def startAdmission (s : State) (peer : Option PeerVerdict) : State × Nat :=
  let paced := decide (runMode s = 2)
  if !paced && !looseTrace s then (s, 0)
  else
    let (s, r) := runAdmission s paced (paced && mkhArmed s) (looseTrace s) peer
    if r = 0 ∧ paced ∧ regBit s trcCtl 1 then
      (setReg s (ro pGlb 0x144) (place 32 0 1 1 ||| place 32 4 4 3 ||| place 32 8 4 (devIdx s)), 3)
    else (s, r)

/-! ### What a START sets -/

/-- Fault records and FLT_FIRST clear (R182, R186). -/
def clearFaults (s : State) : State :=
  (List.range 68).foldl (fun s p =>
    (List.range 6).foldl (fun s i => setReg s (ro (pTil p) (0x100 + 4 * i)) 0) s) (setReg s (ro pGlb 0x160) 0)

/-- The regions with a QINIT section take its bytes, as they are read in the golden copy (R165). -/
def writeInits (s : State) : State :=
  match golden s with
  | none => s
  | some g => s.img.regions.foldl (fun s r => if r.init = 0 then s
      else dramWrite (goldenFetch s r.init r.len).1 r.base (slice g r.init r.len) loadStop) s

/-- After a swap the tiles wait for the record of cycle 0; after a stop they stand at the run's first cycle, and one that a stop
under R44 left a cycle further goes on from there (R42, R44).  A fenced tile stays in retention (R152, R417). -/
def startTiles (s : State) (fresh : Bool) (c : Nat) : State :=
  (runTiles s).foldl (fun s p =>
    let t := tileOf s p
    putTile s p { (if fenced s p then t else t.rise (opMv s p)) with
      phase := if fresh then .start else .ready, step := 0, lent := []
      cycle := if fresh then c else max c (Tbl.get 0 s.run.next (logicalNo s p)), since := s.tb, wait := none
      st := { t.st with written := [] } }) s

/-- In a paced run every die runs at its admitted clock with its whole budget (R48, R50). -/
def startClocks (s : State) : State :=
  (usedDies s).foldl (fun s d =>
    let s := newWindow s d
    if runMode s = 2 then setReg (retune s d (clkCeil s d)) (effReg d) (BitVec.ofNat 32 (tokBud s d)) else s) s

/-- Recovery becomes active where R422 allows it, with a first checkpoint at the first cycle; a condition that fails is logged,
in a paced run or one over several devices with a reason that R437 does not list (free, assumption 115).  A run resumed from
within a re-execution goes on with its journal and its counts (R427). -/
def startRecovery (s : State) (fresh : Bool) (c : Nat) : State :=
  let r := s.recov
  let s := { s with recov := if fresh then { Recov.reset with fail := r.fail } else { Recov.reset with
    fail := r.fail, shown := r.shown, replay := r.replay, journal := r.replay, skip := r.skip, counts := r.skip
    rolling := r.rolling, redone := r.redone, upto := r.upto } }
  if !regBit s recovCtl 0 then s
  else if decide (runMode s = 2) || !(peers s).isEmpty then
    ckptFail { s with freeCount := s.freeCount + 1 } (Config.freeWord s.freeCount).toNat
  else if !ckptAreaOk s then ckptFail s 1
  else
    let s := (runTiles s).foldl (fun s p =>
      let t := tileOf s p
      putTile s p { t with st := { t.st with ckShadow := t.st.ds } }) s
    capture { s with recov := { s.recov with active := true } } c true

/-- The stop that N cycles name, where it comes before the last cycle number (R43). -/
def countStop (c n : Nat) : Option Nat := if n ≠ 0 ∧ c + n - 1 < cycleLimit - 1 then some (c + n - 1) else none

/-- The run begins at its first cycle.  DESIGN CHOICE (assumption 121): a START that is dispatched during a retrain is not held by
it; the retrain then ends once every tile stands at its gate. -/
def startRun (s : State) (j : Job) : State :=
  let fresh := s.run.swapped
  let c := if fresh then 0 else s.run.first
  let stop := countStop c (j.par 0x18 6)
  let paced := decide (runMode s = 2)
  let s := clearFaults s
  let s := if fresh then writeInits s else s
  let s := { s with run := { Run.reset with
    active := true, first := c, stopMask := BitVec.ofNat 64 (j.par 0x20 8), ctx := j.ctx, job := some (j.q, j.seq)
    stopAt := stop, cause := stop.map (fun _ => 0), swapped := fresh && paced, record := s.run.record, grant := c, next := s.run.next
    admClk := tblOf 0 ((usedDies s).map (fun d => (d, clkCeil s d))) } }
  let s := beginJob s j
  let s := startRecovery (startClocks (startTiles s fresh c)) fresh c
  let s := if fresh then startLatch (if (recordOf s 0).isSome then s else formRecord s 0)
    else (usedDies s).foldl (fun s d => traceCycle s d c) s
  eventStop s none

/-- The RUN executor takes a START. -/
def startJob (peer : Option PeerVerdict) (s : State) : State :=
  match jobAt s 0x0A 1 .dispatched with
  | none => s
  | some j =>
    if s.run.active then failJob s j 0x02
    else if swapWorks s then s
    else if !s.cfg.resValid || decide (s.cfg.state ≠ 6) then failJob s j 0x03
    else if noLink s then failJob s j 0x05
    else if startWaits s then s
    else if imageMismatch s || peerMismatch s peer then failJob s j 0x06
    else
      let (s, r) := startAdmission s peer
      if r ≠ 0 then failJob s j 0x07 else startRun s j

def execStart (peer : Option PeerVerdict) (s : State) : Host.Outcome State Fault Refusal := finish (startJob peer s)

/-! ### GRANT and STOP (R360) -/

/-- The RUN executor takes a GRANT: in a stepped run it finishes once the cycle granted has executed, else at once. -/
def grantJob (s : State) : State :=
  match jobAt s 0x0A 2 .dispatched with
  | none => s
  | some j =>
    let g := min (s.run.grant + j.par 0x18 6) (cycleLimit - 1)
    let s := noteGate s
    let s := { s with run := { s.run with grant := g } }
    if s.run.active && decide (runMode s = 1) && !reachedGate s g then
      modJob s j.q j.seq (fun k => { k with phase := .running, result := BitVec.ofNat 64 g })
    else finishJob s j.q j.seq 0 (BitVec.ofNat 64 g) 0

def execGrant (s : State) : Host.Outcome State Fault Refusal := finish (grantJob s)

/-- The RUN executor takes a STOP: the host stop of R43, finished when the run has stopped. -/
def stopJob (s : State) : State :=
  match jobAt s 0x0A 3 .dispatched with
  | none => s
  | some j => if s.run.active then stopNow (beginJob s j) 3 else finishJob s j.q j.seq 0 0 0

def execStop (s : State) : Host.Outcome State Fault Refusal := finish (stopJob s)

end Sys2Proof.Machine
end

