-- ==== Sys2Proof/Machine/Snap.lean ====
section
/-!
DEFINITION. Snapshots (R262, R263, R363, R458, R460): the CAPTURE job and the drain of its shadows.
-/
namespace Sys2Proof.Machine

def snapBase (s : State) : Nat := reg64 s (ro pTrc 0x0B8) (ro pTrc 0x0BC)

/-- Bytes of the array part: 81,920 for each used tile. -/
def snapArrayBytes (s : State) : Nat := 81920 * (usedTiles s).length

/-- "The next C7". -/
def nextC7 : Nat := 0xFFFFFFFFFFFF

/-- The first cycle whose C7 no tile of the run has done. -/
def openC7 (s : State) : Nat :=
  ((runTiles s).map (fun p =>
    let t := tileOf s p
    if t.pastC7 t.cycle then t.cycle + 1 else t.cycle)).foldl max 0

/-- Every used tile copies its DS and counters to the shadow at once: no run is active. -/
def copyNow (s : State) : State :=
  let s := (runTiles s).foldl (fun s p =>
    let t := tileOf s p
    putTile s p { t with st := { t.st with shadow := t.st.ds, cntShadow := t.un.cnt } }) s
  { s with trc := { s.trc with arrShadow := true } }

/-- How the rim part begins: a status that it fails with, or 0 and the capture to wait for. -/
def rimPart (s : State) (clk src : Nat) (t : Word) : Nat :=
  if !(rimClks s).getLsbD clk then 0x0C
  else if src = 0 ∧ t.toNat < s.tb.toNat then 0x14
  else if src = 1 ∧ s.mkh.state ≠ 2 then 0x15
  else 0

/-- The array part as it stands after dispatch: what it waits for, what it has, its status. -/
def arrayPart (s : State) (named : Nat) : Option Nat × Option Nat × Nat :=
  if !s.run.active then (none, some (curCycle s), 0)
  else if named = nextC7 then (some (openC7 s), none, 0)
  else if named < openC7 s then (none, none, 0x14)
  else (some named, none, 0)

/-- The snapshot executor takes a CAPTURE. -/
def captureJob (s : State) : State :=
  match jobAt s 0x0B 1 .dispatched with
  | none => s
  | some j =>
    let what := j.par 0x30 1
    let arr := what.testBit 0
    let rim := what.testBit 1
    let clk := j.par 0x31 1 % 8
    let src := j.par 0x31 1 / 16 % 4
    let t := BitVec.ofNat 64 (j.par 0x20 8)
    if (arr && s.trc.arrShadow) || (rim && s.rim.shadow.isSome) then finishJob s j.q j.seq 0x02 (BitVec.ofNat 64 nextC7) 0
    else if capacity s < snapBase s + 64 + snapArrayBytes s + 12416 then
      finishJob s j.q j.seq 0x11 (BitVec.ofNat 64 nextC7) 0
    else
      let (cyc, got, ast) := if arr then arrayPart s (j.par 0x18 6) else (none, none, 0)
      let rst := if rim then rimPart s clk src t else 0
      let job : SnapJob :=
        { q := j.q, seq := j.seq, cyc := cyc, wantArr := arr && ast == 0, gotArr := got, wantRim := rim && rst == 0
          gotRim := false, arrStatus := ast, rimStatus := rst }
      let s := if got.isSome then copyNow s else s
      let s := if job.wantRim then
          { s with rim := { s.rim with want := some { clk := clk, src := src, t := t, fired := false } } }
        else s
      if !job.wantArr && !job.wantRim then
        finishJob s j.q j.seq (if ast ≠ 0 then ast else rst) (BitVec.ofNat 64 nextC7) 0
      else beginJob { s with trc := { s.trc with snap := some job } } j

def execCapture (s : State) : Host.Outcome State Fault Refusal := finish (captureJob s)

/-- Slots 0x000 to 0x27F of a tile's shadow in the DSINIT layout; every slot of a protected BP reads 0 (R163, R458). -/
def snapTile (s : State) (l : Nat) : List Byte :=
  let st := (tileOf s (physOf s l)).st
  (List.range 81920).map (fun k =>
    let n := k / 80
    if protectedBp s l n then 0
    else (List.range 8).foldl (fun (b : Byte) i =>
      let slot := k % 80 * 8 + i
      let v := if slot = 1 then true else if slot = 0 then false else Tbl.get false st.shadow (n * 1024 + slot)
      b ||| place 8 i 1 v.toNat) 0)

/-- The header line of the snapshot area. -/
def snapHeader (s : State) (j : SnapJob) : List Byte :=
  let t : Word := match s.rim.shadow with | some x => if j.gotRim then x.t else 0 | none => 0
  let w0 := place 64 0 48 (j.gotArr.getD 0) ||| place 64 48 1 j.gotArr.isSome.toNat ||| place 64 49 1 j.gotRim.toNat
  ([w0, t, BitVec.ofNat 64 s.img.tiles.toNat, 0, 0, 0, 0, 0] : List Word).flatMap wordBytes

/-- The rim shadow, padded to 12,416 bytes. -/
def snapRim (s : State) : List Byte :=
  match s.rim.shadow with
  | some x => bytesAt x.bytes 0 12416
  | none => []

/-- Chital has drained what was captured; the SNAP job finishes with the status of a part that failed, the array's first
(R363).  Shadows whose job an abort took are given up. -/
def snapDone (s : State) : State :=
  let clear := fun s : State =>
    { s with trc := { s.trc with snap := none, arrShadow := false }, rim := { s.rim with shadow := none } }
  match s.trc.snap with
  | none => clear s
  | some j =>
    if (j.wantArr && j.gotArr.isNone) || (j.wantRim && !j.gotRim) || retraining s then s
    else
      let base := snapBase s
      let s0 := s
      let s := dramWrite s base (snapHeader s0 j) trcStop
      let s := if j.gotArr.isSome then dramWrite s (base + 64) ((usedTiles s0).flatMap (snapTile s0)) trcStop else s
      let s := if j.gotRim then
          orReg (dramWrite s (base + 64 + snapArrayBytes s0) (snapRim s0) trcStop) (ro pRim 0x0C0) 2
        else s
      let det : Word := match s0.rim.shadow with | some x => if j.gotRim then x.t else 0 | none => 0
      finishJob (clear s) j.q j.seq (if j.arrStatus ≠ 0 then j.arrStatus else j.rimStatus)
        (BitVec.ofNat 64 (j.gotArr.getD nextC7)) det

def execSnapDrain (s : State) : Host.Outcome State Fault Refusal := finish (snapDone s)

end Sys2Proof.Machine
end

