-- ==== Sys2Proof/Machine/Arm.lean ====
section
/-!
DEFINITION. Markhor jobs (R331 to R337, R341, R361): ARM with its checks and admission, and READOUT.
-/
namespace Sys2Proof.Machine

/-! ### Checks of an arm (R316, R321, R334, R337, R342) -/

/-- An event source that a stage may name. -/
def sourceOk (e : Nat) : Bool :=
  decide (e ≤ 0x20 ∨ (0x28 ≤ e ∧ e ≤ 0x38) ∨ e = 0x3F)

/-- A source that TRIGOUT_CFG may name. -/
def outputOk (e : Nat) : Bool := sourceOk e || decide (e = 0x3C ∨ e = 0x3D)

/-- Does the detector's mode not fit the format of the samples that the channel has received (R319)?  A channel that has
received none has no format to judge (assumption 104). -/
def detBad (s : State) (c : Nat) : Bool :=
  let det := regF s (chReg c 0) 9 3
  match (mchanOf s c).fmt with
  | some f => decide ((f = 3 ∧ 1 ≤ det ∧ det ≤ 5) ∨ (f ≠ 3 ∧ det = 6))
  | none => false

/-- A channel's values are malformed, or its ring is not 1 to 32 banks of one die. -/
def chanBad (s : State) (c : Nat) : Bool :=
  let n := chPre s c + chPost s c
  let det := regF s (chReg c 0) 9 3
  let f := ringFirst s c
  let k := ringCount s c
  decide (chPre s c % 32 ≠ 0 ∨ chPost s c % 32 ≠ 0 ∨ n < 64 ∨ 16777216 < n) ||
    decide (chRed s c = 3 ∨ (chRed s c ≠ 0 ∧ chK s c = 1)) ||
    decide (k < 1 ∨ 32 < k ∨ f / 32 ≠ (f + k - 1) / 32) ||
    (if c = 32 then decide (chRed s c ≠ 0) else decide (chSperiod s c = 0 ∨ det = 7) || detBad s c)

/-- Do two enabled channels share a bank of their rings? -/
def ringsShare (s : State) : Bool :=
  (enabledChans s).any (fun c => (enabledChans s).any (fun d =>
    decide (c < d) && overlap (ringFirst s c) (ringCount s c) (ringFirst s d) (ringCount s d)))

/-- CONFIG. -/
def armConfigBad (s : State) : Bool :=
  (enabledChans s).any (chanBad s) || ringsShare s ||
    (List.range 8).any (fun k => !sourceOk (regF s (ro pAcq (0x100 + 8 * k)) 0 6) ||
      !sourceOk (regF s (ro pAcq (0x100 + 8 * k)) 6 6)) ||
    (List.range 4).any (fun k => !outputOk (regF s (ro pAcq (0x0D0 + 4 * k)) 0 6)) ||
    decide (capacity s < acqBase s + acqLen s)

/-- BIND: two enabled channels with one port and stream ID. -/
def armBindBad (s : State) : Bool :=
  let cs := (enabledChans s).filter (fun c => decide (c < 32))
  cs.any (fun c => cs.any (fun d =>
    decide (c < d ∧ chPort s c = chPort s d ∧ regF s (chReg c 0) 4 5 = regF s (chReg d 0) 4 5)))

/-- NOT_OWNER: a bank of a ring that Markhor does not own. -/
def armOwnerBad (s : State) : Bool :=
  (enabledChans s).any (fun c => (List.range (ringCount s c)).any (fun i => decide (bankOwner s (ringFirst s c + i) ≠ 0x42)))

/-- SPACE: ACQ_LEN is below the sum of SEG_MAX x S_c. -/
def armSpaceBad (s : State) : Bool := decide (acqLen s < ((enabledChans s).map (fun c => segMax s * recordBytes s c)).sum)

/-- CONFLICT: the buffer or the marker log overlaps a slot, a QPORT region, the checkpoint area or the Chital ring. -/
def armConflict (s : State) : Bool :=
  let hit := fun a n =>
    hitsSlot s a n || (s.cfg.resValid && hitsRegion s a n) || overlap a n (ckptBase s) (ckptLen s) ||
      overlap a n (reg64 s (ro pTrc 0x088) (ro pTrc 0x08C)) (getReg s (ro pTrc 0x090)).toNat
  hit (acqBase s) (acqLen s) || hit (reg64 s (ro pAcq 0x0A8) (ro pAcq 0x0AC)) (getReg s (ro pAcq 0x0B0)).toNat

/-- The first check that fails, as a status (the order is a DESIGN CHOICE, assumption 27). -/
def armRefusal (s : State) : Option Nat :=
  if mkhArmed s then some 0x02
  else if armConfigBad s then some 0x09
  else if armBindBad s then some 0x08
  else if armOwnerBad s then some 0x04
  else if armSpaceBad s then some 0x0A
  else if armConflict s then some 0x0B
  else none

/-- Markhor arms: every enabled channel starts afresh, waiting for PRE samples (R330); segments of an earlier arming still
drain. -/
def armNow (s : State) : State :=
  let s := (List.range 33).foldl (fun s c =>
    let x := mchanOf s c
    putMchan s c { MChan.reset with
      state := if chEn s c then 3 else 0, fmt := x.fmt, cls := x.cls, count := x.count, left := x.left ++ x.drain }) s
  { s with mkh := { s.mkh with
    probeDone := if slotsIdle s then max s.mkh.probeDone (nextFirst s) else s.mkh.probeDone
    state := 2, stage := 0, count := 0, fires := 0, queue := [], wp := 0, pulses := [], probeGot := [] } }

/-- Markhor takes an ARM: set-up, then admission, then arming. -/
def armJob (s : State) : State :=
  match jobAt s 0x0C 1 .dispatched with
  | none => s
  | some j =>
    match armRefusal s with
    | some st => failJob s j st
    | none =>
      let (s, r) := runAdmission s false true false none
      let det := BitVec.ofNat 64 (getReg s (ro pGlb 0x144)).toNat
      if r ≠ 0 then finishJob s j.q j.seq 0x07 0 det
      else finishJob (armNow s) j.q j.seq 0 0 det

def execArm (s : State) : Host.Outcome State Fault Refusal := finish (armJob s)

/-! ### Readout (R336, R355) -/

/-- The places in bank space of the newest samples of a channel's ring that `n` bytes hold, oldest first. -/
def livePlaces (s : State) (c n : Nat) : List Nat :=
  let x := mchanOf s c
  let w := chBeta s c
  (x.ring.drop (x.ring.length - (n + w - 1) / max 1 w)).map (·.at_)

/-- The bank as a read that meets the last write finds it: with the old data under RDW OLD (R199). -/
def meetLast (s : State) (b : Nat) : State :=
  if regBit s (ro (pBnk b) 0x084) 1 then
    match (bankOf s b).prev with
    | some (w, v) => putBank s b { bankOf s b with words := Tbl.set 0 (bankOf s b).words w v }
    | none => s
  else s

/-- The newest bytes of a channel's ring, oldest first; with `same`, the newest word is read as ingest writes it. -/
def liveBytes (s : State) (c n : Nat) (same : Bool) : List Byte :=
  let ps := livePlaces s c n
  let s' := if same then match ps.getLast? with | some a => meetLast s (a / 2 ^ 21) | none => s else s
  let bs := ps.flatMap (fun a => bankBytes s' a (chBeta s c))
  bs.drop (bs.length - n)

/-- What a LIVE read leaves behind: parity errors of the words that it read (R200). -/
def liveRead (s : State) (c n : Nat) : State :=
  let w := chBeta s c
  (livePlaces s c n).foldl (fun s a => bankRead s (a / 8) ((a + w + 7) / 8 - a / 8)) s

/-- Markhor takes a READOUT and copies to the host; `host` is the error code of a failed host request, 0 for none, and `moved`
the bytes delivered before that failure or an abort (R368).  LIVE delivers what the ring has received, up to LEN bytes
(assumption 27), and reaches no bank that MARKHOR does not own (R197): NOT_OWNER; a read of DRAM waits for a retrain (R229). -/
def readoutJob (host moved : Nat) (same : Bool) (s : State) : State :=
  match jobAt s 0x0C 2 .dispatched with
  | none => s
  | some j =>
    let dst := j.par 0x18 8
    let len := j.par 0x20 8
    let off := j.par 0x28 8
    let c := j.par 0x30 1 % 64
    let live := (j.par 0x30 1).testBit 6
    if len % 64 ≠ 0 ∨ off % 64 ≠ 0 then failJob s j 0x10
    else if (if live then decide (32 < c ∨ ringCount s c * 2097152 < len)
        else decide (acqLen s < off + len ∨ capacity s < acqBase s + off + len)) then failJob s j 0x11
    else if live && (List.range (ringCount s c)).any (fun i => decide (bankOwner s (ringFirst s c + i) ≠ 0x42)) then
      failJob s j 0x04
    else if !live && retraining s then s
    else
      let all := if live then liveBytes s c len same else dramRead s (acqBase s + off) len
      let s := if live then liveRead s c len else dramFetch s (acqBase s + off) len mkhStop
      let bs := if host ≠ 0 ∨ j.aborted then all.take moved else all
      let s := hostWrite s dst bs
      let r := BitVec.ofNat 64 bs.length
      if host ≠ 0 then finishJob (pciFailure s host) j.q j.seq 0x13 r (BitVec.ofNat 64 host)
      else finishJob s j.q j.seq 0 r 0

def execReadout (host moved : Nat) (same : Bool) (ups : List BankUpset) (lines : List LineErr) (s : State) :
    Host.Outcome State Fault Refusal := finish (readoutJob host moved same (ups.foldl bankUpset (strike s lines)))

end Sys2Proof.Machine
end

