-- ==== Sys2Proof/Machine/SelfTest.lean ====
section
/-!
DEFINITION. Chamois test jobs (R206, R420, R421, R443): BANK_TEST and TILE_TEST.
-/
namespace Sys2Proof.Machine

/-- BANK_TEST begins on a bank that CHAMOIS owns. -/
def bankTestJob (s : State) : State :=
  match jobAt s 0x0D 1 .dispatched with
  | none => s
  | some j =>
    let b := j.par 0x31 1
    if 128 ≤ b then failJob s j 0x11
    else if bankOwner s b ≠ 0x44 then failJob s j 0x02
    else beginJob (putBank s b { bankOf s b with testing := true }) j

def execBankTest (s : State) : Host.Outcome State Fault Refusal := finish (bankTestJob s)

/-- The destructive test ends: failing regions go to spares, and every word is zero.  Its writes, as any, came after the copies of
regions that a checkpoint waits for, and made every region dirty (R201, R202). -/
def bankTestEnd (failed : List Nat) (s : State) : State :=
  match jobAt s 0x0D 1 .running with
  | none => s
  | some j =>
    let b := j.par 0x31 1
    let bad := (failed.filter (fun r => decide (r < 4096))).eraseDups
    let out := decide (4 < (bankOf s b).spares.length + bad.length)
    let s := (bankOf s b).pend.foldl (fun s e => copyFirst s b e.1) s
    let s := bad.foldl (fun s r => regionFails s b r) s
    let s := putBank s b { bankOf s b with
      words := [], prev := none, dirty := everyRegion, touched := everyRegion, testing := false }
    let res := place 64 0 3 (bankOf s b).spares.length ||| place 64 3 1 out.toNat ||| place 64 8 8 (min 255 bad.length)
    let det : Word := match bad with | r :: _ => place 64 0 12 r ||| place 64 31 1 1 | [] => 0
    finishJob s j.q j.seq 0 res det

def execBankTestDone (failed : List Nat) (s : State) : Host.Outcome State Fault Refusal := finish (bankTestEnd failed s)

/-- The physical tile that a TILE_TEST names. -/
def Job.testTile (j : Job) : Nat := 17 * j.par 0x30 1 + j.par 0x31 1

/-- Does the tile belong to an active run, a dead one held for rollback included (R421)? -/
def tileBusy (s : State) (p : Nat) : Bool :=
  inRun s p ||
    (s.run.active && fenced s p && decide ((tileOf s p).phase = .faulted) && s.run.holds.contains .rollback)

/-- TILE_TEST begins on a tile outside any run, at operating voltage. -/
def tileTestJob (s : State) : State :=
  match jobAt s 0x0D 2 .dispatched with
  | none => s
  | some j =>
    if 4 ≤ j.par 0x30 1 ∨ 17 ≤ j.par 0x31 1 then failJob s j 0x11
    else if tileBusy s j.testTile then failJob s j 0x02
    else beginJob (putTile s j.testTile { tileOf s j.testTile with
      testing := true, testFenced := fenced s j.testTile, mv := opMv s j.testTile }) j

def execTileTest (s : State) : Host.Outcome State Fault Refusal := finish (tileTestJob s)

/-- The tile test ends: its storage is zero, TEST_OK tells the outcome, and the tile is back in retention.  `parts` are the
failed parts, `bp` and `addr` the first failure.  A tile that a run has drafted meanwhile is left alone (R16, assumption 116). -/
def tileTestEnd (parts : BitVec 8) (bp addr : Nat) (s : State) : State :=
  match jobAt s 0x0D 2 .running with
  | none => s
  | some j =>
    let p := j.testTile
    let ok := decide (parts = 0)
    let t := tileOf s p
    let s := if !t.testing then s else putTile s p { Tile.reset with
      retention := true, testOk := ok, testFenced := t.testFenced, dead := t.dead, hardTimes := t.hardTimes }
    let res := place 64 0 1 ok.toNat ||| place 64 1 8 parts.toNat
    let det : Word := if ok then 0 else place 64 0 10 bp ||| place 64 10 12 addr ||| place 64 31 1 1
    finishJob s j.q j.seq 0 res det

def execTileTestDone (parts : BitVec 8) (bp addr : Nat) (s : State) : Host.Outcome State Fault Refusal :=
  finish (tileTestEnd parts bp addr s)

end Sys2Proof.Machine
end

