-- ==== Sys2Proof/Machine/Observe.lean ====
section
/-!
DEFINITION. What a register reads as (16, and the register tables of every chapter): live and read-only registers are
computed from the state they show, every other register reads as the register store holds it.
-/
namespace Sys2Proof.Machine

/-! ### Straps and voted registers -/

/-- BOOT_SRC as sampled; HOST_BOOT_DIS makes it read 0 (R389, R484). -/
def srcHost (s : State) : Bool := s.hw.straps.getLsbD 7 && !s.keys.hostBootDis

/-- Vote every field of a register before it is used (R433, R468). -/
def voteReg (s : State) (a : Nat) : State := (voteFields a).foldl (fun s f => voteField s a f) s

/-! ### Common header (R470 to R474) -/

/-- A bank with no access in flight and no region under test (R209). -/
def bankIdle (s : State) (b : Nat) : Bool :=
  !repairing s b && !(bankOf s b).testing && !dmaOnBank s b && !tmemWaits s b &&
    (match (dieOf s (b / 32)).tt with | some v => v.bank != b | none => true)

/-- BLK_STAT: the sticky bits, with the live IDLE bit of a bank page. -/
def blkStat (s : State) (pg : Nat) : Reg :=
  let v := getReg s (ro pg 0x014)
  if pageKind pg = .bnk then v ||| place 32 0 1 (bankIdle s (pageInstance pg)).toNat else v

/-- BLK_CAP (R471). -/
def blkCap (k : PageKind) : Reg :=
  place 32 0 16 (pageSpaces k) ||| place 32 16 1 (pageIrq k).toNat ||| place 32 17 1 (pageVoted k).toNat

/-- The computed registers of the header. -/
def headerLive (s : State) (pg o : Nat) : Option Reg :=
  let k := pageKind pg
  match o with
  | 0x000 => some (place 32 0 8 k.code ||| place 32 8 8 (pageInstance pg) ||| place 32 16 16 0x564B)
  | 0x004 => some (place 32 0 4 (steppingCode s) ||| place 32 8 8 (steppingCode s))
  | 0x008 => some (blkCap k)
  | 0x014 => some (blkStat s pg)
  | 0x018 => some (blkStat s pg)
  | 0x028 => some (getReg s (ro pg 0x024))
  | _ => none

/-! ### Pages -/

/-- Bits [31:0] of a number, and bits [63:32]. -/
def lo32 (n : Nat) : Reg := BitVec.ofNat 32 n
def hi32 (n : Nat) : Reg := BitVec.ofNat 32 (n / 2 ^ 32)

/-- GLB (R53, R117, R439, R484). -/
def glbLive (s : State) (o : Nat) : Option Reg :=
  let last := match s.recov.last with | some c => c.cyc | none => 0
  match o with
  | 0x080 => some (place 32 0 7 s.hw.straps.toNat ||| place 32 7 1 (srcHost s).toNat)
  | 0x108 => some (lo32 (curCycle s % cycleLimit))
  | 0x10C => some (hi32 (curCycle s % cycleLimit))
  | 0x110 => some (lo32 (s.run.grant % cycleLimit))
  | 0x114 => some (hi32 (s.run.grant % cycleLimit))
  | 0x384 => some (lo32 (min 0xFFFFFFFF (tLink s)))
  | 0x414 => some (place 32 0 1 (s.recov.active && s.run.active).toNat |||
      place 32 1 1 (s.recov.rolling || s.run.holds.contains .rollback).toNat |||
      place 32 4 4 s.recov.fail ||| place 32 8 16 s.recov.rollbacks)
  | 0x418 => some (lo32 (last % cycleLimit))
  | 0x41C => some (hi32 (last % cycleLimit))
  | _ => none

/-- What the link trained to (R381): one of the five speeds, one of the five widths; measured (assumption 11). -/
def linkStat : Reg :=
  let m := (Config.measured pPci 0x084 0).toNat
  place 32 0 4 (1 + m % 5) ||| place 32 4 6 (2 ^ (m / 5 % 5))

/-- What the MSI-X capability in configuration space names (R483): the vectors, and the BAR and offset of the table and of the
pending bits.  It is constant, and no command reads configuration space (assumption 135). -/
structure MsixCapability where
  vectors : Nat
  tableBar : Nat
  table : Nat
  pbaBar : Nat
  pba : Nat
  deriving DecidableEq, Repr

def msixCapability : MsixCapability :=
  { vectors := 64, tableBar := 0, table := ro pPci 0x800, pbaBar := 0, pba := ro pPci 0xC00 }

/-- PCI (R381, R483): the link's speed and width are the standard's (assumption 11). -/
def pciLive (s : State) (o : Nat) : Option Reg :=
  match o with
  | 0x084 => some ((if s.hw.pcieRef && endpointUp s then linkStat else 0) ||| place 32 16 1 s.hw.l1.toNat)
  | 0xC00 => some (lo32 s.saiga.msixPend.toNat)
  | 0xC04 => some (hi32 s.saiga.msixPend.toNat)
  | _ => none

/-- The pages whose (BLK_IRQ AND BLK_IRQ_EN) is non-zero, of the 32 from `from_` on (R376). -/
def irqSum (s : State) (from_ : Nat) : Reg :=
  (List.range 32).foldl (fun (w : Reg) j =>
    let pg := from_ + j
    if (rawReg s (ro pg 0x024) &&& rawReg s (ro pg 0x020)) != 0 then w ||| place 32 j 1 1 else w) 0

/-- Executors that run a job (R376). -/
def busyBits (s : State) : Reg :=
  (List.range 14).foldl (fun (w : Reg) x =>
    if s.saiga.jobs.any (fun j => j.works && j.exec == x) then w ||| place 32 x 1 1 else w) 0

/-- JOB (R376, R377). -/
def jobLive (s : State) (o : Nat) : Option Reg :=
  let g := s.saiga
  if o = 0x084 then some (place 32 0 1 g.abort.isSome.toNat ||| place 32 1 3 g.abortRes ||| place 32 8 8 g.abortCnt)
  else if o = 0x090 then some (busyBits s)
  else if 0x0A0 ≤ o ∧ o < 0x0C0 then some (irqSum s ((o - 0x0A0) / 4 * 32))
  else if 0x100 ≤ o ∧ o < 0x300 then
    let q := (o - 0x100) / 0x40
    let x := queueOf s q
    match (o - 0x100) % 0x40 with
    | 0x14 => some (lo32 x.tail)
    | 0x18 => some (if x.used then lo32 (sqLimit s q) else 0)
    | 0x1C => some (lo32 x.cqTail)
    | 0x20 => some (lo32 x.cqHead)
    | 0x2C => some (lo32 ((queueJobs s q).length % 65536))
    | _ => none
  else none

/-- MSG (R379). -/
def msgLive (s : State) (o : Nat) : Option Reg :=
  if o < 0x100 ∨ 0x300 ≤ o then none
  else
    let x := fifoOf s ((o - 0x100) / 0x20)
    match (o - 0x100) % 0x20 with
    | 0x04 => some (hi32 x.last.toNat)
    | 0x08 => some (place 32 0 13 x.held ||| place 32 16 6 (x.vis.headD []).length |||
        place 32 22 1 x.vis.isEmpty.toNat ||| place 32 23 9 (min 511 x.vis.length))
    | _ => none

/-- Word `i` of an event log entry (R373). -/
def evWord (e : Ev) (i : Nat) : Reg :=
  match i with
  | 0 => lo32 e.time.toNat
  | 1 => hi32 e.time.toNat
  | 2 => place 32 0 16 e.code ||| place 32 16 12 e.page
  | _ => e.detail

/-- EVL (R380). -/
def evlLive (s : State) (o : Nat) : Option Reg :=
  let w := fun i => some (match s.evl.last with | some e => evWord e i | none => (0 : Reg))
  match o with
  | 0x084 => w 1
  | 0x088 => w 2
  | 0x08C => w 3
  | 0x090 => some (place 32 0 10 s.evl.log.length ||| place 32 16 1 s.evl.log.isEmpty.toNat)
  | _ => none

/-- SLOT_STATE of 16 slots. -/
def slotStates (s : State) (from_ : Nat) : Reg :=
  (List.range 16).foldl (fun (w : Reg) i => w ||| place 32 (2 * i) 2 (slotOf s (from_ + i)).st) 0

/-- A slot's fingerprint; 0 while it holds no key (R388). -/
def keyShown (s : State) (slot : Nat) : Nat :=
  if slot = 0 then (if s.keys.fuseSet then (keyId s.keys.fuseKey).toNat else 0)
  else (if s.keys.bbSet then (keyId s.keys.bbKey).toNat else 0)

/-- CFG (R408, R409). -/
def cfgLive (s : State) (o : Nat) : Option Reg :=
  let c := s.cfg
  let k := s.keys
  match o with
  | 0x080 => some (place 32 0 4 c.state ||| place 32 4 1 (s.hw.straps.getLsbD 6).toNat ||| place 32 5 1 (srcHost s).toNat)
  | 0x084 => some c.err
  | 0x08C => some (lo32 (min c.rx.length (if 256 ≤ c.rx.length then conTotal (bytesOf c.rx) else 256)))
  | 0x0B0 => some (slotStates s 0)
  | 0x0B4 => some (slotStates s 16)
  | 0x0B8 => some (place 32 0 5 c.resSlot ||| place 32 8 1 c.resValid.toNat ||| place 32 9 1 c.resEnc.toNat |||
      place 32 10 1 c.resBbram.toNat)
  | 0x0C4 => some (place 32 0 1 k.fuseSet.toNat ||| place 32 1 1 k.bbSet.toNat ||| place 32 2 1 k.tampered.toNat |||
      place 32 3 1 k.plainDis.toNat ||| place 32 4 1 k.bbramDis.toNat ||| place 32 5 1 k.hostBootDis.toNat)
  | 0x0D0 => some (lo32 (keyShown s 0))
  | 0x0D4 => some (hi32 (keyShown s 0))
  | 0x0D8 => some (lo32 (keyShown s 1))
  | 0x0DC => some (hi32 (keyShown s 1))
  | _ => none

/-- FUS (R410). -/
def fusLive (s : State) (o : Nat) : Option Reg :=
  let k := s.keys
  match o with
  | 0x080 => some (place 32 0 1 k.fuseSet.toNat ||| place 32 1 1 k.plainDis.toNat ||| place 32 2 1 k.bbramDis.toNat |||
      place 32 3 1 k.hostBootDis.toNat)
  | 0x08C => some (place 32 0 1 k.prog.isSome.toNat ||| place 32 1 1 k.progFail.toNat)
  | _ => none

/-- A bit for each die that satisfies `f`. -/
def dieBits (f : Nat → Bool) : Nat := ((List.range 4).map (fun d => (f d).toNat * 2 ^ d)).sum

/-- PWR (R156 to R158, R501, R502).  DESIGN CHOICE (assumption 97): CLK_LOW reads 0 for a die whose STEPCLK is gated. -/
def pwrLive (s : State) (o : Nat) : Option Reg :=
  let lock := decide (s.hw.boot = .locked ∨ s.hw.boot = .up) && !s.hw.refLost
  if o = 0x084 then
    some (getReg s govStat ||| place 32 0 4 (dieBits (fun d => decide (tokEff s d < tokBud s d))) |||
      place 32 4 4 (dieBits (fun d => decide (stepClk s d ≠ 0 ∧ stepClk s d < clkCeil s d))))
  else if 0x0B0 ≤ o ∧ o < 0x0C0 ∧ o % 4 = 0 then some (lo32 (clkCeil s ((o - 0x0B0) / 4)))
  else if o = 0x104 then
    some (place 32 0 2 s.pwr.state ||| place 32 2 1 (s.pwr.entering.isSome || s.pwr.exiting).toNat |||
      place 32 4 4 s.pwr.reason)
  else if o = 0x148 then some (lo32 (capEff s))
  else if o = 0x150 then
    some (place 32 0 1 lock.toNat ||| place 32 1 1 lock.toNat ||| place 32 2 4 s.hw.laneRef.toNat |||
      place 32 6 1 s.hw.refLost.toNat)
  else none

/-- SCR_STAT (R442). -/
def scrLive (s : State) (o : Nat) : Option Reg :=
  if o = 0x084 then
    some (place 32 0 1 (s.scr.committed && regBit s scrCtl 0 && !s.scr.halted).toNat |||
      place 32 1 1 s.scr.committed.toNat ||| place 32 2 1 s.scr.commitBusy.toNat ||| place 32 3 1 s.scr.halted.toNat)
  else none

/-- Is no packet staged? -/
def nothingStaged (s : State) : Bool :=
  (List.range 5).all (fun k => (streamOf s k).opn.isEmpty && decide ((streamOf s k).staged = 0))

/-- Has stream `k` packets to take, or, once trace is disabled, still to drain (R455)? -/
def streamLive (s : State) (k : Nat) : Bool := regBit s trcCtl 0 || decide (0 < (streamOf s k).staged)

/-- TRC (R461, R462). -/
def trcLive (s : State) (o : Nat) : Option Reg :=
  let on := regBit s trcCtl 0
  match o with
  | 0x084 => some ((getReg s (ro pTrc 0x084) &&& 0xF00) ||| place 32 0 1 on.toNat |||
      place 32 1 1 (nothingStaged s).toNat |||
      place 32 2 5 (((List.range 5).map (fun k => (streamLive s k && streamFull s k).toNat * 2 ^ k)).sum))
  | 0x094 => some (lo32 s.trc.wp)
  | 0x0C4 => some (place 32 0 1 s.trc.unlocked.toNat ||| place 32 1 1 s.img.protect.toNat ||| place 32 2 4 s.trc.authFails)
  | _ => none

/-- MKH_STAT.STATE: ARMING while an arm job checks and admits (R341). -/
def mkhState (s : State) : Nat :=
  if s.mkh.state = 0 ∧ (jobAt s 0x0C 1 .dispatched).isSome then 1 else s.mkh.state

/-- ACQ (R340 to R343). -/
def acqLive (s : State) (o : Nat) : Option Reg :=
  let m := s.mkh
  if o = 0x084 then some (place 32 0 3 (mkhState s) ||| place 32 4 3 m.stage ||| place 32 8 24 m.fires)
  else if o = 0x088 then some (lo32 (segMax s))
  else if o = 0x0A0 then some (lo32 m.wp)
  else if o = 0x0A4 then some (hi32 m.wp)
  else if o = 0x0B4 then some (lo32 m.logWp)
  else if o = 0x0B8 then some (lo32 (flagWord s).toNat)
  else if o = 0x0BC then some (hi32 (flagWord s).toNat)
  else if 0x400 ≤ o ∧ o < 0xC40 then
    let c := mchanOf s ((o - 0x400) / 0x40)
    match (o - 0x400) % 0x40 with
    | 0x20 => some (place 32 0 2 c.state ||| place 32 2 1 (c.armRise || c.armFall || c.armWin).toNat |||
        place 32 3 1 c.rateExceed.toNat ||| place 32 4 1 c.overflow.toNat)
    | 0x24 => some (lo32 c.segs)
    | _ => none
  else none

/-- RIM_STAT.STATE (R261). -/
def rimCode (s : State) : Nat :=
  match s.rim.state with | .noConfig => 0 | .held => 1 | .running => 2 | .decodeFail => 3

/-- RIM (R265, R266). -/
def rimLive (s : State) (o : Nat) : Option Reg :=
  let empty := fun from_ => (List.range 32).foldl (fun (w : Reg) i =>
    if (inqOf s (from_ + i)).isEmpty then w ||| place 32 i 1 1 else w) 0
  match o with
  | 0x084 => some (place 32 0 2 (rimCode s) ||| place 32 2 1 (pinsSafe s).toNat ||| place 32 4 8 (rimClks s).toNat |||
      place 32 12 4 (if s.pwr.state = 2 then 0 else s.rim.pllLock.toNat))
  | 0x0B0 => some (empty 0)
  | 0x0B4 => some (empty 32)
  | _ => none

/-- DDR0 to DDR7 (R237, R238): OCC is an observation (assumption 11). -/
def ddrLive (s : State) (ch o : Nat) : Option Reg :=
  let c := chanOf s ch
  match o with
  | 0x080 => some (place 32 0 1 c.trained.toNat ||| place 32 1 1 c.selfRefresh.toNat ||| place 32 2 4 c.rankPd.toNat |||
      place 32 6 1 c.retrainDue.toNat ||| place 32 7 1 c.retraining.toNat ||| place 32 8 1 c.refused.toNat |||
      place 32 9 3 c.fail)
  | 0x0A4 => some (if s.cfg.trained then lo32 ((Config.measured (pDdr ch) 0x0A4 s.freeCount).toNat % 101) else 0)
  | _ => none

/-- DRAM_CFG (R235). -/
def ddrCommonLive (s : State) (o : Nat) : Option Reg :=
  if o = 0x088 then
    some (place 32 0 1 s.dram.lpddr.toNat ||| place 32 1 3 s.dram.ranks ||| place 32 8 6 s.dram.capLog2)
  else none

/-- LANE_STAT of one lane: a lane takes the port's state while it takes part (R277, R308). -/
def laneStat (s : State) (n r : Nat) : Nat :=
  let x := portOf s n
  let l := x.lane r
  let on := (laneEn s n).testBit r && !l.failed && !l.eqBad
  (if on then x.state % 16 else 0) + 16 * l.inv.toNat + 32 * (l.logical % 4) + 128 * l.eqBad.toNat

/-- LNK (R308, R309). -/
def lnkLive (s : State) (n o : Nat) : Option Reg :=
  let x := portOf s n
  match o with
  | 0x084 => some (place 32 0 4 x.state ||| place 32 4 3 (ones 4 x.rxAct.toNat) ||| place 32 7 3 (ones 4 x.txAct.toNat) |||
      place 32 10 3 x.fail ||| place 32 13 1 x.recalRefused.toNat)
  | 0x088 => some (lo32 (((List.range 4).map (fun r => laneStat s n r * 256 ^ r)).sum))
  | 0x090 => some (lo32 (tOneway s n))
  | 0x0AC => if isLink n then some 0 else none
  | 0x0B4 => some (place 32 0 10 ((x.ctlRx.map List.length).sum) ||| place 32 16 6 (x.ctlRx.headD []).length)
  | _ => none

/-- TIL (R154, R440). -/
def tilLive (s : State) (p o : Nat) : Option Reg :=
  let t := tileOf s p
  let pops := fun (q : QPort) => q.credits
  if o = 0x1CC then
    some (place 32 0 7 t.un.q0.places.length ||| place 32 8 7 (pops t.un.q0) ||| place 32 16 7 t.un.q1.places.length |||
      place 32 24 7 (pops t.un.q1))
  else if 0x1E0 ≤ o ∧ o < 0x200 ∧ o % 4 = 0 then
    let v := (Tbl.get 0 t.st.cntShadow ((o - 0x1E0) / 8)).toNat
    some (if o % 8 = 0 then lo32 v else hi32 v)
  else if o = 0x228 then
    some (place 32 0 1 t.dead.toNat ||| place 32 1 1 t.testOk.toNat |||
      place 32 2 1 (decide (spareOf s (p / 17) = some (p % 17))).toNat ||| place 32 3 1 (logicalOf s p).isSome.toNat)
  else none

/-- TT_STAT of a bank (R208). -/
def bnkLive (s : State) (b o : Nat) : Option Reg :=
  if o = 0x098 then
    let on := match (dieOf s (b / 32)).tt with | some v => v.bank == b | none => false
    some ((getReg s (ro (pBnk b) 0x098) &&& 0xFFFF0FFF) ||| place 32 12 1 on.toNat)
  else none

/-- The computed value of a register, if it is computed. -/
def liveReg (s : State) (a : Nat) : Option Reg :=
  let pg := a / 4096
  let o := a % 4096
  let i := pageInstance pg
  let k := pageKind pg
  if k = .none then none
  else if o < 0x080 then headerLive s pg o
  else match k with
    | .glb => glbLive s o
    | .pci => pciLive s o
    | .job => jobLive s o
    | .msg => msgLive s o
    | .evl => evlLive s o
    | .cfg => cfgLive s o
    | .fus => fusLive s o
    | .pwr => pwrLive s o
    | .tim => none
    | .scr => scrLive s o
    | .trc => trcLive s o
    | .acq => acqLive s o
    | .rim => rimLive s o
    | .ddr => ddrLive s i o
    | .ddrCommon => ddrCommonLive s o
    | .lnk => lnkLive s i o
    | .til => tilLive s i o
    | .bnk => bnkLive s i o
    | .none => none

/-- What a register shows. -/
def regValue (s : State) (a : Nat) : Reg := (liveReg s a).getD (getReg s a)

end Sys2Proof.Machine
end

