-- ==== Sys2Proof/Machine/Indirect.lean ====
section
/-!
DEFINITION. Indirect pairs (R81 to R83, R207, R267, R268, R310, R376, R407, R458, R475 to R481): what the word at IND_ADDR
reads as, and what writing it does.
-/
namespace Sys2Proof.Machine

def indAddrReg (pg : Nat) : Nat := ro pg 0x040

/-- Has the page an indirect space? -/
def hasInd (pg : Nat) : Bool := pageSpaces (pageKind pg) != 0

/-- IND_ADDR after an access: its address field goes on by 4, and wraps within the field, unless NOINC is 1. -/
def indAdvance (s : State) (pg : Nat) : State :=
  let w := indField (pageKind pg)
  if regBit s (ro pg 0x048) 0 then s
  else setRegF s (indAddrReg pg) 0 w (regF s (indAddrReg pg) 0 w + 4)

/-! ### Reads -/

/-- 32 bits of a wide word. -/
def part32 {n : Nat} (w : BitVec n) (j : Nat) : Reg := BitVec.ofNat 32 (fld w (32 * j) 32)

/-- DS slots 32w to 32w + 31 of BP n in the shadow copy; a protected BP reads 0 (R81, R83, R458). -/
def dsWord (s : State) (p n w : Nat) : Reg :=
  if protectedBp s (logicalNo s p) n then 0
  else (List.range 32).foldl (fun (v : Reg) i =>
    let slot := 32 * w + i
    let b := if slot < 0x280 then (if slot = 1 then true else if slot = 0 then false
      else Tbl.get false (tileOf s p).st.shadow (n * 1024 + slot)) else false
    v ||| place 32 i 1 b.toNat) 0

/-- A TIL page (R81): space and byte address.  A tile in retention and an encrypted image read 0 (R407, R478). -/
def tilWord (s : State) (p sp off : Nat) : Reg :=
  let t := tileOf s p
  let i := off / 4
  if t.retention || (decide (sp < 4) && s.cfg.resEnc) then 0
  else match sp with
    | 0 => if i / 4 < 4194304 ∧ i % 4 < 3 then part32 (Tbl.get t.st.imemFill t.st.imem (i / 4)) (i % 4) else 0
    | 1 => if i < 4096 then BitVec.ofNat 32 (Tbl.get 0 t.st.ftab i).toNat else 0
    | 2 => if i < 65536 then Tbl.get 0 t.st.rtab i else 0
    | 3 => if i < 1024 then BitVec.ofNat 32 (Tbl.get 0 t.st.ptab i).toNat else 0
    | 4 => if i < 32768 then dsWord s p (i / 32) (i % 32) else 0
    | _ => 0

/-- May the host reach the bank's words: OWNER is NONE or HOST (R207)? -/
def bankOpen (s : State) (b : Nat) : Bool := decide (bankOwner s b = 0x40 ∨ bankOwner s b = 0x41)

/-- A DDR channel page (R480): what training has set, which the spec gives no numbers (assumption 11). -/
def phyWord (s : State) (ch a : Nat) : Reg :=
  let rank := a / 1024 % 4
  let lane := a / 64 % 16
  let w := a / 4 % 16
  if (chanOf s ch).trained ∧ a < 4096 ∧ rank < s.dram.ranks ∧ lane < (if s.dram.lpddr then 4 else 10) ∧ w < 6 then
    Config.measured (pDdr ch) a (if w = 5 then s.freeCount else 0) &&& (if w = 3 ∨ w = 4 then 0x3FF else 0xFFFF)
  else 0

/-- A LNK page (R310). -/
def laneWord (s : State) (n a : Nat) : Reg :=
  let l := (portOf s n).lane (a / 1024 % 4)
  let k := a / 4 % 256
  if 4096 ≤ a then 0
  else if k < 2 then part32 l.eq k
  else if k < 4 then Config.measured (pLnk n) a s.freeCount
  else if k = 4 then l.syms
  else 0

/-- The RIM page (R267): I/O cells and the configuration frames; an encrypted image hides the frames (R407). -/
def rimWord (s : State) (sp off : Nat) : Reg :=
  match sp with
  | 0 =>
    let pin := off / 16
    if 192 ≤ pin then 0
    else match off / 4 % 4 with
      | 0 => BitVec.ofNat 32 (ioWord s pin 0 % 64)
      | 1 => let x := delayOf s pin; place 32 0 10 x.target ||| place 32 31 1 (decide (x.tap ≠ x.target)).toNat
      | 2 => Config.measured pRim off s.freeCount &&& 1
      | _ => 0
  | 1 => if s.cfg.resEnc then 0 else BitVec.ofNat 32 (num s.rim.frames (off / 4 * 4) 4)
  | _ => 0

/-- The JOB page (R376): flags of context k, and the WAIT_MASK of the job that holds it. -/
def ctxWord (s : State) (a : Nat) : Reg :=
  let c := a / 16
  if 256 ≤ c then 0
  else
    let m : Word := match ctxJob s c with | some j => j.waitMask | none => 0
    match a / 4 % 4 with
    | 0 => part32 (ctxFlags s c) 0
    | 1 => part32 (ctxFlags s c) 1
    | 2 => part32 m 0
    | _ => part32 m 1

/-- The FUS page (R481). -/
def fuseWord (s : State) (a : Nat) : Reg :=
  if a < 0x10 then part32 s.keys.devId (a / 4)
  else if a / 4 = 4 then BitVec.ofNat 32 (s.keys.bin % 16)
  else if 0x100 ≤ a ∧ a < 0x1C4 then BitVec.ofNat 32 (Tbl.get 0 s.keys.vf ((a - 0x100) / 4) % 1024)
  else 0

/-- The word at the address that a page's IND_ADDR holds. -/
def indWord (s : State) (pg a : Nat) : Reg :=
  let i := pageInstance pg
  match pageKind pg with
  | .til => tilWord s i (a / 2 ^ 28) (a % 2 ^ 28)
  | .bnk => if a < 2 ^ 21 ∧ bankOpen s i then part32 ((bankOf s i).word (a / 8)) (a / 4 % 2) else 0
  | .ddr => phyWord s i a
  | .lnk => laneWord s i a
  | .rim => rimWord s (a / 2 ^ 28) (a % 2 ^ 28)
  | .job => ctxWord s a
  | .fus => fuseWord s a
  | _ => 0

/-- What a read of a page's word does besides: a bank's word is read with its parity, and a test of its region ends. -/
def indReach (s : State) (pg a : Nat) : State :=
  let i := pageInstance pg
  match pageKind pg with
  | .bnk => if a < 2 ^ 21 ∧ bankOpen s i then bankRead s (i * 2 ^ 18 + a / 8) 1 else s
  | _ => s

/-- A read of IND_DATA: the word, and the state afterwards. -/
def indRead (s : State) (pg : Nat) : Reg × State :=
  if !hasInd pg then (0, s)
  else
    let a := (getReg s (indAddrReg pg)).toNat
    let s := indReach s pg a
    (indWord s pg a, indAdvance { s with freeCount := s.freeCount + 1 } pg)

/-! ### The hold buffer (R476) -/

/-- The item that an address belongs to: a step word, a bank word. -/
def itemOf (pg a : Nat) : Nat := match pageKind pg with | .til => a / 16 | .bnk => a / 8 | _ => 0

/-- What the buffer of a page holds: 1 for "in use", the item, its parts. -/
def heldOf (s : State) (pg : Nat) : Nat × Nat × Nat × Nat := Tbl.get (0, 0, 0, 0) s.hold pg

def setHeld (s : State) (pg : Nat) (h : Nat × Nat × Nat × Nat) : State :=
  { s with hold := Tbl.set (0, 0, 0, 0) s.hold pg h }

def emptyHeld (s : State) (pg : Nat) : State := setHeld s pg (0, 0, 0, 0)

/-- The parts held of an item; none held reads as zeros. -/
def partsOf (s : State) (pg item : Nat) : Nat × Nat :=
  let h := heldOf s pg
  if h.1 = 1 ∧ h.2.1 = item then (h.2.2.1, h.2.2.2) else (0, 0)

/-- Part `j` of an item is written. -/
def holdPart (s : State) (pg item j : Nat) (v : Reg) : State :=
  let x := partsOf s pg item
  setHeld s pg (1, item, if j = 0 then v.toNat else x.1, if j = 1 then v.toNat else x.2)

/-- A write of IND_ADDR; an address in another item empties the buffer. -/
def indAddr (pg : Nat) (v : Reg) (s : State) : State :=
  if !hasInd pg then s
  else
    let s := setReg s (indAddrReg pg) v
    if (heldOf s pg).1 = 1 ∧ (heldOf s pg).2.1 ≠ itemOf pg v.toNat then emptyHeld s pg else s

def execIndAddrWrite (page : Nat) (v : Reg) (s : State) : Host.Outcome State Fault Refusal := finish (indAddr page v s)

/-! ### Writes -/

/-- A part of a step word: j = 2 commits all 72 bits, and a word of wrong parity is discarded (R82). -/
def imemPut (s : State) (pg p item j : Nat) (v : Reg) : State :=
  if j = 3 then s
  else if j < 2 then holdPart s pg item j v
  else
    let x := partsOf s pg item
    let w : StepWord := BitVec.ofNat 72 (x.1 + 2 ^ 32 * x.2 + 2 ^ 64 * (v.toNat % 256))
    let s := emptyHeld s pg
    if !evenParity w then refuse s pg
    else
      let t := tileOf s p
      uncommit (putTile s p { t with st := t.st.setItem 0 (item % 4194304) w.toNat })

/-- 32 DS slots; constants, the band window, port slots and mailboxes keep what they hold (R83). -/
def dsPut (s : State) (p i : Nat) (v : Reg) : State :=
  let t := tileOf s p
  putTile s p { t with st := { t.st with ds := (List.range 32).foldl (fun m k =>
    let slot := 32 * (i % 32) + k
    if 2 ≤ slot ∧ slot < 0x280 then Tbl.set false m (i / 32 * 1024 + slot) (v.getLsbD k) else m) t.st.ds } }

/-- Does a space of a TIL page hold a word that a write may change (R81)? -/
def tilRoom (sp i : Nat) : Bool :=
  match sp with
  | 0 => decide (i / 4 < 4194304 ∧ i % 4 ≠ 3)
  | 1 => decide (i < 4096)
  | 2 => decide (i < 65536)
  | 3 => decide (i < 1024)
  | 4 => decide (i < 32768)
  | _ => false

/-- A TIL page: retention and an active run refuse (R82, R83, R478).  What a space does not hold, and j = 3 of IMEM, is ignored
before that (R81, R475; assumption 130). -/
def tilPut (s : State) (pg p sp off : Nat) (v : Reg) : State :=
  let i := off / 4
  let t := tileOf s p
  if !tilRoom sp i then s
  else if t.retention || inRun s p then refuse s pg
  else match sp with
    | 0 => imemPut s pg p (i / 4) (i % 4) v
    | 1 => uncommit (putTile s p { t with st := t.st.setItem 1 i v.toNat })
    | 2 => tableQueues (uncommit (putTile s p { t with st := t.st.setItem 2 i v.toNat }))
    | 3 => tableQueues (uncommit (putTile s p { t with st := t.st.setItem 3 i v.toNat }))
    | _ => dsPut s p i v

/-- A bank page (R207). -/
def bnkPut (s : State) (pg b a : Nat) (v : Reg) : State :=
  if 2 ^ 21 ≤ a then s
  else if !bankOpen s b then refuse s pg
  else if a / 4 % 2 = 0 then holdPart s pg (a / 8) 0 v
  else
    let x := partsOf s pg (a / 8)
    bankStore (emptyHeld s pg) b (a / 8) (BitVec.ofNat 64 (x.1 + 2 ^ 32 * v.toNat))

/-- A LNK page: an EQ entry of a lane that is not enabled, for its next bring-up (R310). -/
def lanePut (s : State) (n a : Nat) (v : Reg) : State :=
  let r := a / 1024 % 4
  let k := a / 4 % 256
  if 4096 ≤ a ∨ 2 ≤ k ∨ (laneEn s n).testBit r then s
  else
    let i := 4 * n + r
    let w := setFld ((portOf s n).lane r).eqNext (32 * k) 32 v.toNat
    uncommit { setEq s i w with scr := { s.scr with eqCopy := Tbl.set 0 s.scr.eqCopy i w } }

/-- The RIM page: word 0 of a pin never, DELAY always (R267, R268). -/
def rimPut (s : State) (sp off : Nat) (v : Reg) : State :=
  if sp ≠ 0 ∨ 192 ≤ off / 16 then s
  else match off / 4 % 4 with
    | 0 => refuse s pRim
    | 1 => delayWrite (off / 16) v s
    | _ => s

/-- The JOB page: half a flag word of a context (R376). -/
def ctxPut (s : State) (a : Nat) (v : Reg) : State :=
  let c := a / 16
  let j := a / 4 % 4
  if 256 ≤ c ∨ 2 ≤ j then s
  else
    let s := dropFlags s c (place 64 (32 * j) 32 0xFFFFFFFF)
    let s := raiseFlags s c (place 64 (32 * j) 32 v.toNat)
    if c = s.run.ctx then eventStop s none else s

/-- What writing the word at an address does. -/
def indPut (s : State) (pg a : Nat) (v : Reg) : State :=
  let i := pageInstance pg
  match pageKind pg with
  | .til => tilPut s pg i (a / 2 ^ 28) (a % 2 ^ 28) v
  | .bnk => bnkPut s pg i a v
  | .lnk => lanePut s i a v
  | .rim => rimPut s (a / 2 ^ 28) (a % 2 ^ 28) v
  | .job => ctxPut s a v
  | _ => s

/-- A write of IND_DATA. -/
def indWrite (pg : Nat) (v : Reg) (s : State) : State :=
  if !hasInd pg then s else indAdvance (indPut s pg (getReg s (indAddrReg pg)).toNat v) pg

def execIndDataWrite (page : Nat) (v : Reg) (s : State) : Host.Outcome State Fault Refusal := finish (indWrite page v s)

end Sys2Proof.Machine
end

