-- ==== Sys2Proof/Machine/Access.lean ====
section
/-!
DEFINITION. Reads of BAR0 and BAR4 (R315, R350, R351, R371, R373, R463, R467), accesses of BAR2 (R346) and the Function Level
Reset (R344).  What a read returns stands in `bus`.
-/
namespace Sys2Proof.Machine

/-! ### Reads with an effect -/

/-- A read of MSG_DATA_LO (R371). -/
def msgPop (s : State) (f : Nat) : Reg × State :=
  let x := fifoOf s f
  match x.vis with
  | (w :: ws) :: rest =>
    (lo32 w.toNat, putFifo s f { x with vis := if ws.isEmpty then rest else ws :: rest, claimed := !ws.isEmpty, last := w })
  | _ => (lo32 x.last.toNat, orReg s (ro pMsg (0x10C + 0x20 * f)) 1)

/-- A read of EVL_DATA0 (R373). -/
def evlPop (s : State) : Reg × State :=
  match s.evl.log with
  | e :: rest => (evWord e 0, { s with evl := { log := rest, last := some e } })
  | [] => (match s.evl.last with | some e => evWord e 0 | none => 0, orReg s (ro pEvl 0x094) 1)

/-- A read of TB_LO: the high word goes to TB_HI (R315). -/
def tbRead (s : State) : Reg × State := (lo32 s.tb.toNat, setReg s (ro pTim 0x084) (hi32 s.tb.toNat))

/-- A read of CTL_RX_DATA (R308). -/
def ctlPop (s : State) (n : Nat) : Reg × State :=
  let s' := ctlRead n s
  (lo32 s'.bus.data.toNat, s')

/-- A plain read: a voted field is voted, and an RC register clears what it returned (R467, R468). -/
def plainRead (s : State) (a : Nat) : Reg × State :=
  let s := voteReg s a
  let m := rcMask a
  (regValue s a, if getReg s a &&& m = 0 then s else setReg s a (getReg s a &&& ~~~m))

/-- A read of the 4-byte register at BAR0 offset `a`. -/
def readOne (s : State) (a : Nat) : Reg × State :=
  let pg := a / 4096
  let o := a % 4096
  if o = 0x044 then indRead s pg
  else match pageKind pg with
    | .msg => if 0x100 ≤ o ∧ o < 0x300 ∧ o % 0x20 = 0 then msgPop s ((o - 0x100) / 0x20) else plainRead s a
    | .evl => if o = 0x080 then evlPop s else plainRead s a
    | .tim => if o = 0x080 then tbRead s else plainRead s a
    | .lnk => if o = 0x0B0 then ctlPop s (pageInstance pg) else plainRead s a
    | _ => plainRead s a

/-- BAR4: the doorbells read back; reserved offsets read 0 (R350, R351). -/
def doorbellRead (s : State) (x : Nat) : Reg :=
  let q := x / 0x1000
  if 8 ≤ q then 0
  else if x % 0x1000 = 0 then
    place 32 0 16 (queueOf s q).tail ||| place 32 16 2 (fld (getReg s (sqReg q 0x24)) 0 2)
  else if x % 0x1000 = 4 then place 32 0 16 (queueOf s q).cqHead
  else 0

/-- First offset of BAR4 in the offsets of RC_READ and REGISTER_WRITE. -/
def bar4 : Nat := 2 ^ 24

/-- One register of BAR0 or BAR4. -/
def readAt (s : State) (a : Nat) : Reg × State := if a < bar4 then readOne s a else (doorbellRead s (a - bar4), s)

/-- A request of BAR0 that R463 permits: 4 or 8 bytes, naturally aligned. -/
def goodAccess (off size : Nat) : Bool := decide ((size = 4 ∨ size = 8) ∧ off % size = 0)

/-- What a read returns to the host. -/
def answer (s : State) (w : Word) : State := { s with bus := { data := w, bytes := [], poisoned := false } }

/-- A read of BAR0 or BAR4: an 8-byte read takes the lower register first, a bad one returns 0 (R463); an endpoint that is not up
answers none (R464). -/
def busRead (off size : Nat) (s : State) : State :=
  if !endpointUp s then s
  else if !goodAccess off size then answer (if off < bar4 then stick s pGlb 2 else s) 0
  else
    let x := readAt s off
    if size = 4 then answer x.2 (BitVec.ofNat 64 x.1.toNat)
    else
      let y := readAt x.2 (off + 4)
      answer y.2 (BitVec.ofNat 64 (x.1.toNat + 2 ^ 32 * y.1.toNat))

def execRcRead (off size : Nat) (s : State) : Host.Outcome State Fault Refusal := finish (busRead off size s)

/-- The bytes of a read of one register, or of it and the next. -/
def width (wide : Bool) : Nat := if wide then 8 else 4

def execMsgDataLo (f : Nat) (wide : Bool) (s : State) : Host.Outcome State Fault Refusal :=
  finish (busRead (ro pMsg (0x100 + 0x20 * f)) (width wide) s)
def execEvlData0 (s : State) : Host.Outcome State Fault Refusal := finish (busRead (ro pEvl 0x080) 4 s)
def execTbLo (wide : Bool) (s : State) : Host.Outcome State Fault Refusal := finish (busRead (ro pTim 0x080) (width wide) s)
def execIndDataRead (page : Nat) (ups : List BankUpset) (s : State) : Host.Outcome State Fault Refusal :=
  finish (busRead (ro page 0x044) 4 (ups.foldl bankUpset s))

/-! ### BAR2 (R29, R346, R403, R492) -/

/-- The DRAM address of a BAR2 offset. -/
def bar2Addr (s : State) (off : Nat) : Nat := regF s (ro pPci 0x080) 0 5 * 2 ^ 36 + off

/-- An access of BAR2 abandons an entry to DOZE (R492). -/
def bar2Wake (s : State) : State := if s.pwr.entering = some 2 then wake s else s

/-- An access at or beyond the installed capacity: BAR2_RANGE. -/
def bar2Range (s : State) (off : Nat) : State := logEvent s pPci 0x0084 (lo32 (off / 16))

/-- An access of BAR2 that finds no endpoint, or must wait: for a retrain (R229), or for DRAM to leave self-refresh, for which
it wakes the device (R464, R492). -/
def bar2Held (s : State) : Option State :=
  if !endpointUp s || retraining s then some s
  else if s.pwr.state = 2 then some (wake s)
  else none

/-- A read of BAR2. -/
def bar2Get (off len : Nat) (s : State) : State :=
  match bar2Held s with
  | some t => t
  | none =>
  let s := bar2Wake s
  let a := bar2Addr s off
  if capacity s < a + len then
    { bar2Range s off with bus := { data := 0, bytes := List.replicate len 0xFF, poisoned := false } }
  else
    let bad := fetchBad s a len
    { dramFetch s a len with bus := { data := 0, bytes := if bad then [] else dramRead s a len, poisoned := bad } }

def execBar2Read (off len : Nat) (lines : List LineErr) (s : State) : Host.Outcome State Fault Refusal :=
  finish (bar2Get off len (strike s lines))

def bar2Put (off : Nat) (data : List Byte) (s : State) : State :=
  match bar2Held s with
  | some t => t
  | none =>
  let s := bar2Wake s
  let a := bar2Addr s off
  let n := data.length
  if capacity s < a + n then bar2Range s off
  else if s.run.active && hitsRegion s a n then refuse s pGlb
  else if hitsHeldSlot s a n then refuse s pCfg
  else dramWrite s a data

def execBar2Write (off : Nat) (data : List Byte) (s : State) : Host.Outcome State Fault Refusal := finish (bar2Put off data s)

/-! ### Function Level Reset (R344) -/

/-- A device abort, then, once it is decided, a reset of every submission queue. -/
def functionReset (s : State) : State :=
  let s := deviceAbort s
  { s with saiga := { s.saiga with flr := true } }

def execFunctionLevelReset (s : State) : Host.Outcome State Fault Refusal := finish (functionReset s)

end Sys2Proof.Machine
end

