-- ==== Sys2Proof/Machine/Keys.lean ====
section
/-!
DEFINITION. Keys and fuses (R388 to R390, R406, R409, R410): the BBRAM key, its zeroisation, and fuse programming.
-/
namespace Sys2Proof.Machine

def keyCtl : Nat := ro pCfg 0x0C0

/-! ### Zeroisation (R390, R406) -/

/-- Are the core supplies present?  They are from the release of PORST_N until a thermal trip turns the regulators off. -/
def coreOn (s : State) : Bool := s.hw.regulators && (decide (s.hw.boot ≠ .held) || s.hw.pwrgd)

/-- A failure of the configuration loader: its state and CFG_ERR, with every lane in electrical idle (R397, R408). -/
def cfgFail (s : State) (st code ty dev : Nat) (due : Bool) : State :=
  { lanesIdle s with cfg := { s.cfg.goTo st with
      frm := false, clearDue := due || s.cfg.clearDue
      err := place 32 0 8 code ||| place 32 8 8 ty ||| place 32 16 8 dev ||| place 32 31 1 1 } }

/-- TYPE and DEV of a failure that concerns no section: free (assumption 21). -/
def cfgFailHere (s : State) (st code : Nat) (due : Bool) : State :=
  let x := Config.errPlace code
  cfgFail s st code (fld x 0 8) (fld x 8 8) due

/-- A boot in progress with a BBRAM container ends with WRONG_KEY, but for a loader that a scan holds (R518). -/
def endBoot (s : State) : State :=
  if !s.tap.scanned ∧ 2 ≤ s.cfg.state ∧ s.cfg.state ≤ 5 ∧ 256 ≤ s.cfg.rx.length ∧ conKeySlot (bytesOf s.cfg.rx) = 1 then
    cfgFailHere s 8 0x43 true
  else s

/-- A LOAD or SWAP in progress with a BBRAM container ends with WRONG_KEY, its slot INVALID; the device abort that follows
leaves that status (R390). -/
def endKeyJob (s : State) (x : Nat) : State :=
  match jobAt s x 1 .running with
  | none => s
  | some j =>
    if conKeySlot (slotSrc s (j.par 0x31 1)) = 1 then
      modJob (spoilSlot { s with cfg := { s.cfg with swapping := none } } j 0x0E 0x43 noLoc) j.q j.seq
        (fun j => { j with aborted := true })
    else s

/-- Instruction memory, tables and DS of a tile are cleared. -/
def clearTile (s : State) (p : Nat) : State :=
  putTile s p { tileOf s p with st := { Store.reset with shadow := (tileOf s p).st.shadow, cntShadow := (tileOf s p).st.cntShadow } }

/-- Every tile and every tile-owned bank is cleared. -/
def clearArray (s : State) : State :=
  let s := (List.range 68).foldl clearTile s
  (List.range 128).foldl (fun s b =>
    if bankOwner s b < 64 then
      let s := testOff s b
      let s := putDie s (b / 32) { dieOf s (b / 32) with save := [] }
      putBank s b { bankOf s b with words := [], prev := none, dirty := [] }
    else s) s

/-- The BBRAM slot is zeroised; with core supplies, what came from its key goes with it. -/
def zeroKey (s : State) : State :=
  let s := { s with
    keys := { s.keys with bbKey := 0, bbSet := false, keyWords := [] }, trc := { s.trc with unlocked := false } }
  if !coreOn s then s
  else
    let s := endKeyJob (endKeyJob (endBoot s) 8) 9
    let s :=
      if (s.cfg.resValid || (s.cfg.hadImage && s.cfg.swapping.isSome)) && s.cfg.resBbram then
        let s := clearArray (deviceAbort s)
        { s with cfg := { s.cfg with resValid := false, hadImage := false } }
      else s
    let s := { s with cfg := { s.cfg with slots := s.cfg.slots.map (fun e =>
      if e.2.bbram ∧ e.2.st ≠ 0 then (e.1, { e.2 with st := 3 }) else e) } }
    logEvent s pCfg 0x006F 0

/-- A write of KEY_CTL (R409). -/
def keyCtlWrite (v : Reg) (s : State) : State :=
  let s := writeRW s keyCtl v
  if v.getLsbD 0 then zeroKey s else s

def execZeroise (v : Reg) (s : State) : Host.Outcome State Fault Refusal := finish (keyCtlWrite v s)

/-- TAMPER is asserted. -/
def tampered (s : State) : State := zeroKey { s with keys := { s.keys with tampered := true } }

def execTamper (s : State) : Host.Outcome State Fault Refusal := finish (tampered s)

/-- VBAT falls below its minimum while the core supplies are off: the domain that it feeds is lost. -/
def vbatLost (s : State) : State :=
  if coreOn s then s
  else let s := zeroKey s; { s with keys := { s.keys with tampered := false } }

def execVbatLoss (s : State) : Host.Outcome State Fault Refusal := finish (vbatLost s)

/-! ### KEY_WR (R388 to R390) -/

/-- A write of KEY_WR: the eighth word commits the key and clears WR_OPEN. -/
def keyWrite (v : Reg) (s : State) : State :=
  if s.keys.bbramDis || !regBit s keyCtl 1 then refuse s pCfg
  else
    let ws := s.keys.keyWords ++ [v]
    if ws.length < 8 then { s with keys := { s.keys with keyWords := ws } }
    else
      let s := setRegF s keyCtl 1 1 0
      { s with keys := { s.keys with
          keyWords := [], bbSet := true, bbKey := BitVec.ofNat 256 (leNat (ws.flatMap (fun w => leBytes 4 w.toNat))) } }

def execKeyWr (v : Reg) (s : State) : Host.Outcome State Fault Refusal := finish (keyWrite v s)

/-- Eight words were not completed within 1 ms. -/
def keyTimeout (s : State) : State := if s.keys.keyWords.isEmpty then s else zeroKey s

def execKeyWrTimeout (s : State) : Host.Outcome State Fault Refusal := finish (keyTimeout s)

/-! ### Fuses (R410) -/

/-- A write of FUSE_KEYBUF: the last eight words stand. -/
def keybufWrite (v : Reg) (s : State) : State :=
  let ws := s.keys.keyBuf ++ [v]
  { s with keys := { s.keys with keyBuf := ws.drop (ws.length - 8) } }

def execFuseKeybuf (v : Reg) (s : State) : Host.Outcome State Fault Refusal := finish (keybufWrite v s)

/-- A write of FUSE_PROG: programming begins, or the write is discarded. -/
def fuseWrite (v : Reg) (s : State) : State :=
  let c := fld v 0 4
  if fld v 16 16 ≠ 0xA5C3 ∨ ¬ (c = 1 ∨ c = 2 ∨ c = 4 ∨ c = 8) then s
  else if s.keys.prog.isSome ∨ (c = 1 ∧ (!s.hw.vaux33 || s.run.active || s.keys.fuseSet)) then refuse s pFus
  else { s with keys := { s.keys with prog := some c, progFail := false } }

def execFuseProgKey (v : Reg) (s : State) : Host.Outcome State Fault Refusal := finish (fuseWrite v s)
def execFuseBlowPlainDis (v : Reg) (s : State) : Host.Outcome State Fault Refusal := finish (fuseWrite v s)
def execFuseBlowBbramDis (v : Reg) (s : State) : Host.Outcome State Fault Refusal := finish (fuseWrite v s)
def execFuseBlowHostBootDis (v : Reg) (s : State) : Host.Outcome State Fault Refusal := finish (fuseWrite v s)

/-- 256 bits that nothing constrains, from four draws (assumption 9). -/
def freeKey (n : Nat) : BitVec 256 :=
  Config.freeWord n ++ Config.freeWord (n + 1) ++ Config.freeWord (n + 2) ++ Config.freeWord (n + 3)

/-- Programming and its verify are over; a key that does not match is not the one of FUSE_KEYBUF. -/
def fuseEnd (ok : Bool) (s : State) : State :=
  let k := s.keys
  match k.prog with
  | none => s
  | some c =>
    let buf := BitVec.ofNat 256 (leNat (k.keyBuf.flatMap (fun w => leBytes 4 w.toNat)))
    { s with
      freeCount := s.freeCount + 4
      keys := { k with
        prog := none, progFail := !ok
        fuseKey := if c = 1 then (if ok then buf else freeKey s.freeCount) else k.fuseKey
        fuseSet := k.fuseSet || decide (c = 1)
        plainDis := k.plainDis || (ok && decide (c = 2))
        bbramDis := k.bbramDis || (ok && decide (c = 4))
        hostBootDis := k.hostBootDis || (ok && decide (c = 8)) } }

def execFuseProgDone (ok : Bool) (s : State) : Host.Outcome State Fault Refusal := finish (fuseEnd ok s)

end Sys2Proof.Machine
end

