-- ==== Sys2Proof/Machine/Trace.lean ====
section
/-!
DEFINITION. Chital (15): enabling trace, draining its staged lines, marks and the unlock of protected regions.
-/
namespace Sys2Proof.Machine

/-! ### Lines (R446) -/

/-- Stream `k` writes its partial line. -/
def flushStream (s : State) (k : Nat) : State := putStream s k ((streamOf s k).endLine k)

/-- Every stream writes its partial line. -/
def flushAll (s : State) : State := (List.range 5).foldl flushStream s

def execTraceLineFlush (s : Nat) (st : State) : Host.Outcome State Fault Refusal := finish (flushStream st s)

def trcBase (s : State) : Nat := reg64 s (ro pTrc 0x088) (ro pTrc 0x08C)
def trcLen (s : State) : Nat := (getReg s (ro pTrc 0x090)).toNat

/-- The oldest completed line, if it is stream `k`'s, enters the ring at TRC_WP; a full ring takes none, and a retrain holds
the drain (R229). -/
def drainLine (k : Nat) (s : State) : State :=
  let x := streamOf s k
  if x.staged = 0 || ringFull s || s.trc.order.head? != some k || retraining s then s
  else
    let s := if k < 4 then bankRead s (x.bank * 2 ^ 18 + 8 * (x.rd % stagingLines k)) 8 else s
    let s := dramWrite s (trcBase s + s.trc.wp % trcLen s) ((stagedLine s k x.rd).flatMap wordBytes) trcStop
    { s with trc := { s.trc with
        streams := Tbl.set Stream.reset s.trc.streams k { x with rd := (x.rd + 1) % stagingLines k, staged := x.staged - 1 }
        order := s.trc.order.drop 1, wp := (s.trc.wp + 64) % trcLen s, held := s.trc.held && trcHolds s 4 } }

def execTraceStagingDrain (s : Nat) (ups : List BankUpset) (st : State) : Host.Outcome State Fault Refusal :=
  finish (drainLine s (ups.foldl bankUpset st))

/-- A write of TRC_RP. -/
def trcRp (v : Reg) (s : State) : State := writeRW s (ro pTrc 0x098) v

def execTrcRpWrite (v : Reg) (s : State) : Host.Outcome State Fault Refusal := finish (trcRp v s)

/-! ### TRC_CTL (R453 to R455, R462) -/

/-- TRC_STAGE names, for every die with used tiles, a bank of that die that CHITAL owns (R445). -/
def stageOk (s : State) : Bool :=
  (usedDies s).all (fun d =>
    let b := regF s (ro pTrc 0x09C) (8 * d) 8
    decide (b / 32 = d) && decide (bankOwner s b = 0x43))

/-- The ring overlaps something that R455 excludes. -/
def ringClash (s : State) : Bool :=
  let a := trcBase s
  let n := trcLen s
  hitsSlot s a n || hitsRegion s a n || overlap a n (acqBase s) (acqLen s) ||
    overlap a n (reg64 s (ro pAcq 0x0A8) (ro pAcq 0x0AC)) (getReg s (ro pAcq 0x0B0)).toNat ||
    overlap a n (ckptBase s) (ckptLen s)

/-- A refused enable: CFG_ERR gives the reason. -/
def trcRefuse (s : State) (reason : Nat) : State := refuse (setRegF s (ro pTrc 0x084) 8 4 reason) pTrc

/-- Trace is enabled: every stream begins with a SYNC of reason 2 (R451), a die's in the bank that TRC_STAGE names (R445). -/
def trcBegin (s : State) : State :=
  (List.range 5).foldl (fun s k => putStream s k { streamOf s k with
    bank := if k < 4 then regF s (ro pTrc 0x09C) (8 * k) 8 else 0, sync := some 2, count := 0, dropped := 0 }) s

/-- A write that sets EN: its checks in their order (R455). -/
def trcOn (v : Reg) (s : State) : State :=
  if !stageOk s then trcRefuse s 1
  else if capacity s < trcBase s + trcLen s then trcRefuse s 2
  else if ringClash s then trcRefuse s 3
  else
    let s1 := writeRW s trcCtl v
    if v.getLsbD 1 then trcBegin s1
    else
      let r := runAdmission s1 false false true none
      if r.2 = 0 then trcBegin r.1 else trcRefuse (setReg r.1 trcCtl (getReg s trcCtl)) 4

/-- A write of TRC_CTL. -/
def trcWrite (v : Reg) (s : State) : State :=
  let cur := getReg s trcCtl
  if pacedRun s && v.getLsbD 1 && !cur.getLsbD 1 then refuse s pTrc
  else if cur.getLsbD 0 then
    -- the class bits and HEAVY_MASK stand while trace is enabled
    let fixed : Reg := 0x1FF00FC
    let s1 := writeRW s trcCtl ((v &&& ~~~fixed) ||| (cur &&& fixed))
    let s2 := if (v ^^^ cur) &&& fixed ≠ 0 then refuse s1 pTrc else s1
    if v.getLsbD 0 then s2 else flushAll s2
  else if v.getLsbD 0 then trcOn v s
  else writeRW s trcCtl v

def execTrcEnable (v : Reg) (s : State) : Host.Outcome State Fault Refusal := finish (trcWrite v s)

/-- A write of TRC_MARK (R448). -/
def trcMarkWrite (v : Reg) (s : State) : State := tracePkt s 4 (curCycle s) 0x0D v.toNat []

def execTrcMark (v : Reg) (s : State) : Host.Outcome State Fault Refusal := finish (trcMarkWrite v s)

/-! ### Unlock (R459) -/

/-- A fresh nonce, for one attempt. -/
def newNonce (s : State) : State :=
  let n := Config.freeWord s.freeCount
  let s := setReg64 s (ro pTrc 0x0C8) (ro pTrc 0x0CC) n.toNat
  { s with freeCount := s.freeCount + 1, trc := { s.trc with nonceOk := true, token := [] } }

def execAuthNew (s : State) : Host.Outcome State Fault Refusal := finish (newNonce s)

def lock (s : State) : State := { s with trc := { s.trc with unlocked := false } }

def execAuthLock (s : State) : Host.Outcome State Fault Refusal := finish (lock s)

/-- The token that the device expects, from the resident image's key. -/
def wantToken (s : State) : List Byte :=
  let key := if s.cfg.resBbram then s.keys.bbKey else s.keys.fuseKey
  cmac (authKey key) (leBytes 8 (reg64 s (ro pTrc 0x0C8) (ro pTrc 0x0CC)) ++ leBytes 8 s.img.runId.toNat ++
    leBytes 8 (devIdx s))

/-- Does a key stand behind the resident image? -/
def tokenKey (s : State) : Bool :=
  s.cfg.resValid && s.cfg.resEnc && (if s.cfg.resBbram then s.keys.bbSet else s.keys.fuseSet)

/-- A write of AUTH_TOKEN: the fourth decides the attempt. -/
def tokenWrite (v : Reg) (s : State) : State :=
  if 8 ≤ s.trc.authFails then s
  else
    let ws := s.trc.token ++ [v]
    if ws.length < 4 then { s with trc := { s.trc with token := ws } }
    else
      let ok := s.trc.nonceOk && tokenKey s && (ws.flatMap (fun w => leBytes 4 w.toNat) == wantToken s)
      { s with trc := { s.trc with
          token := [], nonceOk := false, unlocked := s.trc.unlocked || ok
          authFails := if ok then s.trc.authFails else s.trc.authFails + 1 } }

def execAuthToken (v : Reg) (s : State) : Host.Outcome State Fault Refusal := finish (tokenWrite v s)

/-- A write of AUTH_CTL. -/
def authWrite (v : Reg) (s : State) : State :=
  let s := if v.getLsbD 0 then newNonce s else s
  if v.getLsbD 1 then lock s else s

end Sys2Proof.Machine
end

