-- ==== Sys2Proof/Machine/Power.lean ====
section
/-!
DEFINITION. Power states (R488 to R494), thermal limits (R495, R496), lost references (R487) and reset (R498 to R500).
-/
namespace Sys2Proof.Machine

/-! ### Why an entry is refused (R226, R490) -/

/-- Does a tile hold at GRANT: at C8, with the next cycle not granted? -/
def heldAtGrant (s : State) (p : Nat) : Bool :=
  decide ((tileOf s p).phase = .close 8) && decide (s.run.grant < (tileOf s p).cycle + 1)

/-- Is the active run a stepped run on one device that every tile holds at GRANT? -/
def runHeld (s : State) : Bool :=
  decide (runMode s = 1) && (peers s).isEmpty && (runTiles s).all (fun p => fenced s p || heldAtGrant s p)

/-- An executor runs a job other than the START of the run, or a forced retrain or recalibration is in progress. -/
def pwrBusy (s : State) : Bool :=
  s.saiga.jobs.any (fun j => j.works && decide (s.run.job ≠ some (j.q, j.seq))) || retraining s ||
    s.run.holds.any (fun h => match h with | .recal _ => true | _ => false) ||
    (List.range 24).any (fun n => decide ((portOf s n).state = 0xA))

/-- The ranges that DOZE must retain (R226): slots, the journal of a run under way, unread trace, QPORT regions. -/
def retained (s : State) : List (Nat × Nat) :=
  ((List.range (slotCount s)).filter (fun k =>
      decide ((slotOf s k).st = 2) || (s.cfg.resValid && decide (s.cfg.resSlot = k)))).map (fun k => (slotBase s k, slotSize s))
    ++ (if s.recov.active && s.run.active then [(ckptBase s, ckptLen s)] else [])
    ++ (if s.trc.wp ≠ (getReg s (ro pTrc 0x098)).toNat then [(trcBase s, trcLen s)] else [])
    ++ (if s.cfg.resValid then s.img.regions.map (fun r => (r.base, r.len)) else [])

/-- The segments of DRAM whose bit of DRAM_RETAIN is 0 (R225). -/
def droppedSegments (s : State) : List (Nat × Nat) :=
  ((List.range 8).filter (fun i => !regBit s (ddrCommon 0x084) i)).map (fun i => (i * (capacity s / 8), capacity s / 8))

/-- R226 holds: the large configuration, or nothing to retain lies in a dropped segment. -/
def retainOk (s : State) : Bool :=
  !s.dram.lpddr || (retained s).all (fun r => (droppedSegments s).all (fun g => !overlap r.1 r.2 g.1 g.2))

/-- The REASON with which entry to a state is refused, or 0 (R490). -/
def entryReason (s : State) (t : Nat) : Nat :=
  if s.run.active && !runHeld s then 1
  else if mkhArmed s then 2
  else if pwrBusy s then 3
  else if t = 2 ∧ !retainOk s then 4
  else if s.pwr.entering.isSome ∨ s.pwr.exiting ∨ s.pwr.state = t then 6
  else 0

/-! ### Entry and exit (R456, R489, R491 to R493) -/

/-- Chital writes a POWER packet in every stream, and every stream is flushed. -/
def powerPackets (s : State) (t : Nat) : State :=
  flushAll ((List.range 5).foldl (fun s k => tracePkt s k (curCycle s) 8 t []) s)

/-- A request for IDLE or DOZE; a thermal trip prevails over it (R494). -/
def enterPower (s : State) (t : Nat) : State :=
  if s.hw.thermtrip then s
  else if s.pwr.state = 2 ∧ t = 1 then { s with pwr := { s.pwr with exiting := true, thenIdle := true } }
  else
    let r := entryReason s t
    if r ≠ 0 then stick { s with pwr := { s.pwr with reason := r } } pPwr 2
    else
      let s := powerPackets { s with pwr := { s.pwr with entering := some t, reason := 0 } } t
      (List.range 24).foldl powerIdle s

def setTarget (s : State) (t : Nat) : State := setRegF s (ro pPwr 0x100) 0 2 t

/-- A request for RUN, which is a wake event; what it abandons sets REASON itself. -/
def requestRun (s : State) : State := wake { s with pwr := { s.pwr with reason := 0 } }

def pwrRun (s : State) : State := requestRun (setTarget s 0)
def pwrIdle (s : State) : State := enterPower (setTarget s 1) 1
def pwrDoze (s : State) : State := enterPower (setTarget s 2) 2

def execPwrReqRun (s : State) : Host.Outcome State Fault Refusal := finish (pwrRun s)
def execPwrReqIdle (s : State) : Host.Outcome State Fault Refusal := finish (pwrIdle s)
def execPwrReqDoze (s : State) : Host.Outcome State Fault Refusal := finish (pwrDoze s)

/-- The write buffers empty into the memory devices, oldest line first. -/
def drainBuffers (s : State) : State :=
  (List.range 8).foldl (fun s ch => (List.range (chanOf s ch).wbuf.length).foldl (fun s _ => drainOne s ch 0) s) s

/-- Every die's STEPCLK is gated; it will resume at the clock it had, or was being retuned to. -/
def gateClocks (s : State) : State :=
  (List.range 4).foldl (fun s d =>
    if stepClk s d = 0 then s
    else setReg (putDie s d { dieOf s d with pllTarget := some (clkGoal s d) }) (clkReg d) 0) s

/-- The STEPCLKs that an entry gated run again, no faster than their ceilings; one that start-up has not locked, or that a lost
REFCLK holds gated, does not (R487, R500). -/
def ungateClocks (s : State) : State :=
  (List.range 4).foldl (fun s d =>
    match (dieOf s d).pllTarget with
    | some f =>
      if stepClk s d ≠ 0 ∨ s.hw.refLost then s
      else setReg (putDie s d { dieOf s d with pllTarget := none }) (clkReg d) (BitVec.ofNat 32 (min f (clkCeil s d)))
    | none => s) s

/-- What DOZE adds (R152, R225, R259, R488): a rim capture fails with its clock, tiles at retention voltage, DRAM in
self-refresh, L1. -/
def enterDoze (s : State) : State :=
  let run := s.rim.clkRun
  let held := holdPins s
  let s := stopClocks s 0xFF
  let s := (List.range 68).foldl (fun s p => putTile s p (tileOf s p).rest)
    { s with rim := { (if regBit s rimCtl 2 then { s.rim with held := held } else s.rim.dozeSafe) with clkRun := run } }
  let s := modChans (drainBuffers s) (fun c => { c with selfRefresh := true })
  let s := if s.dram.lpddr then
      { s with dram := (droppedSegments s).foldl (fun m g => m.lose g.1 (g.1 + g.2)) s.dram }
    else s
  { s with hw := { s.hw with l1 := true } }

/-- Has every port entered electrical idle? -/
def portsIdle (s : State) : Bool := (List.range 24).all (fun n => decide ((portOf s n).drive = 0))

/-- The entry completes once Chital's flush and the ports have; bring-up that began meanwhile goes to electrical idle too. -/
def entryDone (s : State) : State :=
  match s.pwr.entering with
  | none => s
  | some t =>
    let s := (List.range 24).foldl powerIdle s
    if !nothingStaged s || !portsIdle s then s
    else
      let s := gateClocks { s with pwr := { s.pwr with entering := none, state := t } }
      if t = 2 then enterDoze s else s

def execPowerEntryDone (s : State) : Host.Outcome State Fault Refusal := finish (entryDone s)

/-- What leaving DOZE undoes: the image's tiles at operating voltage, DRAM active, delay lines calibrated, L0. -/
def leaveDoze (s : State) : State :=
  let s := if s.cfg.resValid || s.run.active then (runTiles s).foldl (fun s p =>
      if fenced s p then s else putTile s p ((tileOf s p).rise (opMv s p))) s else s
  let s := modChans s (fun c => { c with selfRefresh := false })
  { s with hw := { s.hw with l1 := false }, rim := { s.rim with calibrated := true } }

/-- Every stream begins with a SYNC of reason 1 (R456). -/
def syncStreams (s : State) : State :=
  (List.range 5).foldl (fun s k => putStream s k { streamOf s k with sync := some 1 }) s

/-- Every part of the exit is complete; a request for IDLE made in DOZE is taken up (R489). -/
def exitDone (s : State) : State :=
  if !s.pwr.exiting || s.hw.thermtrip then s
  else
    let again := s.pwr.thenIdle
    let s := if s.pwr.state = 2 then leaveDoze s else s
    let s := syncStreams (portsAwake (ungateClocks { s with pwr := { s.pwr with state := 0, exiting := false, thenIdle := false } }))
    if again then enterPower s 1 else s

def execPowerExitDone (s : State) : Host.Outcome State Fault Refusal := finish (exitDone s)

def toD3 (s : State) : State := enterPower { s with hw := { s.hw with d3hot := true } } 2
def toD0 (s : State) : State := requestRun { s with hw := { s.hw with d3hot := false } }

def execD3hotEntry (s : State) : Host.Outcome State Fault Refusal := finish (toD3 s)
def execD0Entry (s : State) : Host.Outcome State Fault Refusal := finish (toD0 s)

/-! ### Thermal limits (R495, R496) -/

def tjReg (j : Nat) : Nat := ro pPwr (0x120 + 4 * j)

/-- TJ_WARN in °C. -/
def tjWarn (s : State) : Nat := regF s (ro pPwr 0x140) 0 8

/-- A sensor's temperature, in units of 0.125 °C. -/
def tjNow (s : State) (j : Nat) : Int := signed 16 (regF s (tjReg j) 0 16)

def setTj (s : State) (j : Nat) (t : BitVec 16) : State := setReg s (tjReg j) (BitVec.ofNat 32 t.toNat)

/-- With one of these sensors at TJ_WARN or more the device is hot. -/
def heat (s : State) (js : List Nat) : State :=
  if js.any (fun j => decide (8 * (tjWarn s : Int) ≤ tjNow s j)) then stick { s with pwr := { s.pwr with hot := true } } pPwr 3 else s

/-- A sensor reads `t`. -/
def tempReading (j : Nat) (t : BitVec 16) (s : State) : State := if 5 ≤ j then s else heat (setTj s j t) [j]

def execThermWarn (j : Nat) (t : BitVec 16) (s : State) : Host.Outcome State Fault Refusal := finish (tempReading j t s)

/-- Every sensor has stayed 5 °C below TJ_WARN for 100 ms. -/
def coolDown (s : State) : State :=
  if (List.range 5).all (fun j => decide (tjNow s j < 8 * ((tjWarn s : Int) - 5))) then
    { s with pwr := { s.pwr with hot := false } }
  else s

def execThermalRestore (s : State) : Host.Outcome State Fault Refusal := finish (coolDown s)

def rstCause : Nat := ro pPwr 0x10C

/-- A sensor reads 110 °C or more: the thermal trip, which ends every transition (R494). -/
def trip (j : Nat) (t : BitVec 16) (s : State) : State :=
  if 5 ≤ j ∨ t.toInt < 880 ∨ s.hw.thermtrip then s
  else
    let s := lanesIdle (deviceAbort (heat (setTj s j t) [j]))
    setReg { s with
      pwr := { s.pwr with entering := none, exiting := false, thenIdle := false }
      hw := { s.hw with thermtrip := true, regulators := false, pwrgd := false } } rstCause 4

def execThermtrip (j : Nat) (t : BitVec 16) (s : State) : Host.Outcome State Fault Refusal := finish (trip j t s)

/-! ### References (R487) -/

/-- A port goes down, whatever state it is in; a DISABLED port has nothing to lose. -/
def dropPort (s : State) (n : Nat) : State :=
  let x := portOf s n
  if 7 ≤ x.state then portDown s n else if 2 ≤ x.state then putPort s n { x with state := 1, ended := false } else s

/-- REFCLK is lost: device abort, STEPCLK gated, every port down. -/
def refGone (s : State) : State :=
  if s.hw.refLost then s
  else
    let s := deviceAbort { s with hw := { s.hw with refclk := false, refLost := true } }
    let s := (List.range 4).foldl (fun s d => setReg (putDie s d { dieOf s d with pllTarget := none }) (clkReg d) 0) s
    (List.range 24).foldl dropPort s

def execRefLoss (s : State) : Host.Outcome State Fault Refusal := finish (refGone s)

/-- A LANE_REFCLK is lost: the ports it serves go down. -/
def laneRefGone (k : Nat) (s : State) : State :=
  if 4 ≤ k ∨ !s.hw.laneRef.getLsbD k then s
  else
    let s := { s with hw := { s.hw with laneRef := s.hw.laneRef &&& ~~~(place 4 k 1 1) } }
    ((List.range 24).filter (fun n => refOf n == k)).foldl dropPort s

def execLaneRefclkLoss (k : Nat) (s : State) : Host.Outcome State Fault Refusal := finish (laneRefGone k s)

/-- The input is back; its ports resume at SIGNAL. -/
def laneRefBack (k : Nat) (s : State) : State :=
  if 4 ≤ k then s else { s with hw := { s.hw with laneRef := s.hw.laneRef ||| place 4 k 1 1 } }

def execLaneRefclkReturn (k : Nat) (s : State) : Host.Outcome State Fault Refusal := finish (laneRefBack k s)

/-- The endpoint behaves as the standard defines; runs and jobs go on. -/
def pcieRefGone (s : State) : State := { s with hw := { s.hw with pcieRef := false } }

def execPcieRefclkLoss (s : State) : Host.Outcome State Fault Refusal := finish (pcieRefGone s)

/-! ### Reset (R498) -/

/-- DRAM after a reset: lost, or kept in self-refresh with every accepted write (R212, R498); not trained. -/
def resetDram (s : State) (warm : Bool) : Dram :=
  let m := { Dram.reset with losses := s.dram.losses, rfm := s.dram.rfm }
  if warm then
    let k := { m with bad := s.dram.bad, bytes := s.dram.bytes, lost := s.dram.lost, rewritten := s.dram.rewritten }
    let k := (List.range 8).foldl (fun k ch => (chanOf s ch).wbuf.foldl writeBack k) k
    { k with chans := tblOf Chan.reset ((List.range 8).map (fun ch => (ch, { Chan.reset with selfRefresh := true }))) }
  else m.lose 0 (2 ^ 41)

/-- Staged content of a load outlasts a reset; the next load clears it (R398). -/
def keepStaged (s r : State) : State :=
  if s.cfg.staged then
    { r with
      cfg := { r.cfg with staged := true }
      rim := { r.rim with frames := s.rim.frames }
      banks := tblOf Bank.reset (s.banks.map (fun e => (e.1, { Bank.reset with words := e.2.words })))
      ports := tblOf Port.reset (s.ports.map (fun e => (e.1, { Port.reset with
        lanes := tblOf Lane.reset (e.2.lanes.map (fun l => (l.1, { Lane.reset with eq := l.2.eq, eqNext := l.2.eqNext, eqBad := l.2.eqBad }))) }))) }
  else r

/-- Everything is reset but the VBAT domain, the fuses, what stands outside the device, and in a warm reset the timebase,
the PLLs and DRAM; `cause` goes to RST_CAUSE. -/
def resetDevice (s : State) (warm : Bool) (cause : Nat) : State :=
  let z := State.reset
  let k := s.keys
  let r : State := { z with
    hw := { z.hw with store := s.hw.store, stepping := s.hw.stepping, straps := s.hw.straps, vaux33 := s.hw.vaux33, vio := s.hw.vio, trst := s.hw.trst
                      porst := !warm || s.hw.porst, laneRef := s.hw.laneRef, pcieRef := s.hw.pcieRef, pwrgd := warm && s.hw.pwrgd }
    tap := { z.tap with idcode := s.tap.idcode }
    tb := if warm then s.tb else 0
    dram := resetDram s warm
    keys := { z.keys with fuseKey := k.fuseKey, fuseSet := k.fuseSet, plainDis := k.plainDis, bbramDis := k.bbramDis
                          hostBootDis := k.hostBootDis, devId := k.devId, bin := k.bin, vf := k.vf, bbKey := k.bbKey
                          bbSet := k.bbSet, tampered := k.tampered }
    host := s.host, freeCount := s.freeCount, pending := s.pending }
  setReg (keepStaged s r) rstCause (BitVec.ofNat 32 cause)

def porst (s : State) : State := resetDevice s false 1

/-- A warm reset by the pin; after a thermal trip, and while PORST_N holds the device, only PORST_N acts. -/
def sysrst (s : State) : State := if s.hw.thermtrip ∨ s.hw.porst then s else resetDevice s true 2

/-- A warm reset by RST_CTL, which a device held in reset does not take: no pin is released, so the straps stand, start-up goes
on from where its PLLs are, and a boundary scan still holds the loader in its state (R518). -/
def softRst (v : Reg) (s : State) : State :=
  if fld v 16 16 = 0x5A5A ∧ v.getLsbD 0 ∧ !s.hw.thermtrip ∧ s.hw.boot ≠ .held then
    let r := resetDevice s true 3
    let r := { r with hw := { r.hw with boot := if s.hw.boot = .released then .released else .locked } }
    if s.tap.scanned then
      { r with hw := { r.hw with boot := s.hw.boot }, cfg := r.cfg.goTo s.cfg.state, tap := { r.tap with scanned := true } }
    else r
  else s

def execPorstN (s : State) : Host.Outcome State Fault Refusal := finish (porst s)
def execSysrstN (s : State) : Host.Outcome State Fault Refusal := finish (sysrst s)
def execRstCtlSoft (v : Reg) (s : State) : Host.Outcome State Fault Refusal := finish (softRst v s)

/-- The endpoint's reset: the PCI page and a Function Level Reset. -/
def perst (s : State) : State :=
  let s := functionReset s
  { s with regs := s.regs.filter (fun e => decide (e.1 / 4096 ≠ pPci)), saiga := { s.saiga with msixPend := 0 } }

def execPerstN (s : State) : Host.Outcome State Fault Refusal := finish (perst s)

/-! ### Start-up (R500) -/

/-- PORST_N or SYSRST_N is released: the straps are sampled, the timebase starts, RST_CAUSE is set. -/
def releaseReset (pins : BitVec 8) (s : State) : State :=
  if s.hw.boot ≠ .held then s
  else
    let s := { s with
      hw := { s.hw with straps := pins, porst := false, boot := if s.hw.pwrgd then .locked else .released }
      tb := if s.hw.porst then 0 else s.tb }
    if regF s rstCause 0 3 = 0 then setReg s rstCause 1 else s

def execResetRelease (pins : BitVec 8) (s : State) : Host.Outcome State Fault Refusal := finish (releaseReset pins s)

/-- HUBCLK, timebase and BOOTCLK PLLs are locked; PWRGD is released. -/
def pllsLocked (s : State) : State :=
  if s.hw.boot = .released ∧ s.hw.regulators then { s with hw := { s.hw with boot := .locked, pwrgd := true } } else s

def execStartupPllLock (s : State) : Host.Outcome State Fault Refusal := finish (pllsLocked s)

/-- The loader enters WAIT_SRC and releases BOOT_RDY; a device that has been scanned waits for its reset (R518). -/
def waitSrc (s : State) : State :=
  if s.hw.boot = .locked ∧ s.cfg.state = 0 ∧ !s.tap.scanned then
    { s with hw := { s.hw with boot := .up }, cfg := s.cfg.goTo 1 }
  else s

def execLoaderWaitSrc (s : State) : Host.Outcome State Fault Refusal := finish (waitSrc s)

end Sys2Proof.Machine
end

