-- ==== Sys2Proof/Machine/Boot.lean ====
section
/-!
DEFINITION. The configuration loader up to the end of BODY (13: R391 to R395, R397, R398): sources, header checks, staging,
loads that end early, and the clearing of staged content.
-/
namespace Sys2Proof.Machine

/-! ### Sources (R391, R392) -/

def bootMaster (s : State) : Bool := s.hw.straps.getLsbD 6

/-- Does the device take its container from the boot bus or its own boot store? -/
def busSource (s : State) : Bool := !srcHost s

/-- Staged content is cleared: banks, lane equalisation, and the rim's cells, which show the last configuration loaded again
(R398). -/
def clearStaged (s : State) : State :=
  if !s.cfg.staged then { s with cfg := { s.cfg with clearDue := false } }
  else
    let s := (List.range 128).foldl (fun s b => putBank s b { bankOf s b with words := [] }) s
    let s := (List.range 24).foldl (fun s n => modPort s n (fun x => { x with
      lanes := (List.range 4).foldl (fun m r => Tbl.upd Lane.reset m r (fun l => { l with eqNext := 0 })) x.lanes })) s
    { s with scr := { s.scr with eqCopy := [] }, rim := { s.rim with frames := s.rim.store }
             cfg := { s.cfg with staged := false, clearDue := false } }

/-- A load begins: what an earlier one staged is cleared before the first byte is taken. -/
def startLoad (s : State) (data : List Byte) : State :=
  let s := clearStaged s
  { s with cfg := { s.cfg.goTo 2 with rx := data } }

/-- The bytes of the boot store: 2 Gbit (R11). -/
def storeBytes (s : State) : Bytes := fun i => if i < 268435456 then Tbl.get 0 s.hw.store i else 0

/-- What the master reads from its boot store: the container, up to TOTAL_LEN, and its header in any case (R392). -/
def storeStream (s : State) : List Byte := slice (storeBytes s) 0 (min 268435456 (max 256 (conTotal (storeBytes s))))

/-- The master puts bytes on the boot bus, the whole container whatever its own checks found (R392). -/
def drive (s : State) (data : List Byte) : State :=
  if !s.cfg.driving then s
  else
    let all := s.cfg.driven ++ data
    let total := if all.length < 256 then 268435456 else conTotal (bytesOf all)
    { s with cfg := { s.cfg with driven := all.take total, driving := decide (all.length < total) } }

/-- Bytes arrive; those beyond TOTAL_LEN belong to no container. -/
def takeBytes (s : State) (data : List Byte) : State :=
  if data.isEmpty ∨ s.tap.scanned then s
  else if s.cfg.state = 1 then startLoad s data
  else if 2 ≤ s.cfg.state ∧ s.cfg.state ≤ 3 then
    let all := s.cfg.rx ++ data
    { s with cfg := { s.cfg with rx := if s.cfg.state = 3 then all.take (conTotal (bytesOf s.cfg.rx)) else all } }
  else s

/-- The master asserts BOOT_FRM and the container is on the bus: a master's own boot store gives it, another device's bytes are
`data`; a device that takes its bytes from BOOT_DATA ignores the bus. -/
def busStart (data : List Byte) (s : State) : State :=
  if s.cfg.state ≠ 1 ∨ s.tap.scanned ∨ !busSource s then s
  else if bootMaster s then
    let bs := storeStream s
    takeBytes (drive { s with cfg := { s.cfg with driving := true, driven := [] } } bs) bs
  else takeBytes { s with cfg := { s.cfg with frm := true } } data

def execBootBusStart (data : List Byte) (s : State) : Host.Outcome State Fault Refusal := finish (busStart data s)

/-- A write of BOOT_DATA; a master drives the bus with the same bytes. -/
def hostData (data : List Byte) (s : State) : State :=
  if !srcHost s then s
  else
    let s := if s.cfg.state = 1 ∧ !s.cfg.driving then
        { s with cfg := { s.cfg with driving := bootMaster s, driven := [] } } else s
    takeBytes (drive s data) data

def execBootData (data : List Byte) (s : State) : Host.Outcome State Fault Refusal := finish (hostData data s)

/-! ### HEADER (R394) -/

/-- The whole header has arrived: its checks lead to BODY or to a failure. -/
def headerIn (s : State) : State :=
  if s.cfg.state ≠ 2 ∨ s.cfg.rx.length < 256 ∨ s.tap.scanned then s
  else
    let g := bytesOf s.cfg.rx
    match headerCheck s g 1 (bootMaster s && busSource s) with
    | none => { s with cfg := { s.cfg.goTo 3 with rx := s.cfg.rx.take (conTotal g) } }
    | some code =>
      if code = 0x41 ∨ code = 0x42 ∨ code = 0x43 then cfgFailHere s 8 code (decide (code = 0x43))
      else cfgFailHere s 10 code true

def execHeaderReceived (s : State) : Host.Outcome State Fault Refusal := finish (headerIn s)

/-! ### BODY (R395) -/

/-- Sections of the container whose last byte has arrived: type, offset, length. -/
def arrivedSects (s : State) : List (Nat × Nat × Nat) :=
  let g := bytesOf s.cfg.rx
  ((List.range (conSects g)).map (conSect g)).filter (fun e => decide (e.2.1 + e.2.2 ≤ s.cfg.rx.length))

/-- The plaintext of the container so far. -/
def rxPlain (s : State) : Bytes :=
  let g := bytesOf s.cfg.rx
  let ks := conKeySlot g
  if ks = 0xFF then g
  else
    let body := gcmCrypt (slotKey s ks) (slice g 0x18 12) ((s.cfg.rx.drop 0x100).take (conTotal g - 0x140))
    bytesOf (s.cfg.rx.take 0x100 ++ body)

/-- The code with which an arrived section fails. -/
def sectFails (s : State) (g : Bytes) (e : Nat × Nat × Nat) : Option Nat :=
  match subFor g (devIdx s) e.2 with
  | .broken => some 0x49
  | .absent => if e.1 = 1 ∨ e.1 = 3 ∨ e.1 = 4 then some 0x49 else none
  | .at _ n => if (e.1 = 5 ∧ 268435456 < n) ∨ (e.1 = 1 ∧ 65536 < n) then some 0x4C else none

/-- The first arrived section that fails: its type and code. -/
def badSect (s : State) (g : Bytes) : Option (Nat × Nat) :=
  (arrivedSects s).findSome? (fun e => (sectFails s g e).map (fun c => (e.1, c)))

/-- EQ goes to the lane configuration and the hub's copy of the table. -/
def stageEq (s : State) (g : Bytes) (off : Nat) : State :=
  (List.range 96).foldl (fun s i =>
    let w := BitVec.ofNat 64 (rd g (off + 8 * i) 8)
    let s := setEq s i w
    { s with scr := { s.scr with eqCopy := Tbl.set 0 s.scr.eqCopy i w } }) s

/-- IMAGE goes to the banks, from bank 0 word 0 on. -/
def stageImage (s : State) (g : Bytes) (off n : Nat) : State :=
  (List.range ((n + 2097151) / 2097152)).foldl (fun s b =>
    let ws := (List.range 262144).map (fun i =>
      let a := 2097152 * b + 8 * i
      (i, BitVec.ofNat 64 (leNat ((List.range 8).map (fun k => if a + k < n then g (off + a + k) else 0)))))
    putBank s b { bankOf s b with words := tblOf 0 (ws.map (fun e => (e.1, withParity e.2))) }) s

/-- The content of an arrived section goes to its place; RIM goes into the
rim's cells, which stay HELD (R395); SHELL, FWPATCH and DRAMCFG wait where nothing reads them. -/
def stageSect (g : Bytes) (s : State) (e : Nat × Nat × Nat) : State :=
  match subFor g (devIdx s) e.2 with
  | .at off n =>
    if e.1 = 3 then stageEq s g off
    else if e.1 = 5 then stageImage s g off n
    else if e.1 = 6 then { s with rim := { s.rim with frames := slice (fun i => g (off + i)) 0 n } }
    else s
  | _ => s

/-- Arrived sections are checked and staged; with the whole container here, VERIFY begins. -/
def stage (s : State) : State :=
  if s.cfg.state ≠ 3 ∨ s.tap.scanned then s
  else
    let g := rxPlain s
    match badSect s g with
    | some (ty, code) => cfgFail s 10 code ty (devIdx s) true
    | none =>
      let s := (arrivedSects s).foldl (stageSect g) { s with cfg := { s.cfg with staged := true } }
      if conTotal g ≤ s.cfg.rx.length then { s with cfg := { s.cfg.goTo 4 with frm := false } } else s

def execSectionStage (s : State) : Host.Outcome State Fault Refusal := finish (stage s)

/-! ### Ends (R397, R398) -/

/-- The load ends before TOTAL_LEN: CONFIG_INCOMPLETE. -/
def endsEarly (s : State) : State :=
  if !s.tap.scanned ∧ 2 ≤ s.cfg.state ∧ s.cfg.state ≤ 3 ∧ (s.cfg.rx.length < 256 ∨ s.cfg.rx.length < conTotal (bytesOf s.cfg.rx)) then
    cfgFailHere s 9 0x45 false
  else s

/-- The master drops BOOT_FRM. -/
def frmDrop (s : State) : State :=
  if !busSource s then s else let s := endsEarly s; { s with cfg := { s.cfg with frm := false, driving := false } }

def execBootFrmDrop (s : State) : Host.Outcome State Fault Refusal := finish (frmDrop s)

/-- One second without a write of BOOT_DATA: the load ends, and a master drops BOOT_FRM. -/
def dataTimeout (s : State) : State :=
  if srcHost s then let s := endsEarly s; { s with cfg := { s.cfg with driving := false } } else s

def execBootDataTimeout (s : State) : Host.Outcome State Fault Refusal := finish (dataTimeout s)

/-- The clearing that a failure made due is done. -/
def clearDone (s : State) : State := if s.cfg.clearDue then clearStaged s else s

def execStagedClear (s : State) : Host.Outcome State Fault Refusal := finish (clearDone s)

/-- A write of CFG_CTL: RELOAD leaves the failed states for WAIT_SRC. -/
def reloadWrite (v : Reg) (s : State) : State :=
  if v.getLsbD 0 ∧ 8 ≤ s.cfg.state ∧ s.cfg.state ≤ 11 ∧ !s.tap.scanned then
    { s with cfg := { s.cfg.goTo 1 with frm := false, driving := false } }
  else s

def execReload (v : Reg) (s : State) : Host.Outcome State Fault Refusal := finish (reloadWrite v s)

end Sys2Proof.Machine
end

