-- ==== Sys2Proof/Machine/Registers.lean ====
section
/-!
DEFINITION. Register writes: the rows that are one write, and REGISTER_WRITE, which gives every register of BAR0 and BAR4 the
effect its chapter states (R463 to R470 and the register tables).
-/
namespace Sys2Proof.Machine

/-! ### Rows of one register -/

/-- DROP_PKT discards the unread words of the claimed packet; MSG_CTL keeps its threshold (R371, R379). -/
def msgDrop (f : Nat) (s : State) : State :=
  let x := fifoOf s f
  if x.claimed then putFifo s f { x with vis := x.vis.drop 1, claimed := false } else s

/-- CLR empties the visible packets and clears what was lost and the last-word latch (R371). -/
def msgEmpty (f : Nat) (s : State) : State :=
  let g := 0x20 * f
  let s := putFifo s f { fifoOf s f with vis := [], claimed := false, last := 0 }
  setReg (setReg (setReg s (ro pMsg (0x10C + g)) 0) (ro pMsg (0x110 + g)) 0) (ro pMsg (0x114 + g)) 0

def execDropPkt (f : Nat) (s : State) : Host.Outcome State Fault Refusal := finish (msgDrop f s)
def execMsgClr (f : Nat) (s : State) : Host.Outcome State Fault Refusal := finish (msgEmpty f s)

/-- A write of MSG_CTL. -/
def msgCtlWrite (f : Nat) (v : Reg) (s : State) : State :=
  let s := writeRW s (ro pMsg (0x118 + 0x20 * f)) v
  let s := if v.getLsbD 0 then msgDrop f s else s
  if v.getLsbD 1 then msgEmpty f s else s

/-- CLR empties the event log (R380). -/
def logEmpty (s : State) : State :=
  setReg (setReg { s with evl := { log := [], last := none } } (ro pEvl 0x094) 0) (ro pEvl 0x098) 0

def execEvlClr (s : State) : Host.Outcome State Fault Refusal := finish (logEmpty s)

/-- CLR_STICKY clears the page's sticky bits, BLK_IRQ and BLK_ERR (R470). -/
def stickyClear (pg : Nat) (s : State) : State :=
  setReg (setReg (setReg s (ro pg 0x014) 0) (ro pg 0x024) 0) (ro pg 0x030) 0

def execClrSticky (page : Nat) (s : State) : Host.Outcome State Fault Refusal := finish (stickyClear page s)

/-- A TILE_MAP write: only PHYS is software's, and EPOCH advances with it (R118, R420). -/
def mapWrite (i : Nat) (v : Reg) (s : State) : State :=
  let k := fld v 0 5
  let d := i / 16
  let taken := ((List.range 16).map (16 * d + ·)).any (fun j => j != i && physOf s j == 17 * d + k)
  if 64 ≤ i then s
  else if s.run.active || decide (17 ≤ k) || fenced s (17 * d + k) || taken then refuse s pGlb
  else if k = regF s (mapReg i) 0 5 then s
  else
    let old := physOf s i
    remap (putTile s old (tileOf s old).rest) i k

def execTileMapWrite (i : Nat) (v : Reg) (s : State) : Host.Outcome State Fault Refusal := finish (mapWrite i v s)

/-- A FENCE write, judged whole (R420). -/
def fenceWriteTo (d : Nat) (v : Reg) (s : State) : State :=
  let cur := getReg s (fenceReg d)
  let cleared := (List.range 17).filter (fun k => cur.getLsbD k && !v.getLsbD k)
  let added := (List.range 17).filter (fun k => !cur.getLsbD k && v.getLsbD k)
  if 4 ≤ d then s
  else if s.run.active || cleared.any (fun k =>
      !(tileOf s (17 * d + k)).testOk || !(tileOf s (17 * d + k)).testFenced) then refuse s pGlb
  else
    let s := setReg s (fenceReg d) (v &&& 0x1FFFF)
    let s := added.foldl (fun s k => putTile s (17 * d + k) { (tileOf s (17 * d + k)).rest with testOk := false, testFenced := false }) s
    let s := cleared.foldl (fun s k => putTile s (17 * d + k) { tileOf s (17 * d + k) with dead := false }) s
    cleared.foldl (fun s k => logEvent s pGlb 0x006E (place 32 0 2 d ||| place 32 2 5 k)) s

def execFenceWrite (d : Nat) (v : Reg) (s : State) : Host.Outcome State Fault Refusal := finish (fenceWriteTo d v s)

/-- A write that a run discards (R16, R29). -/
def unlessRun (a : Nat) (v : Reg) (s : State) : State :=
  if s.run.active then refuse s (a / 4096) else writeRW s a v

/-- A LINK_MAP write (R107). -/
def linkMapSet (dev : Nat) (v : Reg) (s : State) : State :=
  if 16 ≤ dev then s else unlessRun (ro pGlb (0x340 + 4 * dev)) v s

def execLinkMapWrite (dev : Nat) (v : Reg) (s : State) : Host.Outcome State Fault Refusal := finish (linkMapSet dev v s)

/-! ### Pages -/

/-- A value put between two limits. -/
def clampTo (lo hi w : Nat) : Reg := BitVec.ofNat 32 (max lo (min hi w))

/-- GLB (R53 to R55, R117, R438). -/
def glbPut (o : Nat) (v : Reg) (s : State) : State :=
  let a := ro pGlb o
  if o = 0x100 then (if s.run.active || decide (fld v 0 2 = 3) then refuse s pGlb else writeRW s a v)
  else if o = 0x120 then (if 2 ≤ fld v 0 2 then refuse s pGlb else writeRW s a v)
  else if o = 0x124 then setReg s a (BitVec.ofNat 32 (max 16 v.toNat))
  else if o = 0x130 then setReg s a (BitVec.ofNat 32 (max 1024 v.toNat))
  else if o = 0x140 then admWrite v none s
  else if 0x200 ≤ o ∧ o < 0x300 then mapWrite ((o - 0x200) / 4) v s
  else if 0x300 ≤ o ∧ o < 0x310 then fenceWriteTo ((o - 0x300) / 4) v s
  else if 0x340 ≤ o ∧ o < 0x380 then linkMapSet ((o - 0x340) / 4) v s
  else if o = 0x400 then recovWrite v s
  else if o = 0x404 ∨ o = 0x408 ∨ o = 0x40C ∨ o = 0x410 ∨ o = 0x420 ∨ o = 0x424 then unlessRun a v s
  else writeRW s a v

/-- JOB (R376 to R378). -/
def jobPut (o : Nat) (v : Reg) (s : State) : State :=
  let a := ro pJob o
  if o = 0x080 then abortWrite v s
  else if o = 0x088 then flagSetWrite v s
  else if o = 0x08C then flagClrWrite v s
  else if 0x100 ≤ o ∧ o < 0x300 then
    let q := (o - 0x100) / 0x40
    let r := o % 0x40
    if r = 0 then sqCtlWrite q v s
    else if 4 ≤ r ∧ r ≤ 0x10 then (if sqEn s q then refuse s pJob else writeRW s a v)
    else s
  else s

/-- CFG (R403, R408, R409). -/
def cfgPut (o : Nat) (v : Reg) (s : State) : State :=
  if o = 0x088 then reloadWrite v s
  else if o = 0x090 then hostData (leBytes 4 v.toNat) s
  else if o = 0x0A0 ∨ o = 0x0A4 ∨ o = 0x0A8 then
    (if s.cfg.slots.any (fun e => decide (e.2.st = 1 ∨ e.2.st = 2)) then refuse s pCfg else writeRW s (ro pCfg o) v)
  else if o = 0x0C0 then keyCtlWrite v s
  else if o = 0x0C8 then keyWrite v s
  else s

/-- A write of PWR_REQ; a reserved target is no permitted transition (R489, R490). -/
def pwrReqWrite (v : Reg) (s : State) : State :=
  match fld v 0 2 with
  | 0 => pwrRun s
  | 1 => pwrIdle s
  | 2 => pwrDoze s
  | _ => stick { setTarget s 3 with pwr := { s.pwr with reason := 6 } } pPwr 2

/-- A write of TJ_WARN, with which the temperatures already read are compared too. -/
def tjWarnWrite (v : Reg) (s : State) : State := heat (setReg s (ro pPwr 0x140) (clampTo 60 100 (fld v 0 8))) (List.range 5)

/-- PWR (R156 to R158, R501). -/
def pwrPut (o : Nat) (v : Reg) (s : State) : State :=
  if o = 0x080 then writeCap v s
  else if 0x090 ≤ o ∧ o < 0x0A0 then writeBud ((o - 0x090) / 4) v s
  else if 0x0B0 ≤ o ∧ o < 0x0C0 then writeCeil ((o - 0x0B0) / 4) v s
  else if o = 0x100 then pwrReqWrite v s
  else if o = 0x110 then softRst v s
  else if o = 0x140 then tjWarnWrite v s
  else if o = 0x144 then setReg s (ro pPwr o) (clampTo 120 540 (fld v 0 10))
  else writeRW s (ro pPwr o) v

/-- TRC (R455, R459, R461). -/
def trcPut (o : Nat) (v : Reg) (s : State) : State :=
  let a := ro pTrc o
  if o = 0x080 then trcWrite v s
  else if o = 0x088 ∨ o = 0x08C ∨ o = 0x090 ∨ o = 0x09C ∨ o = 0x0A0 ∨ (0x200 ≤ o ∧ o < 0x300) then
    (if regBit s trcCtl 0 then refuse s pTrc else writeRW s a v)
  else if o = 0x098 then trcRp v s
  else if o = 0x0AC then trcMarkWrite v s
  else if o = 0x0C0 then authWrite v s
  else if o = 0x0D0 then tokenWrite v s
  else writeRW s a v

/-- ACQ (R336, R340 to R343). -/
def acqPut (o : Nat) (v : Reg) (s : State) : State :=
  if o = 0x080 then mkhCtlWrite v s
  else if o = 0x088 ∨ (0x090 ≤ o ∧ o < 0x0A0) ∨ (0x100 ≤ o ∧ o < 0x140) ∨ (0x400 ≤ o ∧ o < 0xC40) then
    (if mkhArmed s then refuse s pAcq else writeRW s (ro pAcq o) v)
  else writeRW s (ro pAcq o) v

/-- DDR8 (R222, R230, R235, R236). -/
def ddrPut (o : Nat) (v : Reg) (s : State) : State :=
  if o = 0x080 then resvWrite v s
  else if o = 0x08C then wmWrite v s
  else if o = 0x090 then setReg s (ddrCommon o) (clampTo 64 16384 (fld v 0 15))
  else if o = 0x09C then retrain v s
  else writeRW s (ddrCommon o) v

/-- LNK (R308, R309). -/
def lnkPut (n o : Nat) (v : Reg) (s : State) : State :=
  if o = 0x080 then portCtlWrite n v s
  else if o = 0x0AC then (if isLink n then s else writeRW s (lnkReg n o) v)
  else if o = 0x0B8 then ctlAppend n v s
  else if o = 0x0BC then ctlSend n v s
  else writeRW s (lnkReg n o) v

/-- The common header (R470, R475). -/
def headerPut (pg o : Nat) (v : Reg) (s : State) : State :=
  if o = 0x010 then (if v.getLsbD 0 then stickyClear pg s else s)
  else if o = 0x020 then writeRW s (ro pg o) v
  else if !hasInd pg then s
  else if o = 0x040 then indAddr pg v s
  else if o = 0x044 then indWrite pg v s
  else if o = 0x048 then writeRW s (ro pg o) v
  else s

/-- A software write of the 4-byte register at offset `o` of a page. -/
def pagePut (pg o : Nat) (v : Reg) (s : State) : State :=
  if o < 0x80 then headerPut pg o v s
  else match pageKind pg with
    | .glb => glbPut o v s
    | .pci => writeRW s (ro pPci o) v
    | .job => jobPut o v s
    | .msg => if 0x100 ≤ o ∧ o < 0x300 ∧ o % 0x20 = 0x18 then msgCtlWrite ((o - 0x100) / 0x20) v s else s
    | .evl => if o = 0x09C then
        (let s := writeRW s (ro pEvl o) v
         if v.getLsbD 0 then logEmpty s else s) else s
    | .cfg => cfgPut o v s
    | .fus => if o = 0x084 then keybufWrite v s else if o = 0x088 then fuseWrite v s else s
    | .pwr => pwrPut o v s
    | .tim => s
    | .scr => if o = 0x080 then scrWrite v s else writeRW s (ro pScr o) v
    | .trc => trcPut o v s
    | .acq => acqPut o v s
    | .rim => if o = 0x080 then rimCtlWrite v s else if o = 0x0A0 then aqClr v s else writeRW s (ro pRim o) v
    | .ddr => s
    | .ddrCommon => ddrPut o v s
    | .lnk => lnkPut (pageInstance pg) o v s
    | .til => if o = 0x1C0 then (if inRun s (pageInstance pg) then refuse s pg else writeRW s (ro pg o) v) else s
    | .bnk => if o = 0x080 then ownerWrite (pageInstance pg) v s else writeRW s (ro pg o) v
    | .none => s

/-- A software write of the 4-byte register at BAR0 offset `a`; pages beyond the page map ignore it (R465). -/
def writeOne (a : Nat) (v : Reg) (s : State) : State :=
  if pageKind (a / 4096) = .none then s else pagePut (a / 4096) (a % 4096) v s

/-- A write of BAR4: the doorbells (R350, R351); the rest is ignored. -/
def doorbellWrite (x : Nat) (v : Reg) (s : State) : State :=
  let q := x / 0x1000
  if 8 ≤ q then s
  else if x % 0x1000 = 0 then ringSq q v s
  else if x % 0x1000 = 4 then ringCq q v s
  else s

/-- A write of one register of BAR0 or BAR4. -/
def writeAt (a : Nat) (v : Reg) (s : State) : State :=
  if a < bar4 then writeOne a v s else doorbellWrite (a - bar4) v s

/-- A write of 4 or 8 bytes, lower register first; any other request is discarded (R463), and an endpoint that is not up takes
none (R464).  Eight bytes at BOOT_DATA are eight container bytes (R408). -/
def busWrite (off size : Nat) (v : Word) (s : State) : State :=
  if !endpointUp s then s
  else if !goodAccess off size then (if off < bar4 then stick s pGlb 2 else s)
  else if size = 4 then writeAt off (lo32 v.toNat) s
  else if off = ro pCfg 0x090 then hostData (leBytes 8 v.toNat) s
  else writeAt (off + 4) (hi32 v.toNat) (writeAt off (lo32 v.toNat) s)

def execRegisterWrite (off size : Nat) (v : Word) (s : State) : Host.Outcome State Fault Refusal := finish (busWrite off size v s)

end Sys2Proof.Machine
end

