-- ==== Sys2Proof/Machine/Startup.lean ====
section
/-!
DEFINITION. VERIFY, START and READY (R193, R387, R389, R396, R400, R401): SHELL records, DRAM training, lane and rim start-up,
the boot image.
-/
namespace Sys2Proof.Machine

/-! ### VERIFY and the SHELL records (R396, R400) -/

/-- This device's content of a section of the boot container. -/
def rxSub (s : State) (g : Bytes) (ty : Nat) : SubFind :=
  match findSect g ty with
  | none => .absent
  | some x => subFor g (devIdx s) x

/-- SHELL record i: page, offset, mask, value. -/
def shellRec (g : Bytes) (off i : Nat) : Nat × Nat × Reg × Reg :=
  let o := off + 16 * i
  (rd g o 2, rd g (o + 2) 2, BitVec.ofNat 32 (rd g (o + 4) 4), BitVec.ofNat 32 (rd g (o + 8) 4))

/-- SHELL_BAD: a page beyond the page map, or a misaligned offset (R399, R482). -/
def shellBad (g : Bytes) (off n : Nat) : Bool :=
  (List.range (n / 16)).any (fun i => let r := shellRec g off i; decide (242 ≤ r.1 ∨ r.2.1 % 4 ≠ 0))

/-- A record writes as software would; RO, WO and RC fields are left alone, and an offset beyond a page names no register. -/
def shellApply (s : State) (r : Nat × Nat × Reg × Reg) : State :=
  let (pg, o, m, v) := r
  let a := ro pg o
  if 4096 ≤ o then s
  else if o = 0x044 then
    indWrite pg ((indWord s pg (getReg s (indAddrReg pg)).toNat &&& ~~~m) ||| (v &&& m)) s
  else if rwMask a = 0 then s
  else writeOne a (((getReg s a &&& ~~~m) ||| (v &&& m)) &&& rwMask a) s

/-- Every record, in order. -/
def shellAll (s : State) (g : Bytes) : State :=
  match rxSub s g 1 with
  | .at off n => (List.range (n / 16)).foldl (fun s i => shellApply s (shellRec g off i)) s
  | _ => s

/-- Why VERIFY fails: the code, with the section concerned (0 for none). -/
def verifyFails (s : State) (plain : List Byte) (fwOk : Bool) : Option (Nat × Nat) :=
  let g := bytesOf plain
  let bare := match rxSub s g 5 with | .at off _ => protectBare g (fun i => g (off + i)) | _ => false
  let patch := match rxSub s g 2 with | .at _ _ => !fwOk | _ => false
  let shell := match rxSub s g 1 with | .at off n => shellBad g off n | _ => false
  match trailerCheck s s.cfg.rx plain with
  | some code => some (code, 0)
  | none => if bare then some (0x44, 5) else if patch then some (0x4A, 2) else if shell then some (0x4B, 1) else none

/-- VERIFY; on success START applies SHELL and enables FWPATCH, and DRAM is to be trained (R396). -/
def verify (fwOk : Bool) (s : State) : State :=
  if s.cfg.state ≠ 4 ∨ s.tap.scanned then s
  else
    let plain := conPlain s s.cfg.rx
    match verifyFails s plain fwOk with
    | some (code, 0) => cfgFailHere s 10 code true
    | some (code, ty) => cfgFail s 10 code ty (devIdx s) true
    | none =>
      let s := shellAll { s with cfg := s.cfg.goTo 5 } (bytesOf plain)
      let s := (List.range 8).foldl (fun s ch => putChan s ch { chanOf s ch with trained := false }) s
      { s with cfg := { s.cfg with shellDone := true, fwOn := true, trained := false } }

def execContainerVerify (fwOk : Bool) (s : State) : Host.Outcome State Fault Refusal := finish (verify fwOk s)

/-! ### DRAM (R210, R401) -/

/-- Is a DRAMCFG record one of the two configurations (R5, R210, R401)? -/
def dramCfgOk (g : Bytes) (o : Nat) : Bool :=
  let b := fun i => (g (o + i)).toNat
  (List.range 56).all (fun i => b (8 + i) == 0) &&
    (if b 0 = 0 then decide (1 ≤ b 1 ∧ b 1 ≤ 4 ∧ 1 ≤ b 2 ∧ b 2 ≤ 2 ∧ b 3 ≤ 38)
     else decide (b 0 = 1 ∧ 1 ≤ b 1 ∧ b 1 ≤ 2 ∧ b 2 = 0 ∧ b 3 ≤ 35))

/-- Training is over: `fails` holds the FAIL code of each channel, 0 where it passed.  A record that is neither of the two
configurations fits no population: FAIL 1 on every channel. -/
def trainEnd (fails : List Nat) (temp : Int) (s : State) : State :=
  if s.cfg.state ≠ 5 ∨ s.cfg.trained ∨ !s.cfg.shellDone ∨ s.tap.scanned then s
  else
    let g := rxPlain s
    let rec0 := match rxSub s g 4 with | .at off _ => off | _ => 0
    let b := fun i => (g (rec0 + i)).toNat
    let fails := if dramCfgOk g rec0 then fails else List.replicate 8 1
    let s := { s with dram := { s.dram with
      lpddr := decide (b 0 = 1), ranks := b 1, dimms := b 2, capLog2 := b 3, rowBits := b 4, colBits := b 5, bankBits := b 6
      refresh2x := (g (rec0 + 7)).getLsbD 0 } }
    let s := (List.range 8).foldl (fun s ch => putChan s ch { chanOf s ch with
      trained := decide (fails.getD ch 0 = 0), fail := fails.getD ch 0 % 8, selfRefresh := false, trainTemp := temp }) s
    if (List.range 8).any (fun ch => decide (fails.getD ch 0 ≠ 0)) then { lanesIdle s with cfg := s.cfg.goTo 11 }
    else
      let top := 8 * 2 ^ s.dram.capLog2
      { s with cfg := { s.cfg with trained := true }, dram := s.dram.lose (top - 524288) top }

def execDramTrainDone (fails : List Nat) (temp : Int) (s : State) : Host.Outcome State Fault Refusal :=
  finish (trainEnd fails temp s)

/-! ### READY (R396) -/

/-- LANE_EN from the ENABLE bits of usable EQ entries; enabled ports start bring-up (R275, R277, R308). -/
def lanesStart (s : State) : State :=
  (List.range 24).foldl (fun s n =>
    let en := (List.range 4).foldl (fun m r =>
      let w := ((portOf s n).lane r).eqNext
      if w.getLsbD 39 && eqOk w then m + 2 ^ r else m) 0
    let s := modPort (setRegF s (lnkReg n 0x080) 0 4 en) n (fun x => { x with
      lanes := (List.range 4).foldl (fun m r => Tbl.upd Lane.reset m r (fun l => { l with eqBad := !eqOk l.eqNext })) x.lanes })
    if en = 0 then s else startBringup s n) s

def zeroBytes (n : Nat) : List Byte := List.replicate n 0

/-- The IMAGE container that boot builds (R396): header, one section with one subsection, body encrypted under the boot
container's key, trailer. -/
def bootContainer (s : State) (g : Bytes) (content : List Byte) (iv : List Byte) : List Byte :=
  let n := content.length
  let pad := (64 - n % 64) % 64
  let len := 64 + n + pad
  let total := 0x100 + len + 64
  let head := slice g 0 4 ++ leBytes 2 1 ++ leBytes 2 2 ++ slice g 8 6 ++ leBytes 2 1 ++ slice g 0x10 8 ++ iv ++ zeroBytes 4 ++
    leBytes 8 total ++ zeroBytes 16 ++ (leBytes 4 5 ++ leBytes 4 4 ++ leBytes 8 len) ++ zeroBytes 176
  let body := leBytes 8 (devIdx s) ++ leBytes 8 n ++ zeroBytes 48 ++ content ++ zeroBytes pad
  let ks := conKeySlot g
  let key := slotKey s ks
  let crc := leBytes 8 (crc64 (head ++ body)).toNat
  if ks = 0xFF then head ++ body ++ crc ++ zeroBytes 56
  else
    let ct := gcmCrypt key iv body
    head ++ ct ++ crc ++ zeroBytes 8 ++ gcmTag key iv head ct ++ zeroBytes 32

/-- The boot image is in slot 0: its checks, and the swap from there. -/
def bootSwap (s : State) (img : Bytes) (n ks : Nat) : State :=
  match (loadChecks (devIdx s) img n) <|> swapChecks s img with
  | some f =>
    let s := setSlot s 0 3
    { s with cfg := { s.cfg with
        err := place 32 0 8 f.1 ||| place 32 8 8 5 ||| place 32 16 8 (devIdx s) ||| place 32 31 1 1 } }
  | none => installImage s 0 img ks

/-- The image of the boot container, if it brings one. -/
def bootImage (s : State) (g : Bytes) : State :=
  match rxSub s g 5 with
  | .at off n =>
    let ks := conKeySlot g
    let content := slice (fun i => g (off + i)) 0 n
    let k := s.freeCount + 1
    let iv := if ks = 0xFF then zeroBytes 12 else leBytes 12 (Config.freeIv k).toNat
    let con := bootContainer s g content iv
    if slotCount s = 0 ∨ slotSize s < con.length ∨ capacity s < slotBase s 0 + slotSize s then
      let s := setSlot s 0 3
      { s with cfg := { s.cfg with
          err := place 32 0 8 0x4C ||| place 32 8 8 5 ||| place 32 16 8 (devIdx s) ||| place 32 31 1 1 } }
    else
      let s := dramWrite { s with freeCount := k } (slotBase s 0) con loadStop
      let s := dramFetch s (slotBase s 0) con.length loadStop
      let s := putSlot s 0 { st := 2, bbram := decide (ks = 1) }
      bootSwap s (fun i => g (off + i)) n ks
  | _ => s

/-- Every word of every bank is zero, with correct parity (R193). -/
def zeroBanks (s : State) : State :=
  (List.range 128).foldl (fun s b => putBank s b { bankOf s b with words := [], prev := none, dirty := [] }) s

/-- The dies' STEPCLK starts at its ceiling, the voltage going first (R151); without REFCLK it stays gated (R487). -/
def stepClksOn (s : State) : State :=
  if s.hw.refLost then s
  else (List.range 4).foldl (fun s d =>
    let f := clkCeil s d
    setReg (setVoltage s d (max (vfMv s f))) (clkReg d) (BitVec.ofNat 32 f)) s

/-- The rest of START, in the order of R396, and READY in power state RUN (R500; a device that is not in RUN waits, assumption
128): `net` is what the frames of its rim configuration select. -/
def goReady (net : RimNet) (s : State) : State :=
  if s.cfg.state ≠ 5 ∨ !s.cfg.trained ∨ s.tap.scanned ∨ s.pwr.state ≠ 0 ∨ s.pwr.entering.isSome ∨ s.pwr.exiting then s
  else
    let g := rxPlain s
    let s := lanesStart s
    let s := match rxSub s g 6 with | .at off n => rimLoad s g off n net | _ => s
    let s := stepClksOn (zeroBanks (bootImage s g))
    { s with cfg := { s.cfg.goTo 6 with staged := false, clearDue := false }, rim := { s.rim with calibrated := true } }

def execReady (net : RimNet) (s : State) : Host.Outcome State Fault Refusal := finish (goReady net s)

end Sys2Proof.Machine
end

