-- ==== Sys2Proof/Machine/Scan.lean ====
section
/-!
DEFINITION. The test access port (R517, R518): the instruction register, the boundary cells, and what EXTEST, HIGHZ and CLAMP
do to the loader and to DRAM.
-/
namespace Sys2Proof.Machine

/-- IDCODE: VER, part, vendor and 1 (R23, R517). -/
def identity (s : State) : BitVec 32 :=
  place 32 28 4 (match s.hw.stepping with | .a0 => 0 | .b0 => 1) ||| place 32 12 16 0x6416 ||| place 32 1 11 0x2D3 ||| place 32 0 1 1

/-- The register that an instruction puts between TDI and TDO. -/
inductive TapReg where
  | boundary
  | idcode
  | bypass
  deriving DecidableEq, Repr

/-- The register of an instruction: CLAMP, HIGHZ and every other code select the bypass register (for HIGHZ DEDUCED,
assumption 131). -/
def tapReg (ir : BitVec 8) : TapReg :=
  if ir = 0x00 ∨ ir = 0x01 then .boundary else if ir = 0x02 then .idcode else .bypass

/-- An instruction is in force, and its register is ready to shift out: the identity, or the bypass register at 0 (PRESUMED,
assumption 131); while TRST_N is low the port stays in reset. -/
def setIr (c : BitVec 8) (s : State) : State :=
  let x := { s.tap with ir := if s.hw.trst then 0x02 else c }
  match tapReg x.ir with
  | .boundary => { s with tap := x }
  | .idcode => { s with tap := { x with idcode := identity s } }
  | .bypass => { s with tap := { x with bypass := false } }

/-- While CFG_STAT.STATE is START or READY, EXTEST, HIGHZ and CLAMP decode as BYPASS. -/
def scanShut (s : State) : Bool := decide (s.cfg.state = 5 ∨ s.cfg.state = 6)

/-- EXTEST, HIGHZ or CLAMP comes into force: the loader stays in its state, and DRAM contents are not retained. -/
def scanOn (c : BitVec 8) (s : State) : State :=
  let s := setIr c s
  if s.hw.trst then s else { s with tap := { s.tap with scanned := true }, dram := s.dram.lose 0 (2 ^ 41) }

/-- The boundary cells capture the pins and are loaded. -/
def scanCells (pins cells : BitVec 4362) (s : State) : State :=
  if s.hw.trst then s else { s with tap := { s.tap with capture := pins, cells := cells } }

def extestIn (pins cells : BitVec 4362) (s : State) : State :=
  if scanShut s then setIr 0xFF s else scanCells pins cells (scanOn 0x00 s)

def highzIn (s : State) : State := if scanShut s then setIr 0xFF s else scanOn 0x03 s
def clampIn (s : State) : State := if scanShut s then setIr 0xFF s else scanOn 0x04 s

def execExtest (pins cells : BitVec 4362) (s : State) : Host.Outcome State Fault Refusal := finish (extestIn pins cells s)
def execSamplePreload (pins cells : BitVec 4362) (s : State) : Host.Outcome State Fault Refusal :=
  finish (scanCells pins cells (setIr 0x01 s))
def execIdcode (s : State) : Host.Outcome State Fault Refusal := finish (setIr 0x02 s)
def execHighz (s : State) : Host.Outcome State Fault Refusal := finish (highzIn s)
def execClamp (s : State) : Host.Outcome State Fault Refusal := finish (clampIn s)
def execBypass (s : State) : Host.Outcome State Fault Refusal := finish (setIr 0xFF s)
def execTestLogicReset (s : State) : Host.Outcome State Fault Refusal := finish (setIr 0x02 s)

end Sys2Proof.Machine
end

