-- ==== Sys2Proof/Machine/Dispatch.lean ====
section
/-!
DEFINITION. What each command does: one arm per constructor, each a call of that command's own meaning.
-/
namespace Sys2Proof.Machine

def exec (i : Instr) (s : State) : Host.Outcome State Fault Refusal :=
  match i with
  | .stepIssue p ups => Sys2Proof.Machine.execStepIssue p ups s
  | .stepWordRefetch p bp held => Sys2Proof.Machine.execStepWordRefetch p bp held s
  | .eval p dsRow => Sys2Proof.Machine.execEval p dsRow s
  | .send p bp => Sys2Proof.Machine.execSend p bp s
  | .tmemRead p u up => Sys2Proof.Machine.execTmemRead p u up s
  | .tmemAddr p u => Sys2Proof.Machine.execTmemAddr p u s
  | .tmemWrite p u => Sys2Proof.Machine.execTmemWrite p u s
  | .tmemSwap p u up => Sys2Proof.Machine.execTmemSwap p u up s
  | .qrd p q => Sys2Proof.Machine.execQrd p q s
  | .qwa p q => Sys2Proof.Machine.execQwa p q s
  | .qwd p q => Sys2Proof.Machine.execQwd p q s
  | .qpop p q => Sys2Proof.Machine.execQpop p q s
  | .setmask p => Sys2Proof.Machine.execSetmask p s
  | .setval p => Sys2Proof.Machine.execSetval p s
  | .matchOp p => Sys2Proof.Machine.execMatchOp p s
  | .probe p => Sys2Proof.Machine.execProbe p s
  | .msgCtl p => Sys2Proof.Machine.execMsgCtl p s
  | .msgPush p => Sys2Proof.Machine.execMsgPush p s
  | .pushEop p => Sys2Proof.Machine.execPushEop p s
  | .msgEop p => Sys2Proof.Machine.execMsgEop p s
  | .cntInc p => Sys2Proof.Machine.execCntInc p s
  | .ldsel p => Sys2Proof.Machine.execLdsel p s
  | .cntLoad p => Sys2Proof.Machine.execCntLoad p s
  | .cntRead p => Sys2Proof.Machine.execCntRead p s
  | .nop p bp => Sys2Proof.Machine.execNop p bp s
  | .waitq p bp => Sys2Proof.Machine.execWaitq p bp s
  | .endStep p bp => Sys2Proof.Machine.execEndStep p bp s
  | .tracept p bp => Sys2Proof.Machine.execTracept p bp s
  | .halt p bp => Sys2Proof.Machine.execHalt p bp s
  | .tokenOffer d => Sys2Proof.Machine.execTokenOffer d s
  | .heavyReturn p idx => Sys2Proof.Machine.execHeavyReturn p idx s
  | .qrdResponseReady p q => Sys2Proof.Machine.execQrdResponseReady p q s
  | .qwdHandoff p q => Sys2Proof.Machine.execQwdHandoff p q s
  | .combineWindowRelease p idx => Sys2Proof.Machine.execCombineWindowRelease p idx s
  | .flitInject p r => Sys2Proof.Machine.execFlitInject p r s
  | .flitDeliver p idx also => Sys2Proof.Machine.execFlitDeliver p idx also s
  | .bridgeTake d idx => Sys2Proof.Machine.execBridgeTake d idx s
  | .mainRingExit idx blocked => Sys2Proof.Machine.execMainRingExit idx blocked s
  | .outputFlitArrive idx => Sys2Proof.Machine.execOutputFlitArrive idx s
  | .begunTokenSend dev => Sys2Proof.Machine.execBegunTokenSend dev s
  | .closeC2 p => Sys2Proof.Machine.execCloseC2 p s
  | .closeC3 p => Sys2Proof.Machine.execCloseC3 p s
  | .closeC5 p => Sys2Proof.Machine.execCloseC5 p s
  | .closeC8 p peer => Sys2Proof.Machine.execCloseC8 p peer s
  | .cycleLimitStop => Sys2Proof.Machine.execCycleLimitStop s
  | .inputRecordForm => Sys2Proof.Machine.execInputRecordForm s
  | .stallLimit p => Sys2Proof.Machine.execStallLimit p s
  | .faultStopTimeout p => Sys2Proof.Machine.execFaultStopTimeout p s
  | .paceTick => Sys2Proof.Machine.execPaceTick s
  | .paceMiss => Sys2Proof.Machine.execPaceMiss s
  | .admCheck v peer => Sys2Proof.Machine.execAdmCheck v peer s
  | .powerMeasure avg1ms => Sys2Proof.Machine.execPowerMeasure avg1ms s
  | .budgetAdjust avg10us => Sys2Proof.Machine.execBudgetAdjust avg10us s
  | .clockAdjust avg100us avg1ms => Sys2Proof.Machine.execClockAdjust avg100us avg1ms s
  | .powerPace => Sys2Proof.Machine.execPowerPace s
  | .pllSwitch d => Sys2Proof.Machine.execPllSwitch d s
  | .pwrCapWrite v => Sys2Proof.Machine.execPwrCapWrite v s
  | .tokBudWrite d v => Sys2Proof.Machine.execTokBudWrite d v s
  | .clkCeilWrite d v => Sys2Proof.Machine.execClkCeilWrite d v s
  | .ownerWrite b v => Sys2Proof.Machine.execOwnerWrite b v s
  | .ownerHandover b => Sys2Proof.Machine.execOwnerHandover b s
  | .bankParityRepair b => Sys2Proof.Machine.execBankParityRepair b s
  | .ckptRegionCopy d ups => Sys2Proof.Machine.execCkptRegionCopy d ups s
  | .ttRegionStart d ups => Sys2Proof.Machine.execTtRegionStart d ups s
  | .ttRegionDone d pass => Sys2Proof.Machine.execTtRegionDone d pass s
  | .ttAbortDone d => Sys2Proof.Machine.execTtAbortDone d s
  | .dramRequestAccept ch idx => Sys2Proof.Machine.execDramRequestAccept ch idx s
  | .dramServe ch idx err copy => Sys2Proof.Machine.execDramServe ch idx err copy s
  | .writeDrain ch aged errs => Sys2Proof.Machine.execWriteDrain ch aged errs s
  | .ageLimit ch idx => Sys2Proof.Machine.execAgeLimit ch idx s
  | .dramRefresh ch rank => Sys2Proof.Machine.execDramRefresh ch rank s
  | .actTableClear => Sys2Proof.Machine.execActTableClear s
  | .selfRefreshEntry ch => Sys2Proof.Machine.execSelfRefreshEntry ch s
  | .powerDownEntry ch rank => Sys2Proof.Machine.execPowerDownEntry ch rank s
  | .patrolScrub ch line err => Sys2Proof.Machine.execPatrolScrub ch line err s
  | .zqCalibration ch rank temp => Sys2Proof.Machine.execZqCalibration ch rank temp s
  | .dqsTracking ch atLimit temp => Sys2Proof.Machine.execDqsTracking ch atLimit temp s
  | .retrain v => Sys2Proof.Machine.execRetrain v s
  | .retrainDone temp => Sys2Proof.Machine.execRetrainDone temp s
  | .wmWrite v => Sys2Proof.Machine.execWmWrite v s
  | .resvWrite v => Sys2Proof.Machine.execResvWrite v s
  | .iqPush q w => Sys2Proof.Machine.execIqPush q w s
  | .outQueueEntryVisible q => Sys2Proof.Machine.execOutQueueEntryVisible q s
  | .oqValid q => Sys2Proof.Machine.execOqValid q s
  | .oqPop q => Sys2Proof.Machine.execOqPop q s
  | .rimRun v => Sys2Proof.Machine.execRimRun v s
  | .rimHold v => Sys2Proof.Machine.execRimHold v s
  | .rimRelease => Sys2Proof.Machine.execRimRelease s
  | .rimPllLock k => Sys2Proof.Machine.execRimPllLock k s
  | .softReset v => Sys2Proof.Machine.execSoftReset v s
  | .softResetDone => Sys2Proof.Machine.execSoftResetDone s
  | .aqClr v => Sys2Proof.Machine.execAqClr v s
  | .delayWrite pin v => Sys2Proof.Machine.execDelayWrite pin v s
  | .delayWalkStep pin => Sys2Proof.Machine.execDelayWalkStep pin s
  | .delayTrack => Sys2Proof.Machine.execDelayTrack s
  | .rimCapture frac => Sys2Proof.Machine.execRimCapture frac s
  | .signalDetect n => Sys2Proof.Machine.execSignalDetect n s
  | .cdrLock n => Sys2Proof.Machine.execCdrLock n s
  | .commaAlign n seen late => Sys2Proof.Machine.execCommaAlign n seen late s
  | .fecLock n clean errs => Sys2Proof.Machine.execFecLock n clean errs s
  | .bringupRetry n => Sys2Proof.Machine.execBringupRetry n s
  | .helloResend n => Sys2Proof.Machine.execHelloResend n s
  | .packetSend n frac => Sys2Proof.Machine.execPacketSend n frac s
  | .exchPacket n pk => Sys2Proof.Machine.execExchPacket n pk s
  | .stream n pk frac => Sys2Proof.Machine.execStream n pk frac s
  | .marker n pk frac => Sys2Proof.Machine.execMarker n pk frac s
  | .hello n pk => Sys2Proof.Machine.execHello n pk s
  | .helloAck n pk => Sys2Proof.Machine.execHelloAck n pk s
  | .runinfo n pk => Sys2Proof.Machine.execRuninfo n pk s
  | .mapsync n pk => Sys2Proof.Machine.execMapsync n pk s
  | .user n pk => Sys2Proof.Machine.execUser n pk s
  | .errorMsg n pk => Sys2Proof.Machine.execErrorMsg n pk s
  | .ack n w => Sys2Proof.Machine.execAck n w s
  | .nak n w => Sys2Proof.Machine.execNak n w s
  | .ackSend n => Sys2Proof.Machine.execAckSend n s
  | .credit n w => Sys2Proof.Machine.execCredit n w s
  | .creditReturn n => Sys2Proof.Machine.execCreditReturn n s
  | .retryTimeout n => Sys2Proof.Machine.execRetryTimeout n s
  | .ping n w => Sys2Proof.Machine.execPing n w s
  | .pingSend n => Sys2Proof.Machine.execPingSend n s
  | .pong n w rtt => Sys2Proof.Machine.execPong n w rtt s
  | .pongTimeout n tag => Sys2Proof.Machine.execPongTimeout n tag s
  | .markerSend n => Sys2Proof.Machine.execMarkerSend n s
  | .laneFail n lane => Sys2Proof.Machine.execLaneFail n lane s
  | .laneDown n w => Sys2Proof.Machine.execLaneDown n w s
  | .laneDownRepeat n comma => Sys2Proof.Machine.execLaneDownRepeat n comma s
  | .restripe n => Sys2Proof.Machine.execRestripe n s
  | .eidleBlock n w => Sys2Proof.Machine.execEidleBlock n w s
  | .resetBlock n w => Sys2Proof.Machine.execResetBlock n w s
  | .eidleRequest n v => Sys2Proof.Machine.execEidleRequest n v s
  | .eidleExit n => Sys2Proof.Machine.execEidleExit n s
  | .recal n v => Sys2Proof.Machine.execRecal n v s
  | .recalDone n seen late clean errs => Sys2Proof.Machine.execRecalDone n seen late clean errs s
  | .portReset n v => Sys2Proof.Machine.execPortReset n v s
  | .ctlTxData n v => Sys2Proof.Machine.execCtlTxData n v s
  | .ctlTxSend n v => Sys2Proof.Machine.execCtlTxSend n v s
  | .ctlRxData n => Sys2Proof.Machine.execCtlRxData n s
  | .sequencerEvent => Sys2Proof.Machine.execSequencerEvent s
  | .trigInEdge k rise frac => Sys2Proof.Machine.execTrigInEdge k rise frac s
  | .trigOutPulse k => Sys2Proof.Machine.execTrigOutPulse k s
  | .trigOutPulseEnd k => Sys2Proof.Machine.execTrigOutPulseEnd k s
  | .probeWordArrive idx => Sys2Proof.Machine.execProbeWordArrive idx s
  | .segmentCommit c => Sys2Proof.Machine.execSegmentCommit c s
  | .segmentPostDone c => Sys2Proof.Machine.execSegmentPostDone c s
  | .channelRearm c => Sys2Proof.Machine.execChannelRearm c s
  | .recordDrain c ups => Sys2Proof.Machine.execRecordDrain c ups s
  | .rateCheck c samples => Sys2Proof.Machine.execRateCheck c samples s
  | .mkhForce v => Sys2Proof.Machine.execMkhForce v s
  | .disarm v => Sys2Proof.Machine.execDisarm v s
  | .sqDoorbell q v => Sys2Proof.Machine.execSqDoorbell q v s
  | .cqDoorbell q v => Sys2Proof.Machine.execCqDoorbell q v s
  | .descriptorCopy q err => Sys2Proof.Machine.execDescriptorCopy q err s
  | .contextTake q => Sys2Proof.Machine.execContextTake q s
  | .jobReady ctx => Sys2Proof.Machine.execJobReady ctx s
  | .jobDispatch x => Sys2Proof.Machine.execJobDispatch x s
  | .jobRelease q => Sys2Proof.Machine.execJobRelease q s
  | .irqCoalesceTimer q => Sys2Proof.Machine.execIrqCoalesceTimer q s
  | .sqEnable q v => Sys2Proof.Machine.execSqEnable q v s
  | .flagSet v => Sys2Proof.Machine.execFlagSet v s
  | .flagClr v => Sys2Proof.Machine.execFlagClr v s
  | .abortJob v => Sys2Proof.Machine.execAbortJob v s
  | .abortQueue v => Sys2Proof.Machine.execAbortQueue v s
  | .abortRun v => Sys2Proof.Machine.execAbortRun v s
  | .abortDevice v => Sys2Proof.Machine.execAbortDevice v s
  | .abortDecided => Sys2Proof.Machine.execAbortDecided s
  | .copy x => Sys2Proof.Machine.execCopy x s
  | .dmaCopy x host err lost same ups lines => Sys2Proof.Machine.execDmaCopy x host err lost same ups lines s
  | .load header err lines => Sys2Proof.Machine.execLoad header err lines s
  | .loadEnd host err lines => Sys2Proof.Machine.execLoadEnd host err lines s
  | .swap => Sys2Proof.Machine.execSwap s
  | .imageSwap net lines => Sys2Proof.Machine.execImageSwap net lines s
  | .start peer => Sys2Proof.Machine.execStart peer s
  | .grant => Sys2Proof.Machine.execGrant s
  | .stop => Sys2Proof.Machine.execStop s
  | .capture => Sys2Proof.Machine.execCapture s
  | .snapDrain => Sys2Proof.Machine.execSnapDrain s
  | .arm => Sys2Proof.Machine.execArm s
  | .readout host moved same ups lines => Sys2Proof.Machine.execReadout host moved same ups lines s
  | .bankTest => Sys2Proof.Machine.execBankTest s
  | .bankTestDone failed => Sys2Proof.Machine.execBankTestDone failed s
  | .tileTest => Sys2Proof.Machine.execTileTest s
  | .tileTestDone parts bp addr => Sys2Proof.Machine.execTileTestDone parts bp addr s
  | .msgDataLo f wide => Sys2Proof.Machine.execMsgDataLo f wide s
  | .dropPkt f => Sys2Proof.Machine.execDropPkt f s
  | .msgClr f => Sys2Proof.Machine.execMsgClr f s
  | .evlData0 => Sys2Proof.Machine.execEvlData0 s
  | .evlClr => Sys2Proof.Machine.execEvlClr s
  | .bar2Read off len lines => Sys2Proof.Machine.execBar2Read off len lines s
  | .bar2Write off data => Sys2Proof.Machine.execBar2Write off data s
  | .functionLevelReset => Sys2Proof.Machine.execFunctionLevelReset s
  | .tbLo wide => Sys2Proof.Machine.execTbLo wide s
  | .rcRead off size => Sys2Proof.Machine.execRcRead off size s
  | .clrSticky page => Sys2Proof.Machine.execClrSticky page s
  | .indAddrWrite page v => Sys2Proof.Machine.execIndAddrWrite page v s
  | .indDataRead page ups => Sys2Proof.Machine.execIndDataRead page ups s
  | .indDataWrite page v => Sys2Proof.Machine.execIndDataWrite page v s
  | .registerWrite off size v => Sys2Proof.Machine.execRegisterWrite off size v s
  | .tileMapWrite idx v => Sys2Proof.Machine.execTileMapWrite idx v s
  | .fenceWrite d v => Sys2Proof.Machine.execFenceWrite d v s
  | .linkMapWrite dev v => Sys2Proof.Machine.execLinkMapWrite dev v s
  | .bootBusStart data => Sys2Proof.Machine.execBootBusStart data s
  | .bootData data => Sys2Proof.Machine.execBootData data s
  | .headerReceived => Sys2Proof.Machine.execHeaderReceived s
  | .sectionStage => Sys2Proof.Machine.execSectionStage s
  | .containerVerify fwOk => Sys2Proof.Machine.execContainerVerify fwOk s
  | .dramTrainDone fails temp => Sys2Proof.Machine.execDramTrainDone fails temp s
  | .ready net => Sys2Proof.Machine.execReady net s
  | .bootFrmDrop => Sys2Proof.Machine.execBootFrmDrop s
  | .bootDataTimeout => Sys2Proof.Machine.execBootDataTimeout s
  | .stagedClear => Sys2Proof.Machine.execStagedClear s
  | .reload v => Sys2Proof.Machine.execReload v s
  | .keyWr v => Sys2Proof.Machine.execKeyWr v s
  | .keyWrTimeout => Sys2Proof.Machine.execKeyWrTimeout s
  | .zeroise v => Sys2Proof.Machine.execZeroise v s
  | .tamper => Sys2Proof.Machine.execTamper s
  | .vbatLoss => Sys2Proof.Machine.execVbatLoss s
  | .fuseKeybuf v => Sys2Proof.Machine.execFuseKeybuf v s
  | .fuseProgKey v => Sys2Proof.Machine.execFuseProgKey v s
  | .fuseBlowPlainDis v => Sys2Proof.Machine.execFuseBlowPlainDis v s
  | .fuseBlowBbramDis v => Sys2Proof.Machine.execFuseBlowBbramDis v s
  | .fuseBlowHostBootDis v => Sys2Proof.Machine.execFuseBlowHostBootDis v s
  | .fuseProgDone ok => Sys2Proof.Machine.execFuseProgDone ok s
  | .heartbeatLoss p => Sys2Proof.Machine.execHeartbeatLoss p s
  | .rollback lines => Sys2Proof.Machine.execRollback lines s
  | .rollbackDone => Sys2Proof.Machine.execRollbackDone s
  | .checkpointBoundary => Sys2Proof.Machine.execCheckpointBoundary s
  | .checkpointComplete => Sys2Proof.Machine.execCheckpointComplete s
  | .ckptNow v => Sys2Proof.Machine.execCkptNow v s
  | .scrubRegion storage tile region ups refUpset seq => Sys2Proof.Machine.execScrubRegion storage tile region ups refUpset seq s
  | .commit v => Sys2Proof.Machine.execCommit v s
  | .commitDone => Sys2Proof.Machine.execCommitDone s
  | .voteSweep ups maps => Sys2Proof.Machine.execVoteSweep ups maps s
  | .traceLineFlush strm => Sys2Proof.Machine.execTraceLineFlush strm s
  | .traceStagingDrain strm ups => Sys2Proof.Machine.execTraceStagingDrain strm ups s
  | .trcEnable v => Sys2Proof.Machine.execTrcEnable v s
  | .trcRpWrite v => Sys2Proof.Machine.execTrcRpWrite v s
  | .trcMark v => Sys2Proof.Machine.execTrcMark v s
  | .authNew => Sys2Proof.Machine.execAuthNew s
  | .authLock => Sys2Proof.Machine.execAuthLock s
  | .authToken v => Sys2Proof.Machine.execAuthToken v s
  | .pwrReqRun => Sys2Proof.Machine.execPwrReqRun s
  | .pwrReqIdle => Sys2Proof.Machine.execPwrReqIdle s
  | .pwrReqDoze => Sys2Proof.Machine.execPwrReqDoze s
  | .powerEntryDone => Sys2Proof.Machine.execPowerEntryDone s
  | .powerExitDone => Sys2Proof.Machine.execPowerExitDone s
  | .d3hotEntry => Sys2Proof.Machine.execD3hotEntry s
  | .d0Entry => Sys2Proof.Machine.execD0Entry s
  | .thermWarn j t => Sys2Proof.Machine.execThermWarn j t s
  | .thermalRestore => Sys2Proof.Machine.execThermalRestore s
  | .thermtrip j t => Sys2Proof.Machine.execThermtrip j t s
  | .refLoss => Sys2Proof.Machine.execRefLoss s
  | .laneRefclkLoss k => Sys2Proof.Machine.execLaneRefclkLoss k s
  | .pcieRefclkLoss => Sys2Proof.Machine.execPcieRefclkLoss s
  | .porstN => Sys2Proof.Machine.execPorstN s
  | .sysrstN => Sys2Proof.Machine.execSysrstN s
  | .perstN => Sys2Proof.Machine.execPerstN s
  | .rstCtlSoft v => Sys2Proof.Machine.execRstCtlSoft v s
  | .resetRelease pins => Sys2Proof.Machine.execResetRelease pins s
  | .startupPllLock => Sys2Proof.Machine.execStartupPllLock s
  | .loaderWaitSrc => Sys2Proof.Machine.execLoaderWaitSrc s
  | .extest pins cells => Sys2Proof.Machine.execExtest pins cells s
  | .samplePreload pins cells => Sys2Proof.Machine.execSamplePreload pins cells s
  | .idcode => Sys2Proof.Machine.execIdcode s
  | .highz => Sys2Proof.Machine.execHighz s
  | .clamp => Sys2Proof.Machine.execClamp s
  | .bypass => Sys2Proof.Machine.execBypass s
  | .signalReturn n commas => Sys2Proof.Machine.execSignalReturn n commas s
  | .laneRefclkReturn k => Sys2Proof.Machine.execLaneRefclkReturn k s
  | .rimPllLoss k => Sys2Proof.Machine.execRimPllLoss k s
  | .testLogicReset => Sys2Proof.Machine.execTestLogicReset s

end Sys2Proof.Machine
end

