-- ==== Sys2Proof/Safety.lean ====
section
/-!
DEFINITION. What counts as a safe run, and the terms the claims use: settled interrupt vectors, canonical memories, a
command that answers a next state, and what a command leaves alone.
-/
namespace Sys2Proof.Machine

/-- Every condition that raises a vector has been taken as it stands, and a pending vector is a masked one (R375). -/
def State.Settled (s : State) : Prop :=
  s.saiga.conds = vectorConds s ∧ ∀ v : Nat, s.saiga.msixPend.getLsbD v = true → masked s v = true

/-- The tables that hold DRAM, host memory and registers are in canonical form: keys strictly rising, and no entry that
equals what an unlisted key reads as. -/
def Memory.wf (s : State) : Bool :=
  Tbl.wf (fun _ => (0 : Byte)) s.dram.bytes && Tbl.wf (fun _ => (0 : Byte)) s.host && Tbl.wf resetOf s.regs

/-- Command `c` answers a next state from `s`, and that state satisfies `P`. -/
def Answers (c : Instr) (s : State) (P : State → Prop) : Prop := ∃ t, exec c s = .next t ∧ P t

/-! ### Frames

The interrupt vectors (pending bits, messages sent, conditions taken) follow their conditions after every command (R375), so
no part below holds them: `saiga` is the rest of the job system. -/

/-- The parts of the state that a frame names. -/
inductive Part where
  | hw | regs | hold | bus | tb | tiles | dies | ex | run | img | banks | dram | aq | rim | ports | mkh | saiga | msg
  | evl | cfg | keys | scr | recov | trc | pwr | tap | host | free | queue
  deriving DecidableEq, Repr

/-- A part of `t` is what it was in `s`.  Memories are compared byte by byte through the model's own reads as well. -/
def Part.Same (s t : State) : Part → Prop
  | .hw => t.hw = s.hw
  | .regs => ∀ a, getReg t a = getReg s a
  | .hold => t.hold = s.hold
  | .bus => t.bus = s.bus
  | .tb => t.tb = s.tb
  | .tiles => ∀ p, tileOf t p = tileOf s p
  | .dies => ∀ d, dieOf t d = dieOf s d
  | .ex => t.ex = s.ex
  | .run => t.run = s.run
  | .img => t.img = s.img
  | .banks => ∀ b, bankOf t b = bankOf s b
  | .dram => (∀ a, dramByte t a = dramByte s a) ∧ (∀ c, chanOf t c = chanOf s c) ∧
      (∀ l, lineErr t l = lineErr s l) ∧ t.dram.lpddr = s.dram.lpddr ∧
      t.dram.ranks = s.dram.ranks ∧ t.dram.dimms = s.dram.dimms ∧ t.dram.capLog2 = s.dram.capLog2 ∧
      t.dram.rowBits = s.dram.rowBits ∧ t.dram.colBits = s.dram.colBits ∧ t.dram.bankBits = s.dram.bankBits ∧
      t.dram.refresh2x = s.dram.refresh2x ∧ t.dram.rfm = s.dram.rfm
  | .aq => (∀ q, inqOf t q = inqOf s q) ∧ (∀ q, outqOf t q = outqOf s q) ∧ t.aq.outSkip = s.aq.outSkip
  | .rim => t.rim = s.rim
  | .ports => ∀ n, portOf t n = portOf s n
  | .mkh => t.mkh = s.mkh
  | .saiga => t.saiga.jobs = s.saiga.jobs ∧ t.saiga.flags = s.saiga.flags ∧ t.saiga.fresh = s.saiga.fresh ∧
      t.saiga.abort = s.saiga.abort ∧ t.saiga.serial = s.saiga.serial ∧ t.saiga.abortRes = s.saiga.abortRes ∧ t.saiga.abortCnt = s.saiga.abortCnt ∧
      ∀ q, queueOf t q = queueOf s q
  | .msg => ∀ f, fifoOf t f = fifoOf s f
  | .evl => t.evl = s.evl
  | .cfg => t.cfg = s.cfg
  | .keys => t.keys = s.keys
  | .scr => t.scr = s.scr
  | .recov => t.recov = s.recov
  | .trc => t.trc = s.trc
  | .pwr => t.pwr = s.pwr
  | .tap => t.tap = s.tap
  | .host => ∀ a, Tbl.get 0 t.host a = Tbl.get 0 s.host a
  | .free => t.freeCount = s.freeCount
  | .queue => t.pending = s.pending

/-- Every part but those listed is unchanged. -/
def Only (ps : List Part) (s t : State) : Prop := ∀ x : Part, x ∉ ps → x.Same s t

/-- Of the registers, none but those listed changes. -/
def OnlyRegs (as : List Nat) (s t : State) : Prop := ∀ a, a ∉ as → getReg t a = getReg s a

/-- Of the tiles, none but `p` changes. -/
def OnlyTile (p : Nat) (s t : State) : Prop := ∀ q, q ≠ p → tileOf t q = tileOf s q

/-- The sticky bit `b` of a page's BLK_STAT and BLK_IRQ is set and no other bit changes (R473). -/
def Stuck (pg b : Nat) (s t : State) : Prop :=
  getReg t (ro pg 0x014) = getReg s (ro pg 0x014) ||| (1 <<< b) ∧ getReg t (ro pg 0x024) = getReg s (ro pg 0x024) ||| (1 <<< b)

/-- A write was discarded: WR_REFUSED of the page, and nothing else, changes (R473). -/
def Refused (pg : Nat) (s t : State) : Prop :=
  Stuck pg (if pageKind pg = .lnk then 0 else 1) s t ∧ OnlyRegs [ro pg 0x014, ro pg 0x024] s t ∧ Only [.regs, .scr] s t

end Sys2Proof.Machine
end

