-- ==== Sys2Proof/WellFormed.lean ====
section
/-!
DEFINITION. Well-formed commands: every operand that names a place is in the range the spec gives that place (68 physical
tiles, 4 dies, 1,024 BPs of a tile, 4 TMEM units, 2 QPORT queues of a tile, 64 array queues a side, 8 submission queues, 128 banks, 8 DRAM
channels, 24 ports, 33 acquisition channels, 16 message FIFOs, 256 contexts, 4,096 pages of BAR0).
-/
namespace Sys2Proof
open Machine

/-- A codeword has 544 symbols, on one of four lanes (R273). -/
def FecErr.wf (e : FecErr) : Bool := decide (e.lane < 4 ∧ 0 < e.wrong ∧ e.wrong ≤ 544)

def LinkPkt.wf (k : LinkPkt) : Bool := k.errs.all FecErr.wf && k.commas.all (fun c => decide (c.lane < 4))

/-- 128 banks of 262,144 words of 64 bits and a parity bit (R190). -/
def BankUpset.wf (u : BankUpset) : Bool := decide (u.bank < 128 ∧ u.word < 262144 ∧ u.bit ≤ 64)

/-- Three copies of a voted field (R433). -/
def VoteUpset.wf (u : VoteUpset) : Bool := decide (u.copy < 3)

def MapUpset.wf (u : MapUpset) : Bool := decide (u.bank < 128 ∧ u.copy < 3)

/-- May a multiplexer in `region` take this source: a signal of the region itself, a pin or queue that it serves, or a line
that runs into it (R240)? -/
def RimSrc.wf (net : RimNet) (region : Nat) : RimSrc → Bool
  | .low => true
  | .paceTick => true
  | .table c => decide (c < 98304 ∧ clusterRegion (cellCluster c) = region)
  | .flop c => decide (c < 98304 ∧ clusterRegion (cellCluster c) = region)
  | .carry c => decide (c < 98304 ∧ clusterRegion (cellCluster c) = region)
  | .mux4 c => decide (c < 98304 ∧ clusterRegion (cellCluster c) = region)
  | .mux16 cl g => decide (cl < 6144 ∧ g < 4 ∧ clusterRegion cl = region)
  | .mux32 cl h => decide (cl < 6144 ∧ h < 2 ∧ clusterRegion cl = region)
  | .wire w => match net.wires[w]? with | some m => m.place.region == region | none => false
  | .line r up i => decide (r < 4 ∧ i < 1024 ∧ lineInto r up = region)
  | .pinR p => decide (p < 192 ∧ p / 48 = region)
  | .pinF p => decide (p < 192 ∧ p / 48 = region)
  | .iqFull q => decide (q < 64 ∧ q / 16 = region)
  | .oqValid q => decide (q < 64 ∧ q / 16 = region)
  | .oqData q i => decide (q < 64 ∧ q / 16 = region ∧ i < 64)
  | .oqCyc q i => decide (q < 64 ∧ q / 16 = region ∧ i < 16)

/-- A multiplexer in `region`, its place within the region's grid. -/
def RimMux.wf (net : RimNet) (region : Nat) (m : RimMux) : Bool :=
  decide (m.place.region = region ∧ m.place.col < 48 ∧ m.place.row < 32 ∧ m.place.cell < 16 ∧ m.place.field < 256) &&
    m.src.all (RimSrc.wf net region)

/-- A cell of six inputs, which stand at its place; the multiplexer that its flip-flop registers ends at it (R243). -/
def RimCell.wf (net : RimNet) (c : RimCell) : Bool :=
  decide (c.at_ < 98304 ∧ c.ins.length = 6 ∧
    (c.wide = 0 ∨ (c.wide = 16 ∧ c.at_ % 4 = 3) ∨ (c.wide = 32 ∧ c.at_ % 8 = 7))) &&
    c.ins.all (fun m => m.wf net (clusterRegion (cellCluster c.at_)) && m.place == cellPlace c.at_ m.place.field)

def RimCluster.wf (net : RimNet) (c : RimCluster) : Bool :=
  decide (c.at_ < 6144 ∧ c.clk < 8 ∧ c.sel.length = 10) &&
    (c.enable :: c.reset :: c.sel).all (fun m => m.wf net (clusterRegion c.at_) && m.place == clusterPlace c.at_ m.place.field)

/-- An input queue has 64 bits of data and a push, an output queue a pop. -/
def RimPort.wf (net : RimNet) (q : RimPort) : Bool :=
  decide (q.at_ < 128 ∧ q.muxes.length = if q.at_ < 64 then 65 else 1) && q.muxes.all (fun m => m.wf net (q.at_ % 64 / 16))

/-- 98,304 cells in 6,144 clusters, 1,024 lines each way between adjacent regions, 192 pins, 128 queues, eight RIMCLKs of four
PLLs divided by 1 to 64 (R240 to R246). -/
def RimNet.wf (net : RimNet) : Bool :=
  net.cells.all (RimCell.wf net) && net.clusters.all (RimCluster.wf net) &&
  net.wires.all (fun m => m.wf net m.place.region && decide (m.place.region < 4)) &&
  net.lines.all (fun l => decide (l.region < 4 ∧ l.idx < 1024) && l.mux.wf net l.region) &&
  net.pins.all (fun p => decide (p.at_ < 192) && [p.outR, p.outF, p.oe].all (fun m => m.wf net (p.at_ / 48))) &&
  net.queues.all (RimPort.wf net) &&
  net.groups.all (fun c => decide (c < 8)) && net.refs.all (fun r => decide (r < 16)) &&
  net.plls.all (fun k => decide (k < 4)) && net.divs.all (fun v => decide (1 ≤ v ∧ v ≤ 64))

/-- Every operand lies in its range. -/
def Instr.wf : Instr → Bool
  | .stepIssue p _ => decide (p < 68)
  | .stepWordRefetch p bp _ => decide (p < 68 ∧ bp < 1024)
  | .eval p _ => decide (p < 68)
  | .send p bp => decide (p < 68 ∧ bp < 1024)
  | .tmemRead p u _ => decide (p < 68 ∧ u < 4)
  | .tmemAddr p u => decide (p < 68 ∧ u < 4)
  | .tmemWrite p u => decide (p < 68 ∧ u < 4)
  | .tmemSwap p u _ => decide (p < 68 ∧ u < 4)
  | .qrd p q => decide (p < 68 ∧ q < 2)
  | .qwa p q => decide (p < 68 ∧ q < 2)
  | .qwd p q => decide (p < 68 ∧ q < 2)
  | .qpop p q => decide (p < 68 ∧ q < 2)
  | .setmask p => decide (p < 68)
  | .setval p => decide (p < 68)
  | .matchOp p => decide (p < 68)
  | .probe p => decide (p < 68)
  | .msgCtl p => decide (p < 68)
  | .msgPush p => decide (p < 68)
  | .pushEop p => decide (p < 68)
  | .msgEop p => decide (p < 68)
  | .cntInc p => decide (p < 68)
  | .ldsel p => decide (p < 68)
  | .cntLoad p => decide (p < 68)
  | .cntRead p => decide (p < 68)
  | .nop p bp => decide (p < 68 ∧ bp < 1024)
  | .waitq p bp => decide (p < 68 ∧ bp < 1024)
  | .endStep p bp => decide (p < 68 ∧ bp < 1024)
  | .tracept p bp => decide (p < 68 ∧ bp < 1024)
  | .halt p bp => decide (p < 68 ∧ bp < 1024)
  | .tokenOffer d => decide (d < 4)
  | .heavyReturn p _ => decide (p < 68)
  | .qrdResponseReady p q => decide (p < 68 ∧ q < 2)
  | .qwdHandoff p q => decide (p < 68 ∧ q < 2)
  | .combineWindowRelease p _ => decide (p < 68)
  | .flitInject p r => decide (p < 68 ∧ r < 2)
  | .flitDeliver p _ _ => decide (p < 68)
  | .bridgeTake d _ => decide (d < 4)
  | .mainRingExit _ _ => true
  | .outputFlitArrive _ => true
  | .begunTokenSend dev => decide (dev < 16)
  | .closeC2 p => decide (p < 68)
  | .closeC3 p => decide (p < 68)
  | .closeC5 p => decide (p < 68)
  | .closeC8 p _ => decide (p < 68)
  | .cycleLimitStop => true
  | .inputRecordForm => true
  | .stallLimit p => decide (p < 68)
  | .faultStopTimeout p => decide (p < 68)
  | .paceTick => true
  | .paceMiss => true
  | .admCheck _ _ => true
  | .powerMeasure _ => true
  | .budgetAdjust _ => true
  | .clockAdjust _ _ => true
  | .powerPace => true
  | .pllSwitch d => decide (d < 4)
  | .pwrCapWrite _ => true
  | .tokBudWrite d _ => decide (d < 4)
  | .clkCeilWrite d _ => decide (d < 4)
  | .ownerWrite b _ => decide (b < 128)
  | .ownerHandover b => decide (b < 128)
  | .bankParityRepair b => decide (b < 128)
  | .ckptRegionCopy d ups => decide (d < 4) && ups.all BankUpset.wf
  | .ttRegionStart d ups => decide (d < 4) && ups.all BankUpset.wf
  | .ttRegionDone d _ => decide (d < 4)
  | .ttAbortDone d => decide (d < 4)
  | .dramRequestAccept ch _ => decide (ch < 8)
  | .dramServe ch _ _ _ => decide (ch < 8)
  | .writeDrain ch _ _ => decide (ch < 8)
  | .ageLimit ch _ => decide (ch < 8)
  | .dramRefresh ch rank => decide (ch < 8 ∧ rank < 4)
  | .actTableClear => true
  | .selfRefreshEntry ch => decide (ch < 8)
  | .powerDownEntry ch rank => decide (ch < 8 ∧ rank < 4)
  | .patrolScrub ch line _ => decide (ch < 8 ∧ line < 34359738368)
  | .zqCalibration ch rank _ => decide (ch < 8 ∧ rank < 4)
  | .dqsTracking ch _ _ => decide (ch < 8)
  | .retrain _ => true
  | .retrainDone _ => true
  | .wmWrite _ => true
  | .resvWrite _ => true
  | .iqPush q _ => decide (q < 64)
  | .outQueueEntryVisible q => decide (q < 64)
  | .oqValid q => decide (q < 64)
  | .oqPop q => decide (q < 64)
  | .rimRun _ => true
  | .rimHold _ => true
  | .rimRelease => true
  | .rimPllLock k => decide (k < 4)
  | .softReset _ => true
  | .softResetDone => true
  | .aqClr _ => true
  | .delayWrite pin _ => decide (pin < 192)
  | .delayWalkStep pin => decide (pin < 192)
  | .delayTrack => true
  | .rimCapture _ => true
  | .signalDetect n => decide (n < 24)
  | .cdrLock n => decide (n < 24)
  | .commaAlign n seen _ => decide (n < 24) && decide (seen.length ≤ 4)
  | .fecLock n _ errs => decide (n < 24) && errs.all FecErr.wf
  | .bringupRetry n => decide (n < 24)
  | .helloResend n => decide (n < 24)
  | .packetSend n _ => decide (n < 24)
  | .exchPacket n pk => decide (n < 24) && pk.wf
  | .stream n pk _ => decide (n < 24) && pk.wf
  | .marker n pk _ => decide (n < 24) && pk.wf
  | .hello n pk => decide (n < 24) && pk.wf
  | .helloAck n pk => decide (n < 24) && pk.wf
  | .runinfo n pk => decide (n < 24) && pk.wf
  | .mapsync n pk => decide (n < 24) && pk.wf
  | .user n pk => decide (n < 24) && pk.wf
  | .errorMsg n pk => decide (n < 24) && pk.wf
  | .ack n _ => decide (n < 24)
  | .nak n _ => decide (n < 24)
  | .ackSend n => decide (n < 24)
  | .credit n _ => decide (n < 24)
  | .creditReturn n => decide (n < 24)
  | .retryTimeout n => decide (n < 24)
  | .ping n _ => decide (n < 24)
  | .pingSend n => decide (n < 24)
  | .pong n _ _ => decide (n < 24)
  | .pongTimeout n tag => decide (n < 24 ∧ tag < 65536)
  | .markerSend n => decide (n < 24)
  | .laneFail n lane => decide (n < 24 ∧ lane < 4)
  | .laneDown n _ => decide (n < 24)
  | .laneDownRepeat n _ => decide (n < 24)
  | .restripe n => decide (n < 24)
  | .eidleBlock n _ => decide (n < 24)
  | .resetBlock n _ => decide (n < 24)
  | .eidleRequest n _ => decide (n < 24)
  | .eidleExit n => decide (n < 24)
  | .recal n _ => decide (n < 24)
  | .recalDone n seen _ _ errs => decide (n < 24) && decide (seen.length ≤ 4) && errs.all FecErr.wf
  | .portReset n _ => decide (n < 24)
  | .ctlTxData n _ => decide (n < 24)
  | .ctlTxSend n _ => decide (n < 24)
  | .ctlRxData n => decide (n < 24)
  | .sequencerEvent => true
  | .trigInEdge k _ _ => decide (k < 4)
  | .trigOutPulse k => decide (k < 4)
  | .trigOutPulseEnd k => decide (k < 4)
  | .probeWordArrive _ => true
  | .segmentCommit c => decide (c < 33)
  | .segmentPostDone c => decide (c < 33)
  | .channelRearm c => decide (c < 33)
  | .recordDrain c ups => decide (c < 33) && ups.all BankUpset.wf
  | .rateCheck c _ => decide (c < 33)
  | .mkhForce _ => true
  | .disarm _ => true
  | .sqDoorbell q _ => decide (q < 8)
  | .cqDoorbell q _ => decide (q < 8)
  | .descriptorCopy q _ => decide (q < 8)
  | .contextTake q => decide (q < 8)
  | .jobReady ctx => decide (ctx < 256)
  | .jobDispatch x => decide (x < 14)
  | .jobRelease q => decide (q < 8)
  | .irqCoalesceTimer q => decide (q < 8)
  | .sqEnable q _ => decide (q < 8)
  | .flagSet _ => true
  | .flagClr _ => true
  | .abortJob _ => true
  | .abortQueue _ => true
  | .abortRun _ => true
  | .abortDevice _ => true
  | .abortDecided => true
  | .copy x => decide (x < 8)
  | .dmaCopy x _ _ _ _ ups _ => decide (x < 8) && ups.all BankUpset.wf
  | .load _ _ _ => true
  | .loadEnd _ _ _ => true
  | .swap => true
  | .imageSwap net _ => net.wf
  | .start _ => true
  | .grant => true
  | .stop => true
  | .capture => true
  | .snapDrain => true
  | .arm => true
  | .readout _ _ _ ups _ => ups.all BankUpset.wf
  | .bankTest => true
  | .bankTestDone _ => true
  | .tileTest => true
  | .tileTestDone _ bp addr => decide (bp < 1024 ∧ addr < 4096)
  | .msgDataLo f _ => decide (f < 16)
  | .dropPkt f => decide (f < 16)
  | .msgClr f => decide (f < 16)
  | .evlData0 => true
  | .evlClr => true
  | .bar2Read off _ _ => decide (off < 68719476736)
  | .bar2Write off _ => decide (off < 68719476736)
  | .functionLevelReset => true
  | .tbLo _ => true
  | .rcRead off size => decide (off < 16842752 ∧ (0 < size ∧ size ≤ 4096))
  | .clrSticky page => decide (page < 4096)
  | .indAddrWrite page _ => decide (page < 4096)
  | .indDataRead page ups => decide (page < 4096) && ups.all BankUpset.wf
  | .indDataWrite page _ => decide (page < 4096)
  | .registerWrite off size _ => decide (off < 16842752 ∧ (0 < size ∧ size ≤ 4096))
  | .tileMapWrite i _ => decide (i < 64)
  | .fenceWrite d _ => decide (d < 4)
  | .linkMapWrite dev _ => decide (dev < 16)
  | .bootBusStart _ => true
  | .bootData _ => true
  | .headerReceived => true
  | .sectionStage => true
  | .containerVerify _ => true
  | .dramTrainDone _ _ => true
  | .ready net => net.wf
  | .bootFrmDrop => true
  | .bootDataTimeout => true
  | .stagedClear => true
  | .reload _ => true
  | .keyWr _ => true
  | .keyWrTimeout => true
  | .zeroise _ => true
  | .tamper => true
  | .vbatLoss => true
  | .fuseKeybuf _ => true
  | .fuseProgKey _ => true
  | .fuseBlowPlainDis _ => true
  | .fuseBlowBbramDis _ => true
  | .fuseBlowHostBootDis _ => true
  | .fuseProgDone _ => true
  | .heartbeatLoss p => decide (p < 68)
  | .rollback _ => true
  | .rollbackDone => true
  | .checkpointBoundary => true
  | .checkpointComplete => true
  | .ckptNow _ => true
  | .scrubRegion storage tile _ _ _ _ => decide (storage < 8 ∧ tile < 68)
  | .commit _ => true
  | .commitDone => true
  | .voteSweep ups maps => ups.all VoteUpset.wf && maps.all MapUpset.wf
  | .traceLineFlush s => decide (s < 5)
  | .traceStagingDrain s ups => decide (s < 5) && ups.all BankUpset.wf
  | .trcEnable _ => true
  | .trcRpWrite _ => true
  | .trcMark _ => true
  | .authNew => true
  | .authLock => true
  | .authToken _ => true
  | .pwrReqRun => true
  | .pwrReqIdle => true
  | .pwrReqDoze => true
  | .powerEntryDone => true
  | .powerExitDone => true
  | .d3hotEntry => true
  | .d0Entry => true
  | .thermWarn j _ => decide (j < 5)
  | .thermalRestore => true
  | .thermtrip j _ => decide (j < 5)
  | .refLoss => true
  | .laneRefclkLoss k => decide (k < 4)
  | .pcieRefclkLoss => true
  | .porstN => true
  | .sysrstN => true
  | .perstN => true
  | .rstCtlSoft _ => true
  | .resetRelease _ => true
  | .startupPllLock => true
  | .loaderWaitSrc => true
  | .extest _ _ => true
  | .samplePreload _ _ => true
  | .idcode => true
  | .highz => true
  | .clamp => true
  | .bypass => true
  | .signalReturn n _ => decide (n < 24)
  | .laneRefclkReturn k => decide (k < 4)
  | .rimPllLoss k => decide (k < 4)
  | .testLogicReset => true

end Sys2Proof
end

