-- ==== Sys2Proof/Certificates/Slice0/Obligations.lean ====
section
/-!
DEFINITION. The statements for the provers: what each command does when what it needs is there, what it leaves alone, what
is refused, and what holds of the whole machine.  A statement of several parts is a conjunction of parts named `Obl`.
-/
section Statements
open Sys2Proof
open Sys2Proof.Machine

/-! ## Heavy units (05) -/

/-- The oldest issue of unit `u` of tile `p` is `i`, of operation `op`, and the tile is not fenced. -/
abbrev Obl.head (s : State) (p u op : Nat) (i : Issue) : Prop :=
  headIssue (tileOf s p) (fun x => x.unit == u) = some i ∧ i.op = op ∧ fenced s p = false

/-- Tile `p` of `t` is tile `p` of `s` with its units changed by `f` and issue `i` gone; no other tile and no other part
of the state but those in `ps` changes. -/
abbrev Obl.unitOnly (ps : List Part) (s t : State) (p : Nat) (i : Issue) (f : Units → Units) : Prop :=
  tileOf t p = { tileOf s p with un := f { (tileOf s p).un with issues := (tileOf s p).un.issues.erase i } } ∧
    OnlyTile p s t ∧ Only (.tiles :: ps) s t

/-- A return to band `b` from mailbox `m` on, for cycle `c`. -/
def Obl.ret (b m : Nat) (ws : List Word) (c : Nat) : Ret := { band := b, base := m, words := ws, cyc := c }

/-- R137, R140, R143: SETMASK, SETVAL, MSG.CTL and LDSEL store the band word of the oldest issue of their unit. -/
def Obl.UnitRegistersTakeTheBandWord : Prop :=
  (∀ s p i, Obl.head s p 6 0 i →
    Answers (.setmask p) s (fun t => Obl.unitOnly [] s t p i (fun u => { u with cmpMask := i.word }))) ∧
  (∀ s p i, Obl.head s p 6 1 i →
    Answers (.setval p) s (fun t => Obl.unitOnly [] s t p i (fun u => { u with cmpVal := i.word }))) ∧
  (∀ s p i, Obl.head s p 7 0 i →
    Answers (.msgCtl p) s (fun t => Obl.unitOnly [] s t p i (fun u => { u with msg := i.word }))) ∧
  (∀ s p i, Obl.head s p 8 1 i →
    Answers (.ldsel p) s (fun t => Obl.unitOnly [] s t p i (fun u => { u with ldsel := i.word.toNat % 4 })))

/-- R143: INC adds 1 modulo 2^64 to every counter whose bit of the band word is 1, LOAD loads the selected counter, READ
returns the counter of bits [1:0] to the mailbox of bits [15:8] of the issuing band. -/
def Obl.CounterOperations : Prop :=
  (∀ s p i, Obl.head s p 8 0 i → Answers (.cntInc p) s (fun t =>
    Obl.unitOnly [] s t p i (fun u => { u with cnt := (tileOf t p).un.cnt }) ∧
    ∀ k, Tbl.get 0 (tileOf t p).un.cnt k = Tbl.get 0 (tileOf s p).un.cnt k + if k < 4 ∧ i.word.getLsbD k = true then 1 else 0)) ∧
  (∀ s p i, Obl.head s p 8 2 i → Answers (.cntLoad p) s (fun t =>
    Obl.unitOnly [] s t p i (fun u => { u with cnt := (tileOf t p).un.cnt }) ∧
    ∀ k, Tbl.get 0 (tileOf t p).un.cnt k = if k = (tileOf s p).un.ldsel then i.word else Tbl.get 0 (tileOf s p).un.cnt k)) ∧
  (∀ s p i, Obl.head s p 8 3 i → Answers (.cntRead p) s (fun t =>
    Obl.unitOnly [] s t p i (fun u => { u with returns := u.returns ++ [Obl.ret i.band (fld i.word 8 8)
      [Tbl.get 0 (tileOf s p).un.cnt (i.word.toNat % 4)] i.cyc] })))

/-- R138, R139: a MATCH whose masked difference is not zero does nothing; a match counts in CMP_CNT and, with SAIGA_EN, sets
the flag that CMP_CFG names; a PROBE word goes to Markhor under the index that PROBEMAP gives its tag. -/
def Obl.CompareAndProbe : Prop :=
  (∀ s p i, Obl.head s p 6 2 i → (i.word ^^^ (tileOf s p).un.cmpVal) &&& (tileOf s p).un.cmpMask ≠ 0 →
    Answers (.matchOp p) s (fun t => Obl.unitOnly [] s t p i id)) ∧
  (∀ s p i, Obl.head s p 6 2 i → (i.word ^^^ (tileOf s p).un.cmpVal) &&& (tileOf s p).un.cmpMask = 0 → s.recov.skip = [] →
    s.recov.active = false → regF s (ro (pTil p) 0x1C0) 16 2 = 0 →
    Answers (.matchOp p) s (fun t => Obl.unitOnly [.regs, .scr] s t p i id ∧ OnlyRegs [ro (pTil p) 0x1C4] s t ∧
      (getReg t (ro (pTil p) 0x1C4)).toNat = min 0xFFFFFFFF ((getReg s (ro (pTil p) 0x1C4)).toNat + 1))) ∧
  (∀ s p i, Obl.head s p 6 2 i → (i.word ^^^ (tileOf s p).un.cmpVal) &&& (tileOf s p).un.cmpMask = 0 → s.recov.skip = [] →
    s.recov.active = false → regF s (ro (pTil p) 0x1C0) 16 2 = 1 →
    Answers (.matchOp p) s (fun t =>
      (ctxFlags t (regF s (ro (pTil p) 0x1C0) 8 8)).getLsbD (regF s (ro (pTil p) 0x1C0) 0 6) = true ∧
      OnlyTile p s t ∧ Only [.tiles, .regs, .scr, .saiga, .run] s t)) ∧
  (∀ s p i l k, Obl.head s p 6 3 i → s.recov.skip = [] → s.recov.active = false → logicalOf s p = some l →
    (l, i.band, i.step, k) ∈ s.img.probeMap →
    (∀ e ∈ s.img.probeMap, e.1 = l ∧ e.2.1 = i.band ∧ e.2.2.1 = i.step → e.2.2.2 = k) →
    Answers (.probe p) s (fun t => Obl.unitOnly [.mkh] s t p i id ∧
      t.mkh = { s.mkh with probes := s.mkh.probes ++ [(k, i.cyc, i.word)] }))

/-- MSG of tile `p` is enabled on FIFO `f`, which is bound to the tile, and no rollback re-executes. -/
abbrev Obl.msgOn (s : State) (p f : Nat) : Prop :=
  fld (tileOf s p).un.msg 0 4 = f ∧ (tileOf s p).un.msg.getLsbD 8 = true ∧
  Tbl.get 0xFF s.img.msgBind f = logicalNo s p ∧ s.recov.skip = [] ∧ s.recov.active = false

/-- R140, R141: a PUSH appends its word to the open packet of the bound FIFO, PUSH_EOP also ends the packet, EOP ends an open
packet when bit 0 is 1; the packet becomes visible when it ends.  From a tile that the FIFO is not bound to, nothing but
MSG_DISC changes. -/
def Obl.MessageOperations : Prop :=
  (∀ s p f i, Obl.head s p 7 1 i → Obl.msgOn s p f → (fifoOf s f).held < 4096 → (fifoOf s f).opn.length < 31 →
    Answers (.msgPush p) s (fun t => Obl.unitOnly [.msg] s t p i id ∧
      fifoOf t f = { fifoOf s f with opn := (fifoOf s f).opn ++ [i.word] } ∧ ∀ g, g ≠ f → fifoOf t g = fifoOf s g)) ∧
  (∀ s p f i, Obl.head s p 7 2 i → Obl.msgOn s p f → (fifoOf s f).held < 4096 →
    Answers (.pushEop p) s (fun t => Obl.unitOnly [.msg] s t p i id ∧
      fifoOf t f = { fifoOf s f with vis := (fifoOf s f).vis ++ [(fifoOf s f).opn ++ [i.word]], opn := [] } ∧
      ∀ g, g ≠ f → fifoOf t g = fifoOf s g)) ∧
  (∀ s p f i, Obl.head s p 7 3 i → Obl.msgOn s p f → i.word.getLsbD 0 = true → (fifoOf s f).opn ≠ [] →
    Answers (.msgEop p) s (fun t => Obl.unitOnly [.msg] s t p i id ∧
      fifoOf t f = { fifoOf s f with vis := (fifoOf s f).vis ++ [(fifoOf s f).opn], opn := [] } ∧
      ∀ g, g ≠ f → fifoOf t g = fifoOf s g)) ∧
  (∀ s p i, Obl.head s p 7 1 i → (tileOf s p).un.msg.getLsbD 8 = true →
    Tbl.get 0xFF s.img.msgBind (fld (tileOf s p).un.msg 0 4) ≠ logicalNo s p →
    Answers (.msgPush p) s (fun t => Obl.unitOnly [.regs, .scr] s t p i id ∧ OnlyRegs [ro (pTil p) 0x1D0] s t ∧
      (getReg t (ro (pTil p) 0x1D0)).toNat = min 0xFFFFFFFF ((getReg s (ro (pTil p) 0x1D0)).toNat + 1)))

/-- The statements above together: compare, probe and message operations. -/
def Obligations.CompareProbeAndMessages : Prop := Obl.CompareAndProbe ∧ Obl.MessageOperations

/-- Unit `u`'s operation `op` is the oldest TMEM issue `i` of tile `p`, with address word `a`; the tile owns the bank, and
nothing delays the access, and a word that is read has its parity. -/
abbrev Obl.tmem (s : State) (p u op : Nat) (i : Issue) (a : Word) : Prop :=
  headIssue (tileOf s p) (fun x => decide (x.unit < 4)) = some i ∧ i.unit = u ∧ i.op = op ∧ fenced s p = false ∧
  a = (if op = 0 then i.word else Tbl.get 0 (tileOf s p).un.tmem u) ∧
  bankOwner s (tmBank (p / 17) a) = logicalNo s p ∧ (bankOf s (tmBank (p / 17) a)).due = none ∧
  (dieOf s (p / 17)).tt = none ∧ (bankOf s (tmBank (p / 17) a)).pend = [] ∧
  s.banks.all (fun e => e.2.repair.isNone) = true ∧
  (op = 2 ∨ badWord (Tbl.get 0 (bankOf s (tmBank (p / 17) a)).words (fld a 0 18)) = false)

/-- The word at its address is `v` and every other bank word is unchanged. -/
abbrev Obl.bankWord (s t : State) (b w : Nat) (v : Word) : Prop :=
  ∀ b' w', (bankOf t b').word w' = if b' = b ∧ w' = w then v else (bankOf s b').word w'

/-- R126, R127: ADDR latches its address word; READ returns the addressed word; WRITE with WEN 1 stores the band word; SWAP
stores it and returns the word before; without WEN nothing is written. -/
def Obligations.TmemOperations : Prop :=
  (∀ s p u i, headIssue (tileOf s p) (fun x => decide (x.unit < 4)) = some i → i.unit = u → i.op = 1 →
    Answers (.tmemAddr p u) s (fun t =>
      Obl.unitOnly [] s t p i (fun x => { x with tmem := (tileOf t p).un.tmem }) ∧
      ∀ k, Tbl.get 0 (tileOf t p).un.tmem k = if k = u then i.word else Tbl.get 0 (tileOf s p).un.tmem k)) ∧
  (∀ s p u i a, Obl.tmem s p u 0 i a → Answers (.tmemRead p u none) s (fun t => Obl.unitOnly [] s t p i (fun x =>
    { x with returns := x.returns ++ [Obl.ret i.band (fld a 24 8)
      [(bankOf s (tmBank (p / 17) a)).word (fld a 0 18)] i.cyc] }))) ∧
  (∀ s p u i a, Obl.tmem s p u 2 i a → a.getLsbD 23 = true → Answers (.tmemWrite p u) s (fun t =>
    Obl.unitOnly [.banks] s t p i id ∧ Obl.bankWord s t (tmBank (p / 17) a) (fld a 0 18) i.word)) ∧
  (∀ s p u i a, Obl.tmem s p u 3 i a → a.getLsbD 23 = true → Answers (.tmemSwap p u none) s (fun t =>
    Obl.unitOnly [.banks] s t p i (fun x => { x with returns := x.returns ++ [Obl.ret i.band (fld a 24 8)
      [(bankOf s (tmBank (p / 17) a)).word (fld a 0 18)] i.cyc] }) ∧
    Obl.bankWord s t (tmBank (p / 17) a) (fld a 0 18) i.word)) ∧
  (∀ s p u i a, Obl.tmem s p u 2 i a → a.getLsbD 23 = false →
    Answers (.tmemWrite p u) s (fun t => Obl.unitOnly [] s t p i id))

/-- R129, R130, R132: QWA latches its word; a QRD in its region takes a place and goes to the controller of its channel; a QWD
without WEN does nothing, with WEN it takes a place and carries its word. -/
def Obl.QportRequests : Prop :=
  (∀ s p q i, q < 2 → Obl.head s p (4 + q) 1 i → Answers (.qwa p q) s (fun t =>
    Obl.unitOnly [] s t p i (fun u => u.setPort q { u.port q with latch := i.word }))) ∧
  (∀ s p q i, q < 2 → Obl.head s p (4 + q) 0 i → fld i.word 41 22 = 0 →
    regionAllows s (logicalNo s p) q (qpAddr i.word / 64 * 64) false = true →
    Answers (.qrd p q) s (fun t => OnlyTile p s t ∧ Only [.tiles, .dram] s t ∧ (∀ a, dramByte t a = dramByte s a) ∧
      ((tileOf t p).un.port q).places.length = ((tileOf s p).un.port q).places.length + 1 ∧
      (chanOf t (channelOf (qpAddr i.word / 64 * 64))).arriving.length =
        (chanOf s (channelOf (qpAddr i.word / 64 * 64))).arriving.length + 1)) ∧
  (∀ s p q i, q < 2 → Obl.head s p (4 + q) 2 i → ((tileOf s p).un.port q).latch.getLsbD 63 = false →
    Answers (.qwd p q) s (fun t => Obl.unitOnly [] s t p i id)) ∧
  (∀ s p q i, q < 2 → Obl.head s p (4 + q) 2 i → ((tileOf s p).un.port q).latch.getLsbD 63 = true →
    fld ((tileOf s p).un.port q).latch 41 22 = 0 →
    regionAllows s (logicalNo s p) q (qpAddr ((tileOf s p).un.port q).latch / 8 * 8) true = true →
    Answers (.qwd p q) s (fun t => OnlyTile p s t ∧ Only [.tiles, .dram] s t ∧ (∀ a, dramByte t a = dramByte s a) ∧
      ((tileOf t p).un.port q).places.dropLast = ((tileOf s p).un.port q).places ∧
      ((tileOf t p).un.port q).places.getLast?.map (fun r => (r.write, r.data)) = some (true, i.word)))

/-- R133 to R135, R216: responses pass to the response buffer in request order, out of the reorder buffer, and LAT_MAX of their
channel holds the longest time; one that an older request holds up stays; a QWD that the controller has taken frees its place; a QPOP with a pop
credit takes the oldest ready response and returns its eight words. -/
def Obl.QportResponses : Prop :=
  (∀ s p q r pre post, q < 2 → ((tileOf s p).un.port q).places = pre ++ r :: post →
    (∀ x ∈ pre, x.write = true ∨ x.stage = .ready) → (∀ x ∈ pre ++ post, x.id ≠ r.id) → r.write = false →
    r.stage = .reorder → r.oor = true →
    Answers (.qrdResponseReady p q) s (fun t =>
      ((tileOf t p).un.port q).places = pre ++ { r with stage := .ready } :: post ∧ OnlyTile p s t ∧ Only [.tiles] s t)) ∧
  (∀ s p q r pre post, q < 2 → ((tileOf s p).un.port q).places = pre ++ r :: post →
    (∀ x ∈ pre, x.write = true ∨ x.stage = .ready) → (∀ x ∈ pre ++ post, x.id ≠ r.id) → r.write = false →
    r.stage = .reorder → r.oor = false →
    Answers (.qrdResponseReady p q) s (fun t =>
      ((tileOf t p).un.port q).places = pre ++ { r with stage := .ready } :: post ∧
      (getReg t (ro (pDdr (channelOf r.addr)) 0x0A0)).toNat =
        max (getReg s (ro (pDdr (channelOf r.addr)) 0x0A0)).toNat (min 0xFFFF ((s.tb - r.t0).toNat / 256)) ∧
      OnlyRegs [ro (pDdr (channelOf r.addr)) 0x0A0] s t ∧ OnlyTile p s t ∧ Only [.tiles, .regs, .scr] s t)) ∧
  (∀ s p q r pre post, q < 2 → ((tileOf s p).un.port q).places = pre ++ r :: post →
    (∀ x ∈ pre, x.write = true ∨ x.stage = .ready) → r.write = false → (r.stage = .hub ∨ r.stage = .atController) →
    Answers (.qrdResponseReady p q) s (fun t => Only [] s t)) ∧
  (∀ s p q r, q < 2 → ((tileOf s p).un.port q).places = [r] → r.write = true → r.stage = .atController →
    Answers (.qwdHandoff p q) s (fun t => ((tileOf t p).un.port q).places = [] ∧ OnlyTile p s t ∧ Only [.tiles] s t)) ∧
  (∀ s p q i r, q < 2 → headIssue (tileOf s p) (fun x => x.unit == 4 + q) = some i → i.op = 3 →
    0 < ((tileOf s p).un.port q).credits → ((tileOf s p).un.port q).reads.head? = some r → r.stage = .ready →
    r.poisoned = none →
    Answers (.qpop p q) s (fun t => Obl.unitOnly [] s t p i (fun u =>
      { (u.setPort q { u.port q with places := (u.port q).places.erase r, credits := (u.port q).credits - 1 }) with
        returns := u.returns ++ [Obl.ret i.band (i.word.toNat % 256) r.resp i.cyc] })))

/-- The statements above together: QPORT requests, their responses and pops.
The model's own choices in it: log entry 85. -/
def Obligations.QportRequestsAndResponses : Prop := Obl.QportRequests ∧ Obl.QportResponses

/-- R144, R145: in a period of a die, its one waiting tile takes the tokens it needs from the budget, and the pointer
advances; with no tile waiting only the pointer moves. -/
def Obl.TokensGoRoundTheDie : Prop :=
  (∀ s d, (∀ k, k < 17 → tokenNeed s (17 * d + k) = 0) → Answers (.tokenOffer d) s (fun t =>
    dieOf t d = { dieOf s d with tokPtr := ((dieOf s d).tokPtr + 1) % 17 } ∧ Only [.dies] s t ∧
    ∀ e, e ≠ d → dieOf t e = dieOf s e)) ∧
  (∀ s d k, k < 17 → (∀ j, j < 17 → j ≠ k → tokenNeed s (17 * d + j) = 0) → 0 < tokenNeed s (17 * d + k) →
    tokenNeed s (17 * d + k) ≤ regF s (ro pPwr (0x0A0 + 4 * d)) 0 8 → Answers (.tokenOffer d) s (fun t =>
    (tileOf t (17 * d + k)).un.tokens = (tileOf s (17 * d + k)).un.tokens + tokenNeed s (17 * d + k) ∧
    (dieOf t d).tokPtr = ((dieOf s d).tokPtr + 1) % 17 ∧ OnlyTile (17 * d + k) s t ∧ Only [.tiles, .dies] s t))

/-- The statements above together: the registers of the units, the counters and the tokens of a die. -/
def Obligations.UnitRegistersCountersAndTokens : Prop := Obl.UnitRegistersTakeTheBandWord ∧ Obl.CounterOperations ∧ Obl.TokensGoRoundTheDie

/-! ## Array steps (02, 03) -/

/-- R80, R182, R183, R186: the fault record of physical tile `p`: FLT_STAT, FLT_LOC, FLT_STEP, FLT_CYC, FLT_DETAIL and the
event FAULT. -/
abbrev Obl.faulted (s t : State) (p code bp step : Nat) (close : Bool) (cyc : Nat) (detail : Reg) : Prop :=
  getReg t (ro (pTil p) 0x100) = (place 32 0 8 code ||| place 32 8 1 1 ||| place 32 9 1 close.toNat) ∧
  regF t (ro (pTil p) 0x104) 0 10 = bp % 1024 ∧ regF t (ro (pTil p) 0x104) 14 2 = p / 17 % 4 ∧
  regF t (ro (pTil p) 0x104) 16 5 = p % 17 ∧ getReg t (ro (pTil p) 0x108) = BitVec.ofNat 32 step ∧
  reg64 t (ro (pTil p) 0x10C) (ro (pTil p) 0x110) = cyc % cycleLimit ∧ getReg t (ro (pTil p) 0x114) = detail ∧
  t.evl.log.getLast? = some { time := s.tb, code := 0x0004, page := pTil p, detail := fltFirst p code }

/-- R79: a tile with its clock is about to begin a step, and nothing holds it. -/
abbrev Obl.canBegin (s : State) (p : Nat) : Prop :=
  onClock s p = true ∧ (tileOf s p).phase = .ready ∧ fenced s p = false ∧ trcHolds s (p / 17) = false ∧
  ((tileOf s p).step ≠ 0 ∨ paceOpen s (tileOf s p).cycle = true)

/-- The tile has begun its step and waits for what R60 lists; its store is `st`. -/
abbrev Obl.begun (s t : State) (p : Nat) (st : Store) (since : Word) (tok : Nat) : Prop :=
  tileOf t p = { tileOf s p with
    st := st, phase := .waiting, since := since, un := { (tileOf s p).un with tokens := tok }, wait := (tileOf t p).wait } ∧
  OnlyTile p s t

/-- The step word of BP `bp` at the step of tile `p`, which waits for the hub, fails parity; no trace runs. -/
abbrev Obl.badWordOf (s : State) (p bp key : Nat) : Prop :=
  (tileOf s p).phase = .refetch ∧ regBit s trcCtl 0 = false ∧
  (tileOf s p).seen.st.check s.img.debug ((tileOf s p).seen.st.endsAt (tileOf s p).step) (tileOf s p).step bp =
    some (.parity 0 key)

/-- The golden copy gives the good word `w` for it, and `x` is the state with that read made. -/
abbrev Obl.goldenOf (s x : State) (p bp key : Nat) (w : StepWord) : Prop :=
  x = (fetchItem s (logicalNo s p) 0 key).1 ∧ (fetchItem s (logicalNo s p) 0 key).2 = true ∧
  goldenWord s (logicalNo s p) bp (tileOf s p).step = some w

/-- HERR_LAST of a step word's hard error (R416). -/
def Obl.herr (s : State) (p bp : Nat) : Reg :=
  place 32 2 10 bp ||| place 32 12 12 (tileOf s p).step ||| place 32 31 1 1

/-- The hard errors of tile `p` within the last DEAD_WINDOW ms (R416). -/
def Obl.recentHard (s : State) (p : Nat) : Nat :=
  ((tileOf s p).hardTimes.filter (fun x => decide ((s.tb - x).toNat ≤ regF s (ro pGlb 0x424) 16 16 * 256000000))).length

/-- A saturating counter has counted one more. -/
abbrev Obl.counted (s t : State) (a : Nat) : Prop :=
  (getReg t a).toNat = min 0xFFFFFFFF ((getReg s a).toNat + 1)

/-- R79, R413 to R416: a step whose words pass every check begins and waits; a word with bad parity stalls the tile, and the hub
rewrites it from the golden copy, counts it in REFETCH_CNT and runs the checks again.  Where the rewrite does not hold, the word
serves this step alone and a hard error is recorded; with DEAD_COUNT of them in DEAD_WINDOW the tile is dead; without a good word
the tile raises PARITY_UNRECOVERED. -/
def Obligations.StepBeginsAfterItsChecks : Prop :=
  (∀ s p, Obl.canBegin s p → issueFindings s (tileOf s p).seen = [] → Answers (.stepIssue p []) s (fun t =>
    Obl.begun s t p (tileOf s p).st s.tb 0 ∧ Only [.tiles] s t)) ∧
  (∀ s p n w k, Obl.canBegin s p → (n, Check.parity w k) ∈ issueFindings s (tileOf s p).seen →
    Answers (.stepIssue p []) s (fun t => (tileOf t p).phase = .refetch ∧ (tileOf t p).st = (tileOf s p).st ∧
      OnlyTile p s t ∧ Only [.tiles] s t)) ∧
  (∀ s p bp key w x st, Obl.badWordOf s p bp key → Obl.goldenOf s x p bp key w →
    st = { (tileOf s p).st with imem := Tbl.set (tileOf s p).st.imemFill (tileOf s p).st.imem key w } →
    issueFindings s ({ tileOf s p with st := st } : Tile).seen = [] →
    Answers (.stepWordRefetch p bp true) s (fun t =>
      Obl.begun x t p st s.tb (tileOf x p).un.tokens ∧ Obl.counted x t (ro (pTil p) 0x22C) ∧
      OnlyRegs [ro (pTil p) 0x22C] x t ∧ Only [.tiles, .regs, .scr] x t)) ∧
  (∀ s p bp key w x, Obl.badWordOf s p bp key → Obl.goldenOf s x p bp key w →
    Obl.recentHard x p + 1 < max 1 (regF x (ro pGlb 0x424) 0 4) →
    issueFindings s ({ tileOf s p with lent := (0, key, w.toNat) :: (tileOf s p).lent } : Tile).seen = [] →
    Answers (.stepWordRefetch p bp false) s (fun t =>
      (tileOf t p).st = (tileOf s p).st ∧ (tileOf t p).lent = (0, key, w.toNat) :: (tileOf s p).lent ∧
      (tileOf t p).phase = .waiting ∧ (tileOf t p).hardTimes.getLast? = some s.tb ∧ OnlyTile p x t ∧
      Obl.counted x t (ro (pTil p) 0x22C) ∧ Obl.counted x t (ro (pTil p) 0x220) ∧
      getReg t (ro (pTil p) 0x224) = Obl.herr s p bp ∧
      t.evl.log.getLast? = some { time := s.tb, code := 0x0066, page := pTil p, detail := Obl.herr s p bp } ∧
      OnlyRegs [ro (pTil p) 0x22C, ro (pTil p) 0x220, ro (pTil p) 0x224, ro pEvl 0x094, ro pEvl 0x098] x t ∧
      Only [.tiles, .regs, .scr, .evl] x t)) ∧
  (∀ s p bp key w x q, Obl.badWordOf s p bp key → Obl.goldenOf s x p bp key w →
    max 1 (regF x (ro pGlb 0x424) 0 4) ≤ Obl.recentHard x p + 1 → inRun s p = true → s.recov.active = false → p < 68 →
    q ∈ runTiles s → q ≠ p → (tileOf s q).halted = false → fenced s q = false →
    Answers (.stepWordRefetch p bp false) s (fun t =>
      fenced t p = true ∧ (tileOf t p).dead = true ∧ (tileOf t p).retention = true ∧ (tileOf t p).mv = 450 ∧
      (tileOf t p).phase = .faulted ∧ t.run = { s.run with faultStop := true, cause := some 5 } ∧
      Obl.counted x t (ro (pTil p) 0x220) ∧ getReg t (ro (pTil p) 0x224) = Obl.herr s p bp ∧
      Only [.tiles, .regs, .scr, .evl, .run, .ports] x t)) ∧
  (∀ s p bp key held x q, Obl.badWordOf s p bp key → x = (fetchItem s (logicalNo s p) 0 key).1 →
    ((fetchItem s (logicalNo s p) 0 key).2 = false ∨ goldenWord s (logicalNo s p) bp (tileOf s p).step = none) →
    q ∈ runTiles s → q ≠ p → (tileOf s q).halted = false → fenced s q = false →
    Answers (.stepWordRefetch p bp held) s (fun t =>
      Obl.faulted s t p 0x0D bp (tileOf s p).step false (tileOf s p).cycle 0 ∧ (tileOf t p).phase = .faulted ∧
      OnlyTile p x t ∧ Only [.tiles, .regs, .scr, .evl, .run] x t))

/-- R44, R186: the run is to stop with cause FAULT; the fault of tile `p` is the one that FLT_FIRST shows, or an older one is. -/
def Obl.faultRun (s : State) (p : Nat) : Run :=
  { s.run with faultStop := true, cause := some 5, fltAt := if firstFault s p then s.tb else s.run.fltAt }

/-- R44, R45, R80: a step whose first finding is a fault stops its tile with that fault's record, and a tile that waits
beyond the stall limit stops with STALL_LIMIT and the cause it waits for; the run is to stop with cause FAULT. -/
def Obl.FaultStopsTheTile : Prop :=
  (∀ s p n c d rest q, Obl.canBegin s p → issueFindings s (tileOf s p).seen = (n, Check.fault c d) :: rest →
    (∀ f ∈ rest, ∀ w k, f.2 ≠ Check.parity w k) → q ∈ runTiles s → q ≠ p → (tileOf s q).halted = false → fenced s q = false →
    Answers (.stepIssue p []) s (fun t => Obl.faulted s t p c n (tileOf s p).step false (tileOf s p).cycle d ∧
      (tileOf t p).phase = .faulted ∧ t.run = Obl.faultRun s p ∧ OnlyTile p s t ∧
      Only [.tiles, .regs, .scr, .evl, .run] s t)) ∧
  (∀ s p c a q, inRun s p = true → fenced s p = false → countedWait s p = some (c, a) → (tileOf s p).halted = false →
    q ∈ runTiles s → q ≠ p → (tileOf s q).halted = false → fenced s q = false →
    Answers (.stallLimit p) s (fun t =>
      Obl.faulted s t p 0x06 0 (tileOf s p).standing.1 (tileOf s p).standing.2 (tileOf s p).cycle
        (place 32 0 4 c ||| place 32 4 10 (if c = 0 then a else 0)) ∧
      (tileOf t p).phase = .faulted ∧ t.run = Obl.faultRun s p ∧ OnlyTile p s t ∧
      Only [.tiles, .regs, .scr, .evl, .run] s t)) ∧
  (∀ s p q, inRun s p = true → s.run.faultStop = true → (tileOf s p).halted = false →
    q ∈ runTiles s → q ≠ p → (tileOf s q).halted = false → fenced s q = false →
    Answers (.faultStopTimeout p) s (fun t => tileOf t p = { tileOf s p with phase := .faulted } ∧
      t.run = { s.run with partialStop := true } ∧ OnlyTile p s t ∧ Only [.tiles, .run] s t))

/-- R60, R88: a tile with its clock has begun a step, everything the step waits for is there, it sends to no output queue, and
no window is due. -/
abbrev Obl.canComplete (s : State) (p : Nat) : Prop :=
  onClock s p = true ∧ (tileOf s p).phase = .waiting ∧ waitqHopeless (tileOf s p).seen 0 = none ∧
  waitqHopeless (tileOf s p).seen 1 = none ∧ stepBlock s p = none ∧ outTargets (stepWork s.tb (tileOf s p).seen).sends = [] ∧
  (∀ w ∈ (tileOf s p).windows, dueWindow s p w = false)

/-- What tile `p`'s step reads: its store with the words lent to it. -/
abbrev Obl.seenStore (s : State) (p : Nat) : Store := (tileOf s p).seen.st

/-- The word of BP `bp` at the tile's step. -/
def Obl.word (s : State) (p bp : Nat) : StepWord := (Obl.seenStore s p).word bp (tileOf s p).step

/-- R59, R61, R63, R75, R76: every BP's result is at WA of its word in DS and in its window slot, NOP words write nothing;
every heavy issue is passed on in order with its band word; a WAITQ has added a pop credit; all else in the tile's store
stands. -/
abbrev Obl.stepDone (s t : State) (p : Nat) : Prop :=
  (tileOf t p).st = { (tileOf s p).st with
    ds := (tileOf t p).st.ds, written := (tileOf t p).st.written, win := (tileOf t p).st.win } ∧
  (∀ n d, n < 1024 → d < 1024 → Tbl.get false (tileOf t p).st.ds (n * 1024 + d) =
    if isNop (Obl.word s p n) = false ∧ wWA (Obl.word s p n) = d ∧ 2 ≤ d ∧ d < 0x280
    then (Obl.seenStore s p).result (tileOf s p).cycle (tileOf s p).step n else Tbl.get false (tileOf s p).st.ds (n * 1024 + d)) ∧
  (∀ n, n < 1024 → Tbl.get false (tileOf t p).st.win n = (Obl.seenStore s p).result (tileOf s p).cycle (tileOf s p).step n) ∧
  (tileOf t p).un.issues = (tileOf s p).un.issues ++
    (Obl.seenStore s p).issuesOf (tileOf s p).step (tileOf s p).cycle (tileOf t p).st.win ∧
  (∀ q, q < 2 → ((tileOf t p).un.port q).credits = ((tileOf s p).un.port q).credits +
    if ((Obl.seenStore s p).waitqBp (tileOf s p).step q).isSome then 1 else 0) ∧
  (tileOf t p).cycle = (tileOf s p).cycle ∧ OnlyTile p s t

/-- The step completes and the next one is ready: SENDs are in their windows, in ascending BP number. -/
abbrev Obl.stepNext (s t : State) (p : Nat) : Prop :=
  Obl.stepDone s t p ∧ (tileOf t p).step = (tileOf s p).step + 1 ∧ (tileOf t p).phase = .ready ∧
  (tileOf t p).windows = ageWindows (((Obl.seenStore s p).sendsOf (tileOf s p).step (tileOf t p).st.win).foldl
    (addRec s.tb (tileOf s p).cycle) (tileOf s p).windows)

/-- R59, R74 to R76, R88, R134: with trace off, a step without END or HALT completes as EVAL, as a SEND, a NOP or a WAITQ of
it alike: the words of a step complete together. -/
def Obl.StepCompletes : Prop :=
  ∀ s p, Obl.canComplete s p → regBit s trcCtl 0 = false → (∀ n, n < 1024 → isEnd (Obl.word s p n) = false) →
    (∀ n, n < 1024 → isSys 4 (Obl.word s p n) = false) →
    Answers (.eval p none) s (fun t => Obl.stepNext s t p ∧ Only [.tiles] s t) ∧
    (∀ bp, isSend (Obl.word s p bp) = true →
      Answers (.send p bp) s (fun t => Obl.stepNext s t p ∧ Only [.tiles] s t)) ∧
    (∀ bp, isNop (Obl.word s p bp) = true → Answers (.nop p bp) s (fun t => Obl.stepNext s t p ∧ Only [.tiles] s t)) ∧
    (∀ bp, isWaitq (Obl.word s p bp) = true → Answers (.waitq p bp) s (fun t => Obl.stepNext s t p ∧ Only [.tiles] s t))

/-- R76 to R78: END ends the schedule and releases every window; HALT logs event HALT and stops the run after cycle c + 1;
TRACEPT makes Chital write a packet with the result. -/
def Obl.EndHaltAndTracept : Prop :=
  (∀ s p bp, Obl.canComplete s p → regBit s trcCtl 0 = false → bp < 1024 → isEnd (Obl.word s p bp) = true →
    (∀ n, n < 1024 → isSys 4 (Obl.word s p n) = false) → Answers (.endStep p bp) s (fun t =>
      Obl.stepDone s t p ∧ (tileOf t p).step = (tileOf s p).step ∧ (tileOf t p).phase = .close 2 ∧
      (tileOf t p).windows = [] ∧ Only [.tiles, .ex] s t)) ∧
  (∀ s p bp, Obl.canComplete s p → regBit s trcCtl 0 = false → bp < 1024 → isSys 4 (Obl.word s p bp) = true →
    (∀ n, n < 1024 → isEnd (Obl.word s p n) = false) → s.run.stopAt = none → s.run.cause = none → s.run.faultStop = false →
    Answers (.halt p bp) s (fun t => Obl.stepNext s t p ∧
      t.run = { s.run with stopAt := some ((tileOf s p).cycle + 1), cause := some 1 } ∧
      t.evl.log.getLast? = some { time := s.tb, code := 0x0001, page := pGlb, detail := BitVec.ofNat 32 (tileOf s p).cycle } ∧
      Only [.tiles, .run, .evl, .regs, .scr] s t ∧ OnlyRegs [ro pGlb 0x030, ro pEvl 0x094, ro pEvl 0x098] s t)) ∧
  (∀ s p bp, Obl.canComplete s p → bp < 1024 → isSys 3 (Obl.word s p bp) = true →
    (∀ n, n < 1024 → isEnd (Obl.word s p n) = false ∧ isSys 4 (Obl.word s p n) = false) →
    (∀ n, n < 1024 → n ≠ bp → isSys 3 (Obl.word s p n) = false) → protectedBp s (logicalNo s p) bp = false →
    trcClass s 5 = true → trcClass s 3 = false → trcClass s 4 = false → trcClass s 8 = false →
    Answers (.tracept p bp) s (fun t => Obl.stepNext s t p ∧ Only [.tiles, .trc, .regs, .scr, .banks, .dies, .recov, .evl] s t ∧
      t.trc = (tracePkt s (p / 17) (tileOf s p).cycle 0x0A (place 32 0 4 (logicalNo s p % 16) ||| place 32 4 10 bp |||
        place 32 14 12 (tileOf s p).step |||
        place 32 26 1 ((Obl.seenStore s p).result (tileOf s p).cycle (tileOf s p).step bp).toNat).toNat []).trc))

/-- The statements above together: what a completed step does.
The model's own choices in it: log entries 30 and 84. -/
def Obligations.StepCompletion : Prop := Obl.StepCompletes ∧ Obl.EndHaltAndTracept

/-! ## Deliveries and the exchange (03 to 05) -/

/-- A value is present in mailbox `m` of BP `n` of the tile for cycle `c`. -/
def Obl.here (t : Tile) (c n m : Nat) : Bool := Tbl.get false t.st.mbxHere (mbxKey (c % 2) n m)

/-- A value `v` has been written to mailbox `m` of BP `n` for cycle `c`: presence and value of that mailbox only. -/
abbrev Obl.wrote (a b : Tile) (c n m : Nat) (v : Bool) : Prop :=
  (∀ k, Tbl.get false b.st.mbxHere k = if k = mbxKey (c % 2) n m then true else Tbl.get false a.st.mbxHere k) ∧
  (∀ k, Tbl.get false b.st.mbxVal k = if k = mbxKey (c % 2) n m then v else Tbl.get false a.st.mbxVal k) ∧
  b = { a with st := { a.st with mbxHere := b.st.mbxHere, mbxVal := b.st.mbxVal } }

/-- Flit `f` of the exchange stands at place `i`, on a ring of tile `p`'s die or at the stop itself, is for that tile, and
may speak. -/
abbrev Obl.flitFor (s : State) (p i : Nat) (f : Flit) : Prop :=
  s.ex.flits[i]? = some f ∧ f.isFor s p = true ∧ fenced s p = false ∧ mayspeak s f = true

/-- Tile `p` with the records of flit `f` of GEN 1 in its log for the next checkpoint (R423). -/
abbrev Obl.logged (s : State) (p : Nat) (f : Flit) : Tile :=
  { tileOf s p with genLog := (tileOf (logGen s p f) p).genLog }

/-- R34, R35, R97, R99, R100, R119, R423: a delivery for the mailbox cycle or the next writes its mailbox, one for the cycle
after that is held, one for the cycle before is late and counted; a record of GEN 1 is logged for the next checkpoint; of two
flits of one period the one on ring 0 is judged first; the flit leaves the ring, and FLIT_RX_CNT counts it, dropped or not. -/
def Obl.FlitDelivery : Prop :=
  (∀ s p i f r, Obl.flitFor s p i f → f.recs = [r] →
    (f.cyc + r.gen.toNat = (tileOf s p).mbxCycle ∨ f.cyc + r.gen.toNat = (tileOf s p).mbxCycle + 1) →
    Obl.here (tileOf s p) (f.cyc + r.gen.toNat) r.a r.m = false → Answers (.flitDeliver p i none) s (fun t =>
      Obl.wrote (Obl.logged s p f) (tileOf t p) (f.cyc + r.gen.toNat) r.a r.m r.res ∧
      t.ex = { s.ex with flits := s.ex.flits.eraseIdx i } ∧ getReg t (ro (pTil p) 0x18C) = getReg s (ro (pTil p) 0x18C) + 1 ∧
      OnlyTile p s t ∧ OnlyRegs [ro (pTil p) 0x18C] s t ∧ Only [.tiles, .ex, .regs, .scr] s t)) ∧
  (∀ s p i f r, Obl.flitFor s p i f → f.recs = [r] → f.cyc + r.gen.toNat = (tileOf s p).mbxCycle + 2 →
    Tbl.get false (tileOf s p).st.holdHere (r.a * 256 + r.m) = false → Answers (.flitDeliver p i none) s (fun t =>
      Tbl.get false (tileOf t p).st.holdHere (r.a * 256 + r.m) = true ∧
      Tbl.get false (tileOf t p).st.holdVal (r.a * 256 + r.m) = r.res ∧
      (tileOf t p).st.mbxHere = (tileOf s p).st.mbxHere ∧ OnlyTile p s t ∧ Only [.tiles, .ex, .regs, .scr] s t)) ∧
  (∀ s p i f r, Obl.flitFor s p i f → f.recs = [r] → f.cyc + r.gen.toNat + 1 = (tileOf s p).mbxCycle →
    Answers (.flitDeliver p i none) s (fun t => tileOf t p = Obl.logged s p f ∧
      (getReg t (ro (pTil p) 0x180)).toNat = min 0xFFFFFFFF ((getReg s (ro (pTil p) 0x180)).toNat + 1) ∧
      getReg t (ro (pTil p) 0x18C) = getReg s (ro (pTil p) 0x18C) + 1 ∧
      OnlyTile p s t ∧ OnlyRegs [ro (pTil p) 0x180, ro (pTil p) 0x18C] s t ∧ Only [.tiles, .ex, .regs, .scr] s t)) ∧
  (∀ s p i f, s.ex.flits[i]? = some f → f.isFor s p = true → fenced s p = true → Answers (.flitDeliver p i none) s (fun t =>
    t.ex = { s.ex with flits := s.ex.flits.eraseIdx i } ∧ getReg t (ro (pTil p) 0x18C) = getReg s (ro (pTil p) 0x18C) + 1 ∧
    (getReg t (ro (pTil p) 0x184)).toNat = min 0xFFFFFFFF ((getReg s (ro (pTil p) 0x184)).toNat + 1) ∧
    OnlyRegs [ro (pTil p) 0x184, ro (pTil p) 0x18C] s t ∧ Only [.ex, .regs, .scr] s t)) ∧
  (∀ s p i j f g, s.ex.flits[i]? = some f → s.ex.flits[j]? = some g → f.isFor s p = true → g.isFor s p = true →
    onRing1 s i = true → onRing1 s j = false →
    exec (.flitDeliver p i (some j)) s = exec (.flitDeliver p j (some i)) s ∧
    exec (.flitDeliver p i (some j)) s = finish (deliver p (if j < i then i - 1 else i) (deliver p j s)))

/-- R35, R101, R119: a delivery that finds its mailbox present is DOUBLE_DELIVERY of the receiving tile, with the mailbox in
FLT_DETAIL and the source in DD_SRC, and the value there stands. -/
def Obl.DoubleDeliveryFaults : Prop :=
  ∀ s p i f r q, Obl.flitFor s p i f → f.recs = [r] → f.cyc + r.gen.toNat = (tileOf s p).mbxCycle →
    Obl.here (tileOf s p) (f.cyc + r.gen.toNat) r.a r.m = true → (tileOf s p).halted = false → s.run.active = true →
    q ∈ runTiles s → q ≠ p → (tileOf s q).halted = false → fenced s q = false → Answers (.flitDeliver p i none) s (fun t =>
      Obl.faulted s t p 0x05 r.a (tileOf s p).standing.1 (tileOf s p).standing.2 (tileOf s p).mbxCycle (place 32 0 8 r.m) ∧
      getReg t (ro (pTil p) 0x190) = ddSrc f.srcDev f.srcDie f.srcTile false ∧
      tileOf t p = { Obl.logged s p f with phase := .faulted } ∧ t.run.cause = some 5 ∧ OnlyTile p s t)

/-- R123, R143: a return of one word reaches mailbox `base` of all 64 members of its band, and no other mailbox. -/
def Obl.HeavyReturnReachesTheBand : Prop :=
  ∀ s p i r w, (tileOf s p).un.returns[i]? = some r → r.words = [w] → r.cyc = (tileOf s p).mbxCycle →
    (∀ k, k < 64 → Obl.here (tileOf s p) r.cyc (r.band * 64 + k) (r.base % 256) = false) →
    Answers (.heavyReturn p i) s (fun t =>
      (∀ k, k < 64 → Obl.here (tileOf t p) r.cyc (r.band * 64 + k) (r.base % 256) = true ∧
        Tbl.get false (tileOf t p).st.mbxVal (mbxKey (r.cyc % 2) (r.band * 64 + k) (r.base % 256)) = w.getLsbD k) ∧
      (∀ x, (∀ k, k < 64 → x ≠ mbxKey (r.cyc % 2) (r.band * 64 + k) (r.base % 256)) →
        Tbl.get false (tileOf t p).st.mbxHere x = Tbl.get false (tileOf s p).st.mbxHere x) ∧
      (tileOf t p).un = { (tileOf s p).un with returns := (tileOf s p).un.returns.eraseIdx i } ∧
      OnlyTile p s t ∧ Only [.tiles] s t)

/-- The statements above together: flits and heavy returns reach their mailboxes.
The model's own choices in it: log entry 93. -/
def Obligations.Deliveries : Prop := Obl.FlitDelivery ∧ Obl.HeavyReturnReachesTheBand

/-- The flit that a window of at most 64 records becomes: its header fields (R92, R112). -/
def Obl.flitOf (s : State) (p : Nat) (w : Window) : Flit := newFlit s p w.tgt w.cyc w.recs

/-- R88, R89, R95, R96, R119: a released window is a flit at its stop, one for the sending tile itself is at once at its own
stop; the oldest one for a ring of the die enters it with the epoch of the sending tile, counted in FLIT_TX_CNT. -/
def Obl.WindowsBecomeFlits : Prop :=
  (∀ s p i w, (tileOf s p).windows[i]? = some w → w.recs ≠ [] → w.recs.length ≤ 64 →
    (∀ dev die tile, w.tgt = .tile dev die tile →
      ¬(dev = devIdx s ∧ die = p / 17 ∧ regF s (mapReg (16 * die + tile)) 0 5 = p % 17)) →
    Answers (.combineWindowRelease p i) s (fun t => tileOf t p = { tileOf s p with
        windows := (tileOf s p).windows.eraseIdx i, released := (tileOf s p).released ++ [Obl.flitOf s p w] } ∧
      OnlyTile p s t ∧ Only [.tiles] s t)) ∧
  (∀ s p i w, (tileOf s p).windows[i]? = some w → w.recs ≠ [] → w.recs.length ≤ 64 → (Obl.flitOf s p w).out = false →
    (Obl.flitOf s p w).dstDev = devIdx s → (Obl.flitOf s p w).dstDie = p / 17 → (Obl.flitOf s p w).dstPhys = p % 17 →
    Answers (.combineWindowRelease p i) s (fun t =>
      tileOf t p = { tileOf s p with windows := (tileOf s p).windows.eraseIdx i } ∧
      t.ex = { s.ex with flits := s.ex.flits ++ [{ Obl.flitOf s p w with loc := .home (p / 17) }] } ∧
      OnlyTile p s t ∧ Only [.tiles, .ex] s t)) ∧
  (∀ s p r f l, (tileOf s p).released.find? (fun g => g.ringAt s p == r) = some f → logicalOf s p = some l →
    Answers (.flitInject p r) s (fun t =>
    tileOf t p = { tileOf s p with released := (tileOf s p).released.erase f } ∧
    t.ex = { s.ex with flits := s.ex.flits ++ [{ f with srcEpoch := epochOf s l, loc := .ring (p / 17) r }] } ∧
    getReg t (ro (pTil p) 0x188) = getReg s (ro (pTil p) 0x188) + 1 ∧
    OnlyTile p s t ∧ OnlyRegs [ro (pTil p) 0x188] s t ∧ Only [.tiles, .ex, .regs, .scr] s t))

/-- R21, R97, R98, R107, R112: the bridge takes a flit that leaves its die while the interface queue of 128 has room; the
oldest flit of the queue enters the main rings, in the shorter direction to its exit stop; there it comes to the rim, to a
port, or to the queue of 128 to its target die; from that queue the oldest enters the rings of the die, with DST_PHYS of the
current map. -/
def Obl.FlitsCrossTheDevice : Prop :=
  (∀ s d i f, s.ex.flits[i]? = some f → f.leaves s d = true → mayspeak s f = true →
    flitsAt s (.iface d) < 128 → Answers (.bridgeTake d i) s (fun t =>
      t.ex = { s.ex with flits := s.ex.flits.set i { f with loc := .iface d } } ∧ Only [.ex] s t)) ∧
  (∀ s i f d b, s.ex.flits[i]? = some f → f.loc = .iface d → firstAt s i (.iface d) = true → exitStop s f = some b →
    Answers (.mainRingExit i false) s (fun t => Only [.ex] s t ∧
      t.ex = { s.ex with flits := s.ex.flits.set i { f with loc := .main (shorterRing 24 (bridgeStop d) b) b } })) ∧
  (∀ s i f r b, s.ex.flits[i]? = some f → f.loc = .main r b → f.out = false → f.dstDev = devIdx s →
    flitsAt s (.inbound f.dstDie) < 128 → Answers (.mainRingExit i false) s (fun t => Only [.ex] s t ∧
      t.ex = { s.ex with flits := s.ex.flits.set i { f with loc := .inbound f.dstDie } })) ∧
  (∀ s i f d, s.ex.flits[i]? = some f → f.loc = .inbound d → firstAt s i (.inbound d) = true →
    Answers (.mainRingExit i false) s (fun t => Only [.ex] s t ∧ t.ex = { s.ex with flits := s.ex.flits.set i { f with
      dstPhys := regF s (mapReg (16 * f.dstDie + f.dstTile)) 0 5,
      loc := .ring f.dstDie (shorterRing 18 17 (regF s (mapReg (16 * f.dstDie + f.dstTile)) 0 5)) } })) ∧
  (∀ s i f r b, s.ex.flits[i]? = some f → f.loc = .main r b → f.out = true → Answers (.mainRingExit i false) s (fun t =>
    t.ex = { s.ex with flits := s.ex.flits.set i { f with loc := .rim } } ∧ Only [.ex] s t)) ∧
  (∀ s i f r b n, s.ex.flits[i]? = some f → f.loc = .main r b → f.out = false → f.dstDev ≠ devIdx s → flitPort s f = some n →
    Answers (.mainRingExit i false) s (fun t => t.ex = { s.ex with flits := s.ex.flits.eraseIdx i } ∧
      portOf t n = { portOf s n with rdy := (portOf s n).rdy ++ [{ vc := 0, kind := 0, seq := 0, words := f.words }] } ∧
      (∀ m, m ≠ n → portOf t m = portOf s m) ∧ Only [.ex, .ports] s t))

/-- The statements above together: windows become flits and flits cross the device.
The model's own choices in it: log entries 86, 87, 88 and 89. -/
def Obligations.WindowsAndFlits : Prop := Obl.WindowsBecomeFlits ∧ Obl.FlitsCrossTheDevice

/-- R94, R103, R109: an output flit sets its bit in the entry of its cycle; BEGUN(c) goes out on the ports to a device once
every tile that has not stopped has begun cycle c and no flit of cycle c - 1 waits. -/
def Obl.OutputFlitsAndBegunTokens : Prop :=
  (∀ s i f r e, s.ex.flits[i]? = some f → f.out = true → f.loc = .rim → f.recs = [r] → outqOf s r.a = [e] → e.cyc = f.cyc →
    e.got.getLsbD r.m = false → r.m < 64 → Answers (.outputFlitArrive i) s (fun t =>
      outqOf t r.a = [{ e with bits := if r.res then e.bits ||| place 64 r.m 1 1 else e.bits,
                               got := e.got ||| place 64 r.m 1 1 }] ∧
      (∀ q, q ≠ r.a → outqOf t q = outqOf s q) ∧ (∀ q, inqOf t q = inqOf s q) ∧
      t.ex = { s.ex with flits := s.ex.flits.eraseIdx i } ∧ Only [.ex, .aq] s t)) ∧
  (∀ s dev n c, s.run.active = true → dev ∈ peers s → linkPorts s dev = [n] → c = Tbl.get 0 s.ex.sentBegun dev →
    (∀ p ∈ slipTiles s, c ≤ (tileOf s p).cycle) → (c = 0 ∨ flitsFor s dev (c - 1) = false) → Answers (.begunTokenSend dev) s (fun t =>
      portOf t n = { portOf s n with
        rdy := (portOf s n).rdy ++ [{ vc := 0, kind := 0, seq := 0, words := [tokenWord s dev c] }] } ∧
      (∀ m, m ≠ n → portOf t m = portOf s m) ∧ Tbl.get 0 t.ex.sentBegun dev = c + 1 ∧ Only [.ex, .ports] s t))

/-! ## Cycle close, stops and pace (02) -/

/-- Tile `p` with its clock, not fenced, waits at close step `k`; no stall packets are traced. -/
abbrev Obl.atClose (s : State) (p k : Nat) : Prop :=
  onClock s p = true ∧ (tileOf s p).phase = .close k ∧ fenced s p = false ∧ trcClass s 3 = false

/-- R36, R38, R67, R100, R413: C2 ends once nothing blocks it; C3 and C4 clear the presence of the closing cycle's buffer, move
a held delivery in and advance the mailbox cycle; C5 to C7 latch the port slots of the next cycle from its record; a port table
entry with wrong parity stalls the tile there until the hub has rewritten it from the golden copy, and with it the enabled
queues follow the port tables (R68).
The model's own choices in it: log entry 83. -/
def Obligations.CloseStepsInOrder : Prop :=
  (∀ s p, Obl.atClose s p 2 → c2Blocked s p = false → lastAtC2 s p (tileOf s p).cycle = false →
    Answers (.closeC2 p) s (fun t => tileOf t p = { tileOf s p with phase := .close 3, since := s.tb, wait := none } ∧
      OnlyTile p s t ∧ Only [.tiles] s t)) ∧
  (∀ s p, Obl.atClose s p 3 → c3Blocked s p = false → (tileOf s p).st.holdHere = [] → Answers (.closeC3 p) s (fun t =>
    (tileOf t p).phase = .close 5 ∧ (tileOf t p).mbxCycle = (tileOf s p).cycle + 1 ∧
    (∀ n m, n < 1024 → m < 256 → Obl.here (tileOf t p) (tileOf s p).cycle n m = false ∧
      Obl.here (tileOf t p) ((tileOf s p).cycle + 1) n m = Obl.here (tileOf s p) ((tileOf s p).cycle + 1) n m) ∧
    (tileOf t p).st.ds = (tileOf s p).st.ds ∧ OnlyTile p s t ∧ Only [.tiles] s t)) ∧
  (∀ s p n m v, n < 1024 → m < 256 → Obl.atClose s p 3 → c3Blocked s p = false →
    (tileOf s p).st.holdHere = [(n * 256 + m, true)] → (tileOf s p).st.holdVal = [(n * 256 + m, v)] →
    Answers (.closeC3 p) s (fun t => Obl.here (tileOf t p) (tileOf s p).cycle n m = true ∧
      Tbl.get false (tileOf t p).st.mbxVal (mbxKey ((tileOf s p).cycle % 2) n m) = v ∧ (tileOf t p).st.holdHere = [])) ∧
  (∀ s p r, Obl.atClose s p 5 → recordOf s ((tileOf s p).cycle + 1) = some r → snapWants s (tileOf s p).cycle = false →
    ckptDue s ((tileOf s p).cycle + 1) = false → (tileOf s p).seen.st.badPort = none → Answers (.closeC5 p) s (fun t => (tileOf t p).phase = .close 8 ∧
      (∀ n k, n < 1024 → k < 64 → Tbl.get false (tileOf t p).st.ports (n * 64 + k) = portBit (tileOf s p).seen.st r n k) ∧
      (tileOf t p).st = { (tileOf s p).st with ports := (tileOf t p).st.ports } ∧ OnlyTile p s t ∧ Only [.tiles] s t)) ∧
  (∀ s p r k, Obl.atClose s p 5 → recordOf s ((tileOf s p).cycle + 1) = some r → (tileOf s p).seen.st.badPort = some k →
    Answers (.closeC5 p) s (fun t => Only [] s t)) ∧
  (∀ s p r k v x, Obl.atClose s p 5 → recordOf s ((tileOf s p).cycle + 1) = some r → (tileOf s p).seen.st.badPort = some k →
    trcClass s 6 = false → goldenPort s (logicalNo s p) k = some v → x = (fetchItem s (logicalNo s p) 3 k).1 →
    (fetchItem s (logicalNo s p) 3 k).2 = true →
    Answers (.stepWordRefetch p (k / 64 * 64) true) s (fun t =>
      tileOf t p = { tileOf x p with since := s.tb, st := { (tileOf s p).st with
        ptab := Tbl.set 0 (tileOf s p).st.ptab k v, badParity := (tileOf s p).st.badParity.erase (3, k) } } ∧
      Obl.counted x t (ro (pTil p) 0x22C) ∧ t.img = { s.img with inQ := t.img.inQ, outQ := t.img.outQ } ∧
      (∀ q, q < 64 → (t.img.inQ.getLsbD q = true ↔
        ∃ p' ∈ runTiles t, ∃ e ∈ (tileOf t p').st.ptab, fld e.2 14 2 = 1 ∧ fld e.2 8 6 = q)) ∧
      OnlyTile p x t ∧ OnlyRegs [ro (pTil p) 0x22C] x t ∧ Only [.tiles, .regs, .scr, .img] x t))

/-- Tile `p` has begun its next cycle at step 0. -/
abbrev Obl.nextCycle (s t : State) (p : Nat) : Prop :=
  tileOf t p = { tileOf s p with
    phase := .ready, cycle := (tileOf s p).cycle + 1, step := 0, since := s.tb, wait := none,
    st := { (tileOf s p).st with written := [] } }

/-- No job is GRANT, no bank waits for a handover, and no trace runs. -/
abbrev Obl.plainC8 (s : State) (p : Nat) : Prop :=
  p < 68 ∧ s.saiga.jobs.all (fun j => decide (j.exec ≠ 0x0A ∨ j.op ≠ 2)) = true ∧ regBit s trcCtl 0 = false ∧
  ∀ b, b < 128 → bankPending s b = false

/-- R38, R41, R43, R44, R47, R452: C8 begins the next cycle at step 0 when no gate is closed; a closed gate holds the tile where
it is, and a wait for hub staging is one wait in HELD_CNT; at the run's last cycle the tile stops at the boundary; the boundary of
a partner is this run's, and a partner's fault stops the tile at the first boundary. -/
def Obl.CycleAdvances : Prop :=
  (∀ s p, Obl.atClose s p 8 → Obl.plainC8 s p → stopsHere s (tileOf s p).cycle = false → c8Gate s (tileOf s p).cycle = none →
    Answers (.closeC8 p none) s (fun t => Obl.nextCycle s t p ∧ t.trc = { s.trc with held := false } ∧ OnlyTile p s t ∧
      Only [.tiles, .trc] s t)) ∧
  (∀ s p g, Obl.atClose s p 8 → Obl.plainC8 s p → (stopsHere s (tileOf s p).cycle = false ∨ rollsBack s = true) →
    c8Gate s (tileOf s p).cycle = some g → Answers (.closeC8 p none) s (fun t =>
      tileOf t p = { tileOf s p with wait := some (g, 0) } ∧ t.trc = { s.trc with held := decide (g = 0xF) } ∧
      (getReg t (ro pTrc 0x0A8)).toNat = (if g = 0xF ∧ s.trc.held = false then
        min 0xFFFFFFFF ((getReg s (ro pTrc 0x0A8)).toNat + 1) else (getReg s (ro pTrc 0x0A8)).toNat) ∧
      OnlyRegs [ro pTrc 0x0A8] s t ∧ OnlyTile p s t ∧ Only [.tiles, .trc, .regs, .scr] s t)) ∧
  (∀ s p q, Obl.atClose s p 8 → Obl.plainC8 s p → stopsHere s (tileOf s p).cycle = true → rollsBack s = false →
    q ∈ runTiles s →
    q ≠ p → (tileOf s q).halted = false → fenced s q = false → Answers (.closeC8 p none) s (fun t =>
      tileOf t p = { tileOf s p with phase := .stopped, wait := none } ∧ OnlyTile p s t ∧ Only [.tiles] s t)) ∧
  (∀ s p cause last, Obl.atClose s p 8 → Obl.plainC8 s p → peers s ≠ [] → s.run.faultStop = false → s.run.stopAt = none →
    (tileOf s p).cycle < last → c8Gate s (tileOf s p).cycle = none →
    Answers (.closeC8 p (some (.boundary cause last))) s (fun t => Obl.nextCycle s t p ∧
      t.run = { s.run with stopAt := some last, cause := some cause } ∧ OnlyTile p s t ∧ Only [.tiles, .trc, .run] s t)) ∧
  (∀ s p q, Obl.atClose s p 8 → Obl.plainC8 s p → peers s ≠ [] → q ∈ runTiles s → q ≠ p → (tileOf s q).halted = false →
    fenced s q = false → Answers (.closeC8 p (some .fault)) s (fun t =>
      tileOf t p = { tileOf s p with phase := .stopped, wait := none } ∧
      t.run = { s.run with faultStop := true, cause := some 5 } ∧ OnlyTile p s t ∧ Only [.tiles, .run] s t)) ∧
  (∀ s p, Obl.atClose s p 8 → s.run.holds = [] → trcHolds s 4 = false → ckptDue s ((tileOf s p).cycle + 1) = false →
    (tileOf s p).cycle + 1 < cycleLimit → runMode s = 1 → s.run.grant < (tileOf s p).cycle + 1 →
    c8Gate s (tileOf s p).cycle = some 0xB)

/-- R39, R40, R252, R254, R324: the record of the cycle that is due takes one entry of every enabled input queue and the
trigger flag word, whose sticky bits clear. -/
def Obl.InputRecordTakesOneEntryOfEachQueue : Prop :=
  ∀ s k, s.run.active = true → recordDue s = some k → s.recov.replay = [] → s.recov.active = false →
    (∀ q, q < 64 → s.img.inQ.getLsbD q = true → inqOf s q ≠ []) → Answers .inputRecordForm s (fun t =>
      (∃ r, t.run.record = some r ∧ t.run = { s.run with record := t.run.record } ∧ r.cyc = k ∧ r.flags = flagWord s ∧
        ∀ q, q < 64 → Tbl.get 0 r.entries q = if s.img.inQ.getLsbD q = true then (inqOf s q).headD 0 else 0) ∧
      (∀ q, q < 64 → inqOf t q = if s.img.inQ.getLsbD q = true then (inqOf s q).drop 1 else inqOf s q) ∧
      (∀ q, outqOf t q = outqOf s q) ∧ t.mkh = { s.mkh with sticky := 0 } ∧
      Only [.tiles, .aq, .mkh, .run, .trc, .regs, .scr, .banks, .dies, .recov, .evl] s t)

/-- R43, R44, R47: the last cycle number stops the run with event CYCLE_LIMIT; a pace tick opens the gate of one more cycle and,
with PACE_TICK_EN, is due at the rim; a cycle past its deadline is PACE_MISS, counted when MISS_ACT is 1, and else every tile is to
stop at the first boundary that it reaches. -/
def Obl.CycleLimitAndPace : Prop :=
  (∀ s, s.run.active = true → maxBegun s + 1 = cycleLimit → s.run.cause = none → s.run.stopAt = none →
    s.run.faultStop = false → Answers .cycleLimitStop s (fun t =>
      t.run = { s.run with stopAt := some (cycleLimit - 1), cause := some 6 } ∧
      t.evl.log.getLast? = some { time := s.tb, code := 0x0002, page := pGlb, detail := 0 } ∧
      Only [.run, .evl, .regs, .scr] s t ∧ OnlyRegs [ro pGlb 0x030, ro pEvl 0x094, ro pEvl 0x098] s t)) ∧
  (∀ s, pacedRun s = true → Answers .paceTick s (fun t =>
    t.run = { s.run with ticks := s.run.ticks + 1, swapped := false } ∧
    t.rim = { s.rim with paceDue := s.rim.paceDue || (regBit s (ro pRim 0x0A0) 1 && rimRuns s) } ∧
    (∀ p, tileOf t p = { tileOf s p with wait := (tileOf t p).wait }) ∧ (regBit s trcCtl 0 = false → Only [.run, .rim, .tiles] s t) ∧
    Only [.run, .rim, .tiles, .trc, .regs, .scr, .banks, .dies, .recov, .evl] s t)) ∧
  (∀ s k, pacedRun s = true → curCycle s ≤ (match s.run.missed with | some m => m + 1 | none => s.run.first) →
    missedCycle s = some k → reachedGate s k = false → regBit s (ro pGlb 0x120) 8 = true → Answers .paceMiss s (fun t =>
      t.run = { s.run with missed := some k } ∧
      (getReg t (ro pGlb 0x128)).toNat = min 0xFFFFFFFF ((getReg s (ro pGlb 0x128)).toNat + 1) ∧
      t.evl.log.getLast? = some { time := s.tb, code := 0x0003, page := pGlb, detail := BitVec.ofNat 32 k } ∧
      Only [.run, .evl, .regs, .scr] s t ∧
      OnlyRegs [ro pGlb 0x030, ro pEvl 0x094, ro pEvl 0x098, ro pGlb 0x128] s t)) ∧
  (∀ s k q, pacedRun s = true → curCycle s ≤ (match s.run.missed with | some m => m + 1 | none => s.run.first) →
    missedCycle s = some k → reachedGate s k = false → regBit s (ro pGlb 0x120) 8 = false → s.run.faultStop = false →
    paceOpen s s.run.first = true → q ∈ runTiles s → (tileOf s q).halted = false → fenced s q = false →
    Answers .paceMiss s (fun t =>
      t.run = { s.run with missed := some k, faultStop := true, cause := some 7 } ∧
      t.evl.log.getLast? = some { time := s.tb, code := 0x0003, page := pGlb, detail := BitVec.ofNat 32 k } ∧
      Only [.run, .evl, .regs, .scr] s t ∧ OnlyRegs [ro pGlb 0x030, ro pEvl 0x094, ro pEvl 0x098] s t))

/-- The statements above together: a cycle begins, its limit and its pace.
The model's own choices in it: log entries 19, 33, 34 and 114. -/
def Obligations.CyclesLimitAndPace : Prop := Obl.CycleAdvances ∧ Obl.CycleLimitAndPace

/-! ## Admission and the governor (02, 05) -/

/-- R56, R519: a write of ADM_CTL stores its coverage bits; with CHECK, a free-running or stepped set-up without Markhor
channels or trace is admitted, a paced one without an image is refused with reason 7 and this device's number, and a paced
one that passes here but fails at another device of the run with that device's reason and number (R25).
The model's own choices in it: log entries 40 and 90. -/
def Obligations.AdmissionCheckReports : Prop :=
  (∀ s v peer, v.getLsbD 3 = false → Answers (.admCheck v peer) s (fun t => regF t (ro pGlb 0x140) 0 3 = fld v 0 3 ∧
    OnlyRegs [ro pGlb 0x140] s t ∧ Only [.regs, .scr] s t)) ∧
  (∀ s v peer, v.getLsbD 3 = true → runMode s ≠ 2 → enabledChans s = [] → looseTrace s = false → Answers (.admCheck v peer) s (fun t =>
    regBit t (ro pGlb 0x144) 0 = true ∧ regBit t (ro pGlb 0x144) 1 = true ∧ regF t (ro pGlb 0x144) 4 4 = 0 ∧
    OnlyRegs [ro pGlb 0x140, ro pGlb 0x144] s t ∧ Only [.regs, .scr] s t)) ∧
  (∀ s v peer, v.getLsbD 3 = true → runMode s = 2 → s.cfg.resValid = false → enabledChans s = [] → looseTrace s = false →
    Answers (.admCheck v peer) s (fun t => regBit t (ro pGlb 0x144) 0 = true ∧ regBit t (ro pGlb 0x144) 1 = false ∧
      regF t (ro pGlb 0x144) 4 4 = 7 ∧ regF t (ro pGlb 0x144) 8 4 = devIdx s ∧
      OnlyRegs [ro pGlb 0x140, ro pGlb 0x144] s t ∧ Only [.regs, .scr] s t)) ∧
  (∀ s v dev reason, v.getLsbD 3 = true → runMode s = 2 → s.cfg.resValid = true → dev ∈ peers s → reason % 8 ≠ 0 →
    (pacedPart (writeRW s (ro pGlb 0x140) v)).1 = 0 → enabledChans s = [] → looseTrace s = false →
    Answers (.admCheck v (some (.admission dev reason))) s (fun t =>
      regBit t (ro pGlb 0x144) 0 = true ∧ regBit t (ro pGlb 0x144) 1 = false ∧ regF t (ro pGlb 0x144) 4 4 = reason % 8 ∧
      regF t (ro pGlb 0x144) 8 4 = dev ∧ OnlyRegs [ro pGlb 0x140, ro pGlb 0x144, ro pGlb 0x148] s t ∧
      Only [.regs, .scr] s t))

/-- Of every tile but its voltage nothing changes (R151). -/
abbrev Obl.onlyVoltage (s t : State) : Prop := ∀ p, tileOf t p = { tileOf s p with mv := (tileOf t p).mv }

/-- R148, R149, R506: PWR_NOW takes the 1 ms average; every 10 µs B of each die of the run goes to three quarters, 4 at least,
above the cap, which is below 531 W in any case, and up by 4 to TOK_BUD below 95 % of it; every 100 µs a die whose B stayed below TOK_BUD is retuned 25 MHz down,
400 MHz at least; at the floor the event FLOOR is logged. -/
def Obl.GovernorFollowsThePowerCap : Prop :=
  (∀ s n, Answers (.powerMeasure n) s (fun t => (getReg t (ro pPwr 0x088)).toNat = min 0xFFFF n ∧
    OnlyRegs [ro pPwr 0x088] s t ∧ Only [.regs, .scr] s t)) ∧
  (∀ s n, govRun s = true → min (8 * capEff s) 4247 < n → Answers (.budgetAdjust n) s (fun t =>
    (∀ d, d ∈ usedDies s → tokEff t d = max 4 (3 * tokEff s d / 4)) ∧
    OnlyRegs ((usedDies s).map effReg) s t ∧ Only [.regs, .scr, .dies] s t)) ∧
  (∀ s n, govRun s = true → 100 * n < 95 * min (8 * capEff s) 4247 → Answers (.budgetAdjust n) s (fun t =>
    (∀ d, d ∈ usedDies s → tokEff s d < tokBud s d → tokEff t d = min (tokBud s d) (tokEff s d + 4)) ∧
    OnlyRegs ((usedDies s).map effReg) s t ∧ Only [.regs, .scr, .dies] s t)) ∧
  (∀ s n m, govRun s = true → atFloor s m = false → Answers (.clockAdjust n m) s (fun t =>
    (∀ d, d ∈ usedDies s → (dieOf s d).below = true → (dieOf t d).pllTarget =
      if max 400 (clkGoal s d - 25) = stepClk s d then none else some (max 400 (clkGoal s d - 25))) ∧
    (∀ d, d ∉ usedDies s → dieOf t d = dieOf s d) ∧ Obl.onlyVoltage s t ∧ Only [.dies, .tiles] s t)) ∧
  (∀ s n m, govRun s = true → atFloor s m = true → regBit s govStat 9 = false → Answers (.clockAdjust n m) s (fun t =>
    regBit t govStat 9 = true ∧
    t.evl.log.getLast? = some { time := s.tb, code := 0x0010, page := pPwr, detail := 0 } ∧
    OnlyRegs [govStat, ro pPwr 0x030, ro pEvl 0x094, ro pEvl 0x098] s t ∧ Only [.regs, .scr, .evl] s t))

/-- R48, R151, R506: above the cap a paced run's dies go down one clock step, with POWER_PACE; a die switches to its retuned
PLL, and only after a fall do its active tiles go to the voltage fused for the new frequency. -/
def Obl.ClocksStepDown : Prop :=
  (∀ s, pacedRun s = true → min (8 * capEff s) 4247 < regF s (ro pPwr 0x088) 0 16 → Answers .powerPace s (fun t =>
    (∀ d, d ∈ usedDies s → (dieOf t d).pllTarget =
      if max 400 (clkGoal s d - 25) = stepClk s d then none else some (max 400 (clkGoal s d - 25))) ∧
    regBit t govStat 10 = true ∧ OnlyRegs [govStat, ro pPwr 0x030, ro pEvl 0x094, ro pEvl 0x098] s t ∧
    Obl.onlyVoltage s t ∧ Only [.regs, .scr, .evl, .dies, .tiles] s t)) ∧
  (∀ s d f, (dieOf s d).pllTarget = some f → d < 4 → stepClk s d ≠ 0 → regBit s trcCtl 0 = false →
    Answers (.pllSwitch d) s (fun t => getReg t (clkReg d) = BitVec.ofNat 32 f ∧
      dieOf t d = { dieOf s d with pllTarget := none } ∧ (∀ e, e ≠ d → dieOf t e = dieOf s e) ∧
      (∀ p, tileOf t p = { tileOf s p with
        mv := if f < stepClk s d ∧ p ∈ activeTiles s d then vfMv s f else (tileOf s p).mv }) ∧
      OnlyRegs [clkReg d] s t ∧ Only [.regs, .scr, .dies, .tiles] s t))

/-- R153, R156, R157: a PWR_CAP write is clamped to 120 to 540 W, and a clamped one sets bit 8 of GOV_STAT; TOK_BUD is
clamped to 1 to 144, CLK_CEIL rounded down to 25 MHz and clamped, and a die above its new ceiling is retuned to it; below what a
paced run was admitted with, both are refused. -/
def Obl.PowerLimitsAreClamped : Prop :=
  (∀ s v, Answers (.pwrCapWrite v) s (fun t => regF t capReg 0 10 = max 120 (min 540 (fld v 0 10)) ∧
    (regBit t govStat 8 = true ↔ regBit s govStat 8 = true ∨ fld v 0 10 < 120 ∨ 540 < fld v 0 10) ∧
    OnlyRegs [capReg, govStat] s t ∧ Only [.regs, .scr] s t)) ∧
  (∀ s d v, d < 4 → pacedRun s = false → Answers (.tokBudWrite d v) s (fun t =>
    tokBud t d = max 1 (min 144 (fld v 0 8)) ∧
    tokEff t d = (if tokEff s d = tokBud s d then tokBud t d else min (tokBud t d) (tokEff s d)) ∧
    (dieOf t d).below = ((dieOf s d).below && decide (tokEff t d < tokBud t d)) ∧ (∀ e, e ≠ d → dieOf t e = dieOf s e) ∧
    OnlyRegs [budReg d, effReg d] s t ∧ Only [.regs, .scr, .dies] s t)) ∧
  (∀ s d v, d < 4 → pacedRun s = true → max 1 (min 144 (fld v 0 8)) < declaredPeak s d →
    Answers (.tokBudWrite d v) s (Refused pPwr s)) ∧
  (∀ s d v, d < 4 → pacedRun s = false → (∀ n, n < 16 → portUp s n = false) →
    clkGoal s d ≤ max 400 (min (maxClk s) (fld v 0 11 / 25 * 25)) → Answers (.clkCeilWrite d v) s (fun t =>
      (getReg t (ceilReg d)).toNat = max 400 (min (maxClk s) (fld v 0 11 / 25 * 25)) ∧
      OnlyRegs [ceilReg d] s t ∧ Only [.regs, .scr] s t)) ∧
  (∀ s d v f, d < 4 → pacedRun s = false → (∀ n, n < 16 → portUp s n = false) →
    f = max 400 (min (maxClk s) (fld v 0 11 / 25 * 25)) → f < clkGoal s d → Answers (.clkCeilWrite d v) s (fun t =>
      (getReg t (ceilReg d)).toNat = f ∧
      dieOf t d = { dieOf s d with pllTarget := if f = stepClk s d then none else some f } ∧
      (∀ e, e ≠ d → dieOf t e = dieOf s e) ∧ Obl.onlyVoltage s t ∧
      OnlyRegs [ceilReg d] s t ∧ Only [.regs, .scr, .dies, .tiles] s t)) ∧
  (∀ s d v, d < 4 → pacedRun s = true → max 400 (min (maxClk s) (fld v 0 11 / 25 * 25)) < Tbl.get 0 s.run.admClk d →
    Answers (.clkCeilWrite d v) s (Refused pPwr s))

/-- The statements above together: the cap, the clocks and the limits.
The model's own choices in it: log entries 38, 39 and 92. -/
def Obligations.PowerGovernor : Prop := Obl.GovernorFollowsThePowerCap ∧ Obl.ClocksStepDown ∧ Obl.PowerLimitsAreClamped

/-! ## Banks (07) -/

/-- R194 to R196: a write of OWNER by a bank not held makes the new owner pending; a tile of another die or a reserved code,
and a held bank, are refused; with no tile of a run involved the pending owner takes the bank, with OWN_CYC, once no access of the old one is in flight, and
from a tile of a run at the cycle of the handover point, once the tile's accesses of earlier cycles are applied.
The model's own choices in it: log entry 28. -/
def Obligations.BankOwnership : Prop :=
  (∀ s b v, b < 128 → (fld v 0 7 < 0x45 ∧ (fld v 0 7 < 0x40 → fld v 0 7 / 16 = b / 32)) → fld v 0 7 ≠ bankOwner s b →
    ownerHeld s b = false → Answers (.ownerWrite b v) s (fun t => bankOwner t b = bankOwner s b ∧
      bankPending t b = true ∧ bankPendOwner t b = fld v 0 7 ∧ bankOf t b = { bankOf s b with due := none } ∧
      (∀ c, c ≠ b → bankOf t c = bankOf s c) ∧ OnlyRegs [ownerReg b] s t ∧ Only [.regs, .scr, .banks] s t)) ∧
  (∀ s b v, b < 128 → (0x45 ≤ fld v 0 7 ∨ (fld v 0 7 < 0x40 ∧ fld v 0 7 / 16 ≠ b / 32) ∨
      (fld v 0 7 ≠ bankOwner s b ∧ ownerHeld s b = true)) → Answers (.ownerWrite b v) s (Refused (pBnk b) s)) ∧
  (∀ s b, b < 128 → bankPending s b = true → (bankOf s b).due = none → (dieOf s (b / 32)).tt = none →
    runOwner s (bankOwner s b) = false → runOwner s (bankPendOwner s b) = false → ownerInFlight s b = false →
    Answers (.ownerHandover b) s (fun t => bankOwner t b = bankPendOwner s b ∧ bankPending t b = false ∧
      reg64 t (ro (pBnk b) 0x0A0) (ro (pBnk b) 0x0A4) = curCycle s % cycleLimit ∧
      (bankOf t b).words = (bankOf s b).words ∧ (∀ c, c ≠ b → bankOf t c = bankOf s c) ∧
      OnlyRegs [ownerReg b, ro (pBnk b) 0x0A0, ro (pBnk b) 0x0A4] s t ∧ Only [.regs, .scr, .banks] s t)) ∧
  (∀ s b c, b < 128 → bankPending s b = true → (bankOf s b).due = some c →
    accessOpen s b c = true → Answers (.ownerHandover b) s (Only [] s)) ∧
  (∀ s b, b < 128 → bankPending s b = true → (bankOf s b).due = none → ownerInFlight s b = true →
    Answers (.ownerHandover b) s (Only [] s)) ∧
  (∀ s b c, b < 128 → bankPending s b = true → (bankOf s b).due = some c → (dieOf s (b / 32)).tt = none →
    accessOpen s b c = false → Answers (.ownerHandover b) s (fun t => bankOwner t b = bankPendOwner s b ∧
      bankPending t b = false ∧ reg64 t (ro (pBnk b) 0x0A0) (ro (pBnk b) 0x0A4) = c % cycleLimit ∧
      (bankOf t b).words = (bankOf s b).words ∧ (∀ c, c ≠ b → bankOf t c = bankOf s c) ∧
      OnlyRegs [ownerReg b, ro (pBnk b) 0x0A0, ro (pBnk b) 0x0A4] s t ∧ Only [.regs, .scr, .banks] s t))

/-- R127, R196: the owner decides: a TMEM access to a bank that another owns is the fault BANK_NOT_OWNED of the issuing band's
leader, and the bank is unchanged. -/
def Obl.TmemOfAnotherOwnerFaults : Prop :=
  ∀ s p u i q, headIssue (tileOf s p) (fun x => decide (x.unit < 4)) = some i → i.unit = u → i.op = 2 → fenced s p = false →
    (bankOf s (tmBank (p / 17) (Tbl.get 0 (tileOf s p).un.tmem u))).due = none →
    bankOwner s (tmBank (p / 17) (Tbl.get 0 (tileOf s p).un.tmem u)) ≠ logicalNo s p → (tileOf s p).halted = false →
    s.run.active = true → q ∈ runTiles s → q ≠ p → (tileOf s q).halted = false → fenced s q = false →
    Answers (.tmemWrite p u) s (fun t => Obl.faulted s t p 0x09 (i.band * 64) i.step false i.cyc
        (place 32 0 7 (tmBank (p / 17) (Tbl.get 0 (tileOf s p).un.tmem u)) ||| place 32 7 2 u) ∧
      (tileOf t p).phase = .faulted ∧ OnlyTile p s t ∧ Only [.tiles, .regs, .scr, .evl, .run] s t)

/-- The statements above together: what stops a tile.
The model's own choices in it: log entries 23, 34 and 94. -/
def Obligations.FaultsOfATile : Prop := Obl.FaultStopsTheTile ∧ Obl.DoubleDeliveryFaults ∧ Obl.TmemOfAnotherOwnerFaults

/-- R190, R200: a word that a bit has flipped in has wrong parity, and a READ that meets it in a region with a copy waits for
the hub; the hub's rewrite from the copy counts in PERR_CNT, shows in PERR_ADDR with the sticky PERR bit, and the waiting READ then
returns the rewritten word; a word whose copy cannot be had rolls a run with recovery back. -/
def Obl.ParityRepairRepeatsTheRead : Prop :=
  (∀ v : Word, ∀ k, k < 65 → badWord (withParity v) = false ∧ badWord (withParity v ^^^ place 65 k 1 1) = true) ∧
  (∀ s p u i a k, p < 68 → Obl.tmem s p u 0 i a → k < 65 → hasCopy s (tmBank (p / 17) a) (fld a 0 18) = true →
    Answers (.tmemRead p u (some k)) s (fun t =>
      (bankOf t (tmBank (p / 17) a)).repair = some (fld a 0 18, some { tile := p, iss := i }) ∧
      Tbl.get 0 (bankOf t (tmBank (p / 17) a)).words (fld a 0 18) =
        Tbl.get 0 (bankOf s (tmBank (p / 17) a)).words (fld a 0 18) ^^^ place 65 k 1 1 ∧
      (∀ c, c ≠ tmBank (p / 17) a → bankOf t c = bankOf s c) ∧ Only [.banks] s t)) ∧
  (∀ s b w p i v x, (bankOf s b).repair = some (w, some { tile := p, iss := i }) → trcClass s 6 = false →
    x = (readCopy s b w).1 → (readCopy s b w).2 = some v → i ∈ (tileOf s p).un.issues →
    i.op = 0 → tmBank (p / 17) i.word = b → Answers (.bankParityRepair b) s (fun t =>
      Obl.unitOnly [.banks, .regs, .scr] x t p i (fun x => { x with returns := x.returns ++ [Obl.ret i.band (fld i.word 24 8)
        [(bankOf t b).word (fld i.word 0 18)] i.cyc] }) ∧ (bankOf t b).word w = v ∧
      bankOf t b = { bankOf s b with repair := none, words := Tbl.set 0 (bankOf s b).words w (withParity v) } ∧
      (∀ c, c ≠ b → bankOf t c = bankOf s c) ∧
      regF t (ro (pBnk b) 0x094) 0 16 = min 0xFFFF (regF s (ro (pBnk b) 0x094) 0 16 + 1) ∧
      regF t (ro (pBnk b) 0x090) 0 18 = w % 2 ^ 18 ∧ Stuck (pBnk b) 3 s t ∧
      OnlyRegs [ro (pBnk b) 0x094, ro (pBnk b) 0x090, ro (pBnk b) 0x014, ro (pBnk b) 0x024] x t)) ∧
  (∀ s b w wt x, b < 128 → (bankOf s b).repair = some (w, wt) → x = (readCopy s b w).1 → (readCopy s b w).2 = none →
    bankOwner s b < 0x40 → s.recov.active = true → Answers (.bankParityRepair b) s (fun t =>
      t.run = { s.run with holds := s.run.holds ++ [.rollback] } ∧ bankOf t b = { bankOf s b with repair := none } ∧
      regF t (ro (pBnk b) 0x090) 0 18 = w % 2 ^ 18 ∧ regF t (ro (pBnk b) 0x090) 18 2 = 1 ∧ Stuck (pBnk b) 3 s t ∧
      (∀ c, c ≠ b → bankOf t c = bankOf s c) ∧ Only [.banks, .regs, .scr, .run] x t))

/-- The bank of a saved region with the region's words as they were saved. -/
def Obl.restored (s : State) (v : Saved) : Bank :=
  { bankOf s v.bank with words := putRegion (bankOf s v.bank).words v.region v.words }

/-- R201, R203 to R205: the copy engine reads the next pending region of the die into a save buffer, of four, and clears its
bit; the transparent test of the next eligible region saves it and starts, restores it when it passes, takes a spare besides when
it fails, and is given back when aborted; an upset that the command names stands in the bank before it. -/
def Obl.CopyEngineAndTransparentTest : Prop :=
  (∀ s d b r, waitingWrite s d = none → nextPending s d = some (b, r) → b / 32 = d →
    (bankOf s b).badWords (64 * r) 64 = [] → (bankOf s b).repair = none → Answers (.ckptRegionCopy d []) s (fun t =>
    bankOf t b = { bankOf s b with pend := (bankOf t b).pend } ∧ Tbl.get false (bankOf t b).pend r = false ∧
    (∀ x, x ≠ r → Tbl.get false (bankOf t b).pend x = Tbl.get false (bankOf s b).pend x) ∧
    (dieOf t d).save = (dieOf s d).save.drop (if 4 ≤ (dieOf s d).save.length then 1 else 0) ++
      [{ bank := b, region := r, words := (bankOf s b).region r }] ∧
    (∀ c, c ≠ b → bankOf t c = bankOf s c) ∧ (∀ e, e ≠ d → dieOf t e = dieOf s e) ∧ Only [.banks, .dies, .recov] s t)) ∧
  (∀ s d ups, exec (.ckptRegionCopy d ups) s = exec (.ckptRegionCopy d []) (ups.foldl bankUpset s) ∧
    exec (.ttRegionStart d ups) s = exec (.ttRegionStart d []) (ups.foldl bankUpset s)) ∧
  (∀ s d k, d < 4 → (dieOf s d).tt = none → stepClk s d ≠ 0 → regBit s (ro pScr 0x080) 0 = true → s.scr.halted = false →
    ttPick s d 33 (dieOf s d).ttNext = some k → (bankOf s (32 * d + k / 4096)).badWords (64 * (k % 4096)) 64 = [] →
    (bankOf s (32 * d + k / 4096)).repair = none → Answers (.ttRegionStart d []) s (fun t =>
      dieOf t d = { dieOf s d with
        ttAbort := false, ttNext := (k + 1) % 131072,
        tt := some { bank := 32 * d + k / 4096, region := k % 4096, words := (bankOf s (32 * d + k / 4096)).region (k % 4096) } } ∧
      (∀ e, e ≠ d → dieOf t e = dieOf s e) ∧ regF t (ro (pBnk (32 * d + k / 4096)) 0x098) 0 12 = k % 4096 ∧
      OnlyRegs [ro (pBnk (32 * d + k / 4096)) 0x098] s t ∧ Only [.dies, .regs, .scr] s t)) ∧
  (∀ s d v, (dieOf s d).tt = some v → (dieOf s d).ttAbort = false → Answers (.ttRegionDone d true) s (fun t =>
    dieOf t d = { dieOf s d with tt := none } ∧ (∀ e, e ≠ d → dieOf t e = dieOf s e) ∧
    bankOf t v.bank = Obl.restored s v ∧ (∀ c, c ≠ v.bank → bankOf t c = bankOf s c) ∧ Only [.dies, .banks] s t)) ∧
  (∀ s d v b r n, (dieOf s d).tt = some v → v.bank = b → v.region = r → (dieOf s d).ttAbort = false →
    (bankOf s b).spares.length = n → n < 4 → (∀ k, k < 4 → (bankOf s b).map0.getLsbD (13 * k + 12) = decide (k < n)) → r < 4096 →
    Answers (.ttRegionDone d false) s (fun t => (dieOf t d).tt = none ∧ (bankOf t b).spares = (bankOf s b).spares ++ [r] ∧
      (bankOf t b).map1 = setFld (bankOf s b).map1 (13 * n) 13 (r + 4096) ∧
      (bankOf t b).map2 = setFld (bankOf s b).map2 (13 * n) 13 (r + 4096) ∧
      bankOf t b = { Obl.restored s v with map0 := (bankOf t b).map0, map1 := (bankOf t b).map1, map2 := (bankOf t b).map2 } ∧
      (∀ c, c ≠ b → bankOf t c = bankOf s c) ∧ Stuck (pBnk b) 5 s t ∧
      regF t (ro (pBnk b) 0x09C) 0 12 = r % 4096 ∧ regF t (ro (pBnk b) 0x09C) 12 3 = (bankOf s b).spares.length + 1 ∧
      OnlyRegs [ro (pBnk b) 0x09C, ro (pBnk b) 0x014, ro (pBnk b) 0x024] s t ∧
      Only [.dies, .banks, .regs, .scr] s t)) ∧
  (∀ s d v b, (dieOf s d).tt = some v → v.bank = b → (dieOf s d).ttAbort = true →
    (∀ k, k < 17 → tmemTarget s (17 * d + k) = none) →
    Answers (.ttAbortDone d) s (fun t => dieOf t d = { dieOf s d with tt := none, ttAbort := false } ∧
      (∀ e, e ≠ d → dieOf t e = dieOf s e) ∧ bankOf t b = Obl.restored s v ∧ (∀ c, c ≠ b → bankOf t c = bankOf s c) ∧
      regF t (ro (pBnk b) 0x098) 16 16 = (regF s (ro (pBnk b) 0x098) 16 16 + 1) % 65536 ∧
      OnlyRegs [ro (pBnk b) 0x098] s t ∧ Only [.dies, .banks, .regs, .scr] s t))

/-- The statements above together: repair of a parity error, the copy engine and the transparent test.
The model's own choices in it: log entries 32, 98 and 99. -/
def Obligations.BankRepairAndCopies : Prop := Obl.ParityRepairRepeatsTheRead ∧ Obl.CopyEngineAndTransparentTest

/-! ## DRAM (08) -/

/-- Every byte of DRAM reads as before. -/
abbrev Obl.sameBytes (s t : State) : Prop := ∀ a, dramByte t a = dramByte s a

/-- What becomes of a request reaches its place in its QPORT queue. -/
def Obl.reply (s : State) (r : DReq) (f : QReq → QReq) : State :=
  match r.src with
  | .qport p q id => modQReq s p q id f
  | .other => s

/-- Channel `ch` after request `i`, of line `line` on main ring `ring`, has left the arriving ones and been accepted. -/
def Obl.took (s : State) (ch i line ring : Nat) : Chan :=
  { chanOf (wakeLine s line) ch with
    arriving := (chanOf s ch).arriving.eraseIdx i, accepted := (chanOf s ch).accepted + 1
    ring1At := if ring = 1 then some (s.tb.toNat / 256) else (chanOf s ch).ring1At }

/-- Request `i` of a channel is the first of its queue, on its channel, and in turn (R212). -/
abbrev Obl.arrives (s : State) (ch i : Nat) (r : DReq) : Prop :=
  (chanOf s ch).arriving[i]? = some r ∧ ((chanOf s ch).arriving.take i).any (sameQueue r) = false ∧
  (chanOf s ch).inTurn s ch r = true ∧ channelOf (64 * r.line) = ch

/-- R133, R212, R213: the controller accepts a request, the first of its queue and in turn: a QRD with a place in the read
queue is answered with the line as every accepted write left it, and a QWD with an entry free is in the line from then on,
whoever reads it; a channel in self-refresh and a rank in power-down wake.  With 128 reads or 64 lines there, it waits. -/
def Obl.DramAcceptance : Prop :=
  (∀ s ch i r, Obl.arrives s ch i r → r.write = false → (chanOf s ch).readQ.length < 128 →
    Answers (.dramRequestAccept ch i) s (fun t =>
      chanOf t ch = { Obl.took s ch i r.line (r.ring ch) with
        readQ := (chanOf s ch).readQ ++ [{ r with seq := (chanOf s ch).accepted }] } ∧
      (∀ p, tileOf t p = tileOf (Obl.reply s r (fun x => { x with stage := .atController, resp := lineWords s r.line })) p) ∧
      Obl.sameBytes s t ∧ (∀ c, c ≠ ch → chanOf t c = chanOf s c) ∧ Only [.tiles, .dram] s t)) ∧
  (∀ s ch i r, Obl.arrives s ch i r → r.write = true → (chanOf s ch).wbuf.length < 64 → s.recov.active = false →
    Answers (.dramRequestAccept ch i) s (fun t =>
      chanOf t ch = { Obl.took s ch i r.line (r.ring ch) with
        wbuf := bufferWrite (chanOf s ch).wbuf { r with seq := (chanOf s ch).accepted } } ∧
      (∀ p, tileOf t p = tileOf (Obl.reply s r (fun x => { x with stage := .atController })) p) ∧
      (∀ a, dramByte t a = if a / 64 = r.line ∧ r.mask.getLsbD (a % 64) = true then r.byte (a % 64) else dramByte s a) ∧
      (∀ c, c ≠ ch → chanOf t c = chanOf s c) ∧ Only [.tiles, .dram] s t)) ∧
  (∀ s ch i r, (chanOf s ch).arriving[i]? = some r →
    (if r.write = true then 64 ≤ (chanOf s ch).wbuf.length else 128 ≤ (chanOf s ch).readQ.length) →
    Answers (.dramRequestAccept ch i) s (Only [] s))

/-- The registers of a channel's counts of row-disturbance actions. -/
def Obl.rowRegs (ch : Nat) : List Nat := [ddrReg ch 0x094, ddrReg ch 0x098]

/-- Every buffered line of a channel is one of its own and no line has two entries, as acceptance leaves it. -/
abbrev Obl.buffersApart (s : State) (ch : Nat) : Prop :=
  (∀ x ∈ (chanOf s ch).wbuf, channelOf (64 * x.line) = ch) ∧ (chanOf s ch).wbuf.Pairwise (fun x y => x.line ≠ y.line)

/-- So in every channel, and no request is past the age limit. -/
abbrev Obl.settled (s : State) : Prop :=
  ∀ ch, Obl.buffersApart s ch ∧ ∀ r ∈ (chanOf s ch).readQ ++ (chanOf s ch).wbuf, r.aged = false

/-- R213 to R216, R219: any read of the queue that no older aged request holds back can be served, in any order, and passes its
response to the reorder buffer; one with an uncorrectable error is poisoned, unless its line can be rewritten from the slot's copy
and read again; writing buffered lines back, an aged one or from WM.HIGH down to WM.LOW in a counted drain, or one
by one while no read waits, leaves every byte of DRAM as it reads; a request past the age limit, read or write, is marked, and
holds back every younger one. -/
def Obl.DramService : Prop :=
  (∀ s ch i r, (chanOf s ch).readQ[i]? = some r → (chanOf s ch).heldBack r = false → channelOf (64 * r.line) = ch →
    s.dram.ecc (lineErr s r.line) = .clean → Answers (.dramServe ch i .none .none) s (fun t => (chanOf t ch).readQ = (chanOf s ch).readQ.eraseIdx i ∧
      (∀ p, tileOf t p = tileOf (Obl.reply s r (fun x => { x with stage := .reorder, poisoned := none })) p) ∧
      (∀ c, c ≠ ch → chanOf t c = chanOf s c) ∧
      Obl.sameBytes s t ∧ OnlyRegs (Obl.rowRegs ch) s t ∧ Only [.tiles, .dram, .regs, .scr] s t)) ∧
  (∀ s ch i r err copy, (chanOf s ch).readQ[i]? = some r → (chanOf s ch).heldBack r = false → channelOf (64 * r.line) = ch →
    lineBuffered s r.line = false → s.dram.ecc (addErr (lineErr s r.line) err) = .uncorrectable →
    (∀ g ∈ s.img.regions, g.rw = true ∨ g.init = 0 ∨ r.line * 64 < g.base ∨ g.base + g.len ≤ r.line * 64) →
    Answers (.dramServe ch i err copy) s (fun t =>
      (∀ p, tileOf t p = tileOf (Obl.reply s r (fun x => { x with stage := .reorder, poisoned := some ch })) p) ∧
      (getReg t (ddrReg ch 0x088)).toNat = min 0xFFFFFFFF ((getReg s (ddrReg ch 0x088)).toNat + 1) ∧
      ∀ a, a / 64 ≠ r.line → dramByte t a = dramByte s a)) ∧
  (∀ s ch i r err copy x o, (chanOf s ch).readQ[i]? = some r → (chanOf s ch).heldBack r = false →
    channelOf (64 * r.line) = ch → lineBuffered s r.line = false → x = strike s (serveErrs s ch i err copy) →
    s.dram.ecc (lineErr x r.line) = .uncorrectable → qinitAt x r.line = some o →
    s.dram.ecc (lineErr x ((slotBase s s.cfg.resSlot + o) / 64)) ≠ .uncorrectable →
    Answers (.dramServe ch i err copy) s (fun t =>
      (∀ p, tileOf t p = tileOf (Obl.reply s r (fun y => { y with
        stage := .reorder, poisoned := none, resp := lineWords t r.line })) p) ∧
      (∀ k, k < 64 → buffered s (64 * r.line + k) = none →
        dramByte t (64 * r.line + k) = slotPlain x s.cfg.resSlot (o + k)) ∧ lineErr t r.line = DramErr.none ∧
      (getReg t (ddrReg ch 0x088)).toNat = min 0xFFFFFFFF ((getReg s (ddrReg ch 0x088)).toNat + 1))) ∧
  (∀ s ch i r err, (chanOf s ch).readQ = [] → (chanOf s ch).wbuf[i]? = some r → (chanOf s ch).heldBack r = false →
    Obl.buffersApart s ch → Answers (.dramServe ch i err .none) s (fun t =>
      (chanOf t ch).wbuf = (chanOf s ch).wbuf.eraseIdx i ∧ lineErr t r.line = DramErr.none ∧
      (∀ a, (a / 64 ≠ r.line ∨ r.mask.getLsbD (a % 64) = true ∨ err = DramErr.none) → dramByte t a = dramByte s a) ∧
      Only [.dram, .regs, .scr, .evl] s t)) ∧
  (∀ s ch r rest es, (chanOf s ch).wbuf = r :: rest → (chanOf s ch).heldBack r = false → Obl.buffersApart s ch →
    Answers (.writeDrain ch true es) s (fun t => (chanOf t ch).wbuf = rest ∧
      (es = [] → Obl.sameBytes s t ∧ (s.dram.ecc (lineErr s r.line) = .clean → OnlyRegs (Obl.rowRegs ch) s t)) ∧
      Only [.dram, .regs, .scr, .evl] s t)) ∧
  (∀ s ch es, regF s (ddrCommon 0x08C) 0 6 ≤ (chanOf s ch).wbuf.length →
    regF s (ddrCommon 0x08C) 8 6 ≤ (chanOf s ch).wbuf.length → Obl.buffersApart s ch →
    (∀ r ∈ (chanOf s ch).readQ ++ (chanOf s ch).wbuf, r.aged = false) → Answers (.writeDrain ch false es) s (fun t =>
      (chanOf t ch).wbuf.length = regF s (ddrCommon 0x08C) 8 6 ∧
      (getReg t (ddrReg ch 0x09C)).toNat = min 0xFFFFFFFF ((getReg s (ddrReg ch 0x09C)).toNat + 1) ∧
      (es = [] → Obl.sameBytes s t ∧ ((∀ r ∈ (chanOf s ch).wbuf, s.dram.ecc (lineErr s r.line) = .clean) →
        OnlyRegs (ddrReg ch 0x09C :: Obl.rowRegs ch) s t)) ∧ Only [.dram, .regs, .scr, .evl] s t)) ∧
  (∀ s ch i r, (chanOf s ch).readQ[i]? = some r → Answers (.ageLimit ch i) s (fun t =>
    chanOf t ch = { chanOf s ch with readQ := (chanOf s ch).readQ.set i { r with aged := true } } ∧
    (∀ c, c ≠ ch → chanOf t c = chanOf s c) ∧ Obl.sameBytes s t ∧ Only [.dram] s t)) ∧
  (∀ s ch i r, (chanOf s ch).wbuf[i]? = some r → Answers (.ageLimit ch ((chanOf s ch).readQ.length + i)) s (fun t =>
    chanOf t ch = { chanOf s ch with wbuf := (chanOf s ch).wbuf.set i { r with aged := true } } ∧
    (∀ c, c ≠ ch → chanOf t c = chanOf s c) ∧ Obl.sameBytes s t ∧ Only [.dram] s t)) ∧
  (∀ s ch i r x, (chanOf s ch).readQ[i]? = some r → x ∈ (chanOf s ch).readQ ++ (chanOf s ch).wbuf →
    x.aged = true → x.seq < r.seq → Answers (.dramServe ch i .none .none) s (Only [] s))

/-- The statements above together: a request from acceptance to service.
The model's own choices in it: log entries 3, 10, 101, 102, 119, 120 and 122. -/
def Obligations.DramRequests : Prop := Obl.DramAcceptance ∧ Obl.DramService

/-- R221 to R224: refresh changes no byte; the activate tables clear; an idle trained channel enters self-refresh and a rank
with no request power-down. -/
def Obl.DramUpkeepKeepsTheBytes : Prop :=
  (∀ s ch rank, Answers (.dramRefresh ch rank) s (Only [] s)) ∧
  (∀ s, Answers .actTableClear s (fun t => (∀ ch, ch < 8 → chanOf t ch = { chanOf s ch with act := [] }) ∧
    Obl.sameBytes s t ∧ Only [.dram] s t)) ∧
  (∀ s ch, (chanOf s ch).quiet = true → (chanOf s ch).trained = true → (chanOf s ch).retraining = false →
    regF s (ddrCommon 0x094) 0 16 ≠ 0 → Answers (.selfRefreshEntry ch) s (fun t =>
      chanOf t ch = { chanOf s ch with selfRefresh := true } ∧ (∀ c, c ≠ ch → chanOf t c = chanOf s c) ∧
      Obl.sameBytes s t ∧ Only [.dram] s t)) ∧
  (∀ s ch rank, (chanOf s ch).trained = true → s.dram.lpddr = false → rank < s.dram.ranks → rank < 4 →
    (chanOf s ch).rankBusy s.dram rank = false →
    regF s (ddrCommon 0x098) 0 16 ≠ 0 → Answers (.powerDownEntry ch rank) s (fun t =>
      (chanOf t ch).rankPd.getLsbD rank = true ∧ chanOf t ch = { chanOf s ch with rankPd := (chanOf t ch).rankPd } ∧
      (∀ c, c ≠ ch → chanOf t c = chanOf s c) ∧ Obl.sameBytes s t ∧ Only [.dram] s t))

/-- The registers of channel `ch` that errors and activates of a line write, and those of an event of its page. -/
def Obl.errRegs (ch : Nat) : List Nat :=
  [ddrReg ch 0x084, ddrReg ch 0x088, ddrReg ch 0x08C, ddrReg ch 0x090, ro (pDdr ch) 0x030, ro pEvl 0x094, ro pEvl 0x098] ++
    Obl.rowRegs ch

/-- R217 to R220, R227, R237: one device of a line is corrected in the large configuration, one bit or one link bit in the
small one; a corrected line of the patrol is counted, rewritten and named by ERR_ADDR, with its kind, rank and device, an uncorrectable one
is counted, named and logs DRAM_UE; drift at its limit, or a temperature more than 20 °C away, makes a retrain due, with its
event, once. -/
def Obl.PatrolAndCalibration : Prop :=
  (∀ m : Dram, ∀ d multi link, m.lpddr = false → m.ecc { devs := [d], multi := multi, link := link } = .corrected 0 d) ∧
  (∀ m : Dram, ∀ d e multi link, m.lpddr = false → d ≠ e →
    m.ecc { devs := [d, e], multi := multi, link := link } = .uncorrectable) ∧
  (∀ m : Dram, ∀ d, m.lpddr = true → m.ecc { devs := [d], multi := false, link := 0 } = .corrected 0 d ∧
    m.ecc { devs := [d], multi := true, link := 0 } = .uncorrectable ∧
    m.ecc { devs := [], multi := false, link := 1 } = .corrected 2 0) ∧
  (∀ s ch line err kind dev, ch < 8 → (chanOf s ch).trained = true → (chanOf s ch).selfRefresh = false →
    channelOf (64 * line) = ch → regBit s (ddrCommon 0x09C) 2 = true →
    (∀ r ∈ (chanOf s ch).readQ ++ (chanOf s ch).wbuf, r.aged = false) → lineErr s line = DramErr.none → s.dram.ecc err = .corrected kind dev →
    Answers (.patrolScrub ch line err) s (fun t =>
      (getReg t (ddrReg ch 0x084)).toNat = min 0xFFFFFFFF ((getReg s (ddrReg ch 0x084)).toNat + 1) ∧
      getReg t (ddrReg ch 0x08C) = BitVec.ofNat 32 (line * 64) ∧ regF t (ddrReg ch 0x090) 9 2 = kind % 4 ∧
      regF t (ddrReg ch 0x090) 11 3 = (s.dram.locate line).rank % 8 ∧ regF t (ddrReg ch 0x090) 14 5 = dev % 32 ∧
      lineErr t line = DramErr.none ∧ (chanOf t ch).rankPd.getLsbD (s.dram.locate line).rank = false ∧
      Obl.sameBytes s t ∧ OnlyRegs (Obl.errRegs ch) s t ∧ Only [.dram, .regs, .scr, .evl] s t)) ∧
  (∀ s ch line err, ch < 8 → (chanOf s ch).trained = true → (chanOf s ch).selfRefresh = false →
    channelOf (64 * line) = ch → regBit s (ddrCommon 0x09C) 2 = true →
    (∀ r ∈ (chanOf s ch).readQ ++ (chanOf s ch).wbuf, r.aged = false) → lineErr s line = DramErr.none → s.dram.ecc err = .uncorrectable →
    Answers (.patrolScrub ch line err) s (fun t =>
      (getReg t (ddrReg ch 0x088)).toNat = min 0xFFFFFFFF ((getReg s (ddrReg ch 0x088)).toNat + 1) ∧
      getReg t (ddrReg ch 0x08C) = BitVec.ofNat 32 (line * 64) ∧ regF t (ddrReg ch 0x090) 9 2 = 1 ∧
      t.evl.log.getLast? = some
        { time := s.tb, code := 0x0031, page := pDdr ch, detail := place 32 0 3 ch ||| place 32 3 29 line } ∧
      (∀ a, a / 64 ≠ line → dramByte t a = dramByte s a) ∧ OnlyRegs (Obl.errRegs ch) s t ∧ Only [.dram, .regs, .scr, .evl] s t)) ∧
  (∀ s ch rank temp, (chanOf s ch).trained = true → 20 < (temp - (chanOf s ch).trainTemp).natAbs →
    (chanOf s ch).retrainDue = false → Answers (.zqCalibration ch rank temp) s (fun t =>
      chanOf t ch = { chanOf s ch with retrainDue := true } ∧
      t.evl.log.getLast? = some { time := s.tb, code := 0x0032, page := pDdr ch, detail := place 32 0 3 ch } ∧
      Obl.sameBytes s t ∧ Only [.dram, .regs, .scr, .evl] s t)) ∧
  (∀ s ch temp, (chanOf s ch).trained = true → (chanOf s ch).retrainDue = false → Answers (.dqsTracking ch true temp) s (fun t =>
      chanOf t ch = { chanOf s ch with retrainDue := true } ∧
      t.evl.log.getLast? = some { time := s.tb, code := 0x0032, page := pDdr ch, detail := place 32 0 3 ch } ∧
      Obl.sameBytes s t ∧ Only [.dram, .regs, .scr, .evl] s t)) ∧
  (∀ s ch temp, (chanOf s ch).retrainDue = true → Answers (.dqsTracking ch true temp) s (Only [] s))

/-- The statements above together: upkeep of the memories.
The model's own choices in it: log entries 10, 36, 102, 119 and 122. -/
def Obligations.DramUpkeep : Prop := Obl.DramUpkeepKeepsTheBytes ∧ Obl.PatrolAndCalibration

/-- R228, R229: with no run and Markhor not armed a retrain starts on every channel and ends with none due; in a paced run it
is refused on every channel. -/
def Obl.RetrainRunsOrIsRefused : Prop :=
  (∀ s v, v.getLsbD 0 = true → s.cfg.trained = true → retraining s = false → s.run.active = false → mkhArmed s = false →
    Answers (.retrain v) s (fun t => (∀ ch, ch < 8 → chanOf t ch = { chanOf s ch with retraining := true, refused := false }) ∧
      t.run = s.run ∧ Obl.sameBytes s t ∧ OnlyRegs [ddrCommon 0x09C] s t ∧ Only [.dram, .regs, .scr] s t)) ∧
  (∀ s v, v.getLsbD 0 = true → pacedRun s = true → Answers (.retrain v) s (fun t =>
    (∀ ch, ch < 8 → chanOf t ch = { chanOf s ch with refused := true }) ∧
    Obl.sameBytes s t ∧ OnlyRegs [ddrCommon 0x09C] s t ∧ Only [.dram, .regs, .scr] s t)) ∧
  (∀ s temp, retraining s = true → (∀ ch, ch < 8 → (chanOf s ch).quiet = true) → s.run.active = false →
    Answers (.retrainDone temp) s (fun t =>
      (∀ ch, ch < 8 → chanOf t ch = { chanOf s ch with retraining := false, retrainDue := false, trainTemp := temp }) ∧
      Hold.retrain ∉ t.run.holds ∧ Obl.sameBytes s t ∧
      (∀ p, tileOf t p = { tileOf s p with wait := (tileOf t p).wait }) ∧ Only [.dram, .run, .tiles] s t))

/-- R230, R232: RESV takes its shares clamped to 50, 25 and 25 percent, and QPORT is the rest; with Markhor armed a smaller
ACQ share is refused. -/
def Obl.DramReservations : Prop :=
  (∀ s v, pacedRun s = false → mkhArmed s = false → looseTrace s = false → Answers (.resvWrite v) s (fun t =>
    resvOf t 0 = min 50 (fld v 0 8) ∧ resvOf t 1 = min 25 (fld v 8 8) ∧ resvOf t 2 = min 25 (fld v 16 8) ∧
    resvOf t 3 + resvOf t 0 + resvOf t 1 + resvOf t 2 = 100 ∧ OnlyRegs [ddrCommon 0x080] s t ∧ Only [.regs, .scr] s t)) ∧
  (∀ s v, mkhArmed s = true → min 50 (fld v 0 8) < resvOf s 0 → Answers (.resvWrite v) s (Refused (pDdr 8) s))

/-- The statements above together: retraining and the reservations.
The model's own choices in it: log entry 121. -/
def Obligations.DramTrainingAndShares : Prop := Obl.RetrainRunsOrIsRefused ∧ Obl.DramReservations

/-! ## The rim and the array queues (09) -/

/-- R248, R249: the rim's push is appended to an enabled queue with room, and into a full one it is lost, with the queue's bit
of IQ_OVF; a queue that no resident image enables takes nothing. -/
def Obl.InputQueues : Prop :=
  (∀ s q w, queueRuns s q = true → s.cfg.resValid = true → s.img.inQ.getLsbD q = true → (inqOf s q).length < 64 →
    Answers (.iqPush q w) s (fun t =>
    inqOf t q = inqOf s q ++ [w] ∧ (∀ k, k ≠ q → inqOf t k = inqOf s k) ∧ (∀ k, outqOf t k = outqOf s k) ∧
    Only [.aq] s t)) ∧
  (∀ s q w, q < 64 → queueRuns s q = true → s.cfg.resValid = true → s.img.inQ.getLsbD q = true → 64 ≤ (inqOf s q).length →
    Answers (.iqPush q w) s (fun t => regBit t (ro pRim (0x0A8 + 4 * (q / 32))) (q % 32) = true ∧
      OnlyRegs [ro pRim (0x0A8 + 4 * (q / 32))] s t ∧ Only [.regs, .scr] s t)) ∧
  (∀ s q w, (s.cfg.resValid = false ∨ s.img.inQ.getLsbD q = false) → Answers (.iqPush q w) s (Only [] s))

/-- The statements above together: input queues and the record of a cycle.
The model's own choices in it: log entries 1 and 111. -/
def Obligations.InputQueuesAndRecord : Prop := Obl.InputQueues ∧ Obl.InputRecordTakesOneEntryOfEachQueue

/-- R105, R249, R250, R318, R427: the oldest entry not yet visible becomes so once every tile has begun the cycle after it and its flits are
in, and goes to Markhor from a tapped queue, once also where cycles are executed again; OQ_VALID then rises for the head, and the
pop frees the entry's place; a queue that no resident image enables pops nothing. -/
def Obl.OutputQueues : Prop :=
  (∀ s q e, (outqOf s q).find? (fun e => !e.visible) = some e → (∀ p ∈ runTiles s, e.cyc < (tileOf s p).cycle) →
    outFlitsIn s e.cyc = true → Tbl.get 0 s.aq.outSkip q ≤ e.cyc →
    Answers (.outQueueEntryVisible q) s (fun t =>
      outqOf t q = (outqOf s q).map (fun x => if x.cyc = e.cyc then { x with visible := true } else x) ∧
      (∀ k, k ≠ q → outqOf t k = outqOf s k) ∧ (∀ k, inqOf t k = inqOf s k) ∧
      t.recov = { s.recov with shown := Tbl.set 0 s.recov.shown q (max (Tbl.get 0 s.recov.shown q) (e.cyc + 1)) } ∧
      t.mkh = { s.mkh with probes := s.mkh.probes ++
        if (reg64 s (ro pAcq 0xC38) (ro pAcq 0xC3C)).testBit q = true ∧ Tbl.get 0 s.recov.shown q ≤ e.cyc
        then [(64 + q, e.cyc, e.bits)] else [] } ∧ Only [.aq, .recov, .mkh] s t)) ∧
  (∀ s q e rest, outqOf s q = e :: rest → e.visible = true → queueRuns s (64 + q) = true → s.cfg.resValid = true →
    s.img.outQ.getLsbD q = true → Answers (.oqValid q) s (fun t =>
    outqOf t q = { e with valid := true } :: rest ∧ (∀ k, k ≠ q → outqOf t k = outqOf s k) ∧
    (∀ k, inqOf t k = inqOf s k) ∧ Only [.aq] s t)) ∧
  (∀ s q e rest, outqOf s q = e :: rest → e.valid = true → queueRuns s (64 + q) = true → s.cfg.resValid = true →
    s.img.outQ.getLsbD q = true → Answers (.oqPop q) s (fun t =>
    outqOf t q = rest ∧ (∀ k, k ≠ q → outqOf t k = outqOf s k) ∧ (∀ k, inqOf t k = inqOf s k) ∧
    Tbl.get 0 t.aq.outSkip q = e.cyc + 1 ∧ Only [.aq] s t)) ∧
  (∀ s q, (s.cfg.resValid = false ∨ s.img.outQ.getLsbD q = false) → Answers (.oqPop q) s (Only [] s))

/-- The statements above together: output entries and cycle-close tokens.
The model's own choices in it: log entries 42, 72 and 111. -/
def Obligations.OutputQueuesAndTokens : Prop := Obl.OutputFlitsAndBegunTokens ∧ Obl.OutputQueues

/-- The rim once DOZE_HOLD has been written: in DOZE without it the pins are safe (R259, R260). -/
def Obl.heldRim (s : State) (v : Reg) : Rim := if s.pwr.state = 2 ∧ v.getLsbD 2 = false then s.rim.dozeSafe else s.rim

/-- R242, R246, R259 to R261, R496, R499, R517: RUN = 1 asks for release from HELD, and is refused without a configuration; RUN = 0 returns the rim
to HELD; released, the rim runs with empty queues and every flip-flop and I/O register at its initial value once every RIMCLK in
use is running; SOFT_RESET holds the running rim until it is done; during a run neither RUN nor SOFT_RESET is taken.  A pin has
no drive without VIO; after a thermal trip it is in the safe state; EXTEST and CLAMP drive it from the boundary cells, HIGHZ not
at all; else a pin of a rim that is not running, or of a group that no edge has reached since, is in the safe state. -/
def Obl.RimControl : Prop :=
  (∀ s v, s.run.active = false → v.getLsbD 0 = true → v.getLsbD 1 = false → regBit s rimCtl 0 = false → rimShut s = false →
    Answers (.rimRun v) s (fun t => regBit t rimCtl 0 = true ∧ t.rim = { Obl.heldRim s v with release := true } ∧
      OnlyRegs [rimCtl] s t ∧ Only [.rim, .regs, .scr] s t)) ∧
  (∀ s v, s.run.active = false → v.getLsbD 0 = true → v.getLsbD 1 = false → regBit s rimCtl 0 = false → rimShut s = true →
    Answers (.rimRun v) s (fun t => regBit t rimCtl 0 = false ∧ t.rim = Obl.heldRim s v ∧ Stuck pRim 1 s t ∧
      Only [.rim, .regs, .scr] s t)) ∧
  (∀ s v, s.run.active = false → v.getLsbD 0 = false → v.getLsbD 1 = false → regBit s rimCtl 0 = true →
    Answers (.rimHold v) s (fun t => regBit t rimCtl 0 = false ∧
      t.rim = { s.rim.restart with release := false, softReset := false,
                                   state := if s.rim.state = .running then .held else s.rim.state } ∧
      OnlyRegs [rimCtl] s t ∧ Only [.rim, .regs, .scr] s t)) ∧
  (∀ s v, s.run.active = true → (v.getLsbD 0 ≠ regBit s rimCtl 0 ∨ v.getLsbD 1 = true) →
    Answers (.rimHold v) s (Refused pRim s) ∧ Answers (.softReset v) s (Refused pRim s)) ∧
  (∀ s v, s.run.active = false → v.getLsbD 0 = regBit s rimCtl 0 → v.getLsbD 1 = true → s.rim.state = .running →
    Answers (.softReset v) s (fun t => t.rim = { s.rim.restart with softReset := true } ∧ rimRuns t = false ∧
      OnlyRegs [rimCtl] s t ∧ Only [.rim, .regs, .scr] s t)) ∧
  (∀ s, Answers .softResetDone s (fun t => t.rim = { s.rim with softReset := false } ∧ Only [.rim] s t)) ∧
  (∀ s, s.rim.release = true → s.rim.state = .held → s.rim.usedClks &&& ~~~s.rim.clkRun = 0 → s.pwr.state ≠ 2 →
    Answers .rimRelease s (fun t => t.rim = { s.rim.restart with state := .running, release := false } ∧
      (∀ q, inqOf t q = []) ∧ (∀ q, outqOf t q = []) ∧ Only [.rim, .aq] s t)) ∧
  (∀ s p, s.hw.vio = false → pinOut s p = .off) ∧
  (∀ s p, s.hw.vio = true → s.hw.thermtrip = true → pinOut s p = .highZ (safePull s p)) ∧
  (∀ s p, s.hw.vio = true → s.hw.thermtrip = false → (s.tap.ir = 0 ∨ s.tap.ir = 4) →
    pinOut s p = (if s.tap.cells.getLsbD (Config.scanCell p 2) = true then
      .scan (s.tap.cells.getLsbD (Config.scanCell p 1)) (safePull s p) else .highZ (safePull s p))) ∧
  (∀ s p, s.hw.vio = true → s.hw.thermtrip = false → s.tap.ir = 3 → pinOut s p = .highZ (safePull s p)) ∧
  (∀ s p, s.hw.vio = true → s.tap.ir ≠ 0 → s.tap.ir ≠ 4 → (s.rim.state ≠ .running ∨ s.rim.softReset = true ∨ s.rim.live.getLsbD (p / 8) = false) →
    pinOut s p = .highZ (safePull s p))

/-- R246, R253: a PLL that locks to a reference that is there starts the RIMCLKs it drives and one that loses lock stops them, a
capture that waits for an edge of one of them then ending; CLR empties every array queue, and is refused during a run. -/
def Obl.RimClocksAndQueueClear : Prop :=
  (∀ s k, k < 4 → s.rim.state ≠ .noConfig → s.pwr.state ≠ 2 → s.rim.net.refs.getD k 0 ≤ 8 → (s.rim.net.refs.getD k 0 ≠ 0 ∨ s.hw.refLost = false) →
    Answers (.rimPllLock k) s (fun t =>
    t.rim.pllLock.getLsbD k = true ∧ t.rim.clkRun = s.rim.clkRun ||| pllClks s k ∧
    t.rim = { s.rim with pllLock := t.rim.pllLock, clkRun := t.rim.clkRun } ∧ Only [.rim] s t)) ∧
  (∀ s k, k < 4 → Answers (.rimPllLoss k) s (fun t =>
    t.rim.pllLock.getLsbD k = false ∧ t.rim.clkRun = s.rim.clkRun &&& ~~~pllClks s k ∧
    t.rim.want = s.rim.want.filter (fun w => !(pllClks s k).getLsbD w.clk) ∧
    t.rim = { s.rim with pllLock := t.rim.pllLock, clkRun := t.rim.clkRun, want := t.rim.want } ∧
    (s.rim.want = none → t.trc = s.trc) ∧ Only [.rim, .trc] s t)) ∧
  (∀ s v, v.getLsbD 0 = true → s.run.active = false → Answers (.aqClr v) s (fun t =>
    (∀ q, inqOf t q = []) ∧ (∀ q, outqOf t q = []) ∧ OnlyRegs [ro pRim 0x0A0] s t ∧ Only [.aq, .regs, .scr] s t)) ∧
  (∀ s v, v.getLsbD 0 = true → s.run.active = true → Answers (.aqClr v) s (Refused pRim s))

/-- R242, R243, R255, R256, R257, R262, R263: each step of a walk moves the line one tap toward its target; tracking changes no
setting; at an edge of a RIMCLK every flip-flop of its clusters takes its initial value under reset, its D input under enable, and
else what it held, all from the levels before the edge, and no other flip-flop changes; at the named edge the capture latches what
the flip-flops and I/O registers then hold, with SNAP_T, and asks for nothing more. -/
def Obl.DelayLinesAndCapture : Prop :=
  (∀ s pin, Answers (.delayWalkStep pin) s (fun t => (delayOf t pin).target = (delayOf s pin).target ∧
    ((delayOf t pin).tap - (delayOf s pin).target : Int).natAbs =
      ((delayOf s pin).tap - (delayOf s pin).target : Int).natAbs - 1 ∧
    (∀ k, k ≠ pin → delayOf t k = delayOf s k) ∧ t.rim = { s.rim with delay := t.rim.delay } ∧ Only [.rim] s t)) ∧
  (∀ s, rimRuns s = true → Answers .delayTrack s (fun t => t.rim = { s.rim with calibrated := true } ∧ Only [.rim] s t)) ∧
  (∀ s n cl c, (cl, c) ∈ clockedCells s n →
    ((clockedCells s n).map (fun e => e.2.at_)).Nodup →
    Tbl.get false (rimEdge n s).rim.flops c.at_ =
      if muxVal s cl.reset then c.init else if muxVal s cl.enable then dInput s c else Tbl.get false s.rim.flops c.at_) ∧
  (∀ s n k, (∀ e ∈ clockedCells s n, e.2.at_ ≠ k) → Tbl.get false (rimEdge n s).rim.flops k = Tbl.get false s.rim.flops k) ∧
  (∀ s frac w x, s.rim.want = some w → w.due (s.tb + BitVec.ofNat 64 frac.toNat) = true → (rimClks s).getLsbD w.clk = true →
    x = (if rimRuns s = true then (rimEdge w.clk s).rim else s.rim) → Answers (.rimCapture frac) s (fun t =>
      t.rim = { x with
        want := none, shadow := some (RimShot.mk (s.tb + BitVec.ofNat 64 frac.toNat) x.flops x.io) } ∧
      BitVec.ofNat 64 (reg64 t (ro pRim 0x0C4) (ro pRim 0x0C8)) = s.tb + BitVec.ofNat 64 frac.toNat ∧
      regBit t (ro pRim 0x0C0) 0 = true ∧ OnlyRegs [ro pRim 0x0C0, ro pRim 0x0C4, ro pRim 0x0C8] s t ∧
      Only [.rim, .regs, .scr, .trc, .free] s t))

/-- The statements above together: the rim is held and released, its clocks, delay lines and captures.
The model's own choices in it: log entries 53, 109, 110, 111, 131 and 136. -/
def Obligations.RimOperation : Prop := Obl.RimControl ∧ Obl.RimClocksAndQueueClear ∧ Obl.DelayLinesAndCapture

/-! ## Raduok lanes (10) -/

/-- Port `n` of `t` is `x`; no other port and no other part of the state but those in `ps` changes. -/
abbrev Obl.portOnly (ps : List Part) (s t : State) (n : Nat) (x : Port) : Prop :=
  portOf t n = x ∧ (∀ m, m ≠ n → portOf t m = portOf s m) ∧ Only (.ports :: ps) s t

/-- A port that stood as `x` after it has put blocks on its lanes, in order. -/
abbrev Obl.sent (s : State) (n : Nat) (x : Port) (bs : List (BitVec 66)) : Port :=
  bs.foldl (Port.put (devIdx s) n (txLanes s n)) x

/-- A CONTROL packet outside sequence numbers as blocks. -/
def Obl.early (ws : List Word) : List (BitVec 66) := Pkt.frame { vc := 2, kind := 2, seq := 0, words := ws }

/-- R271 to R274, R285: a block is appended to the port's stream, and goes to the next of the active lanes in ascending order,
one of each row to a lane, scrambled and coded; with a row of them every other driven lane has an IDLE block; a scrambled bit is
its bit XOR the scrambled bits 39 and 58 before it, across blocks; each lane's codeword ends with its thirty parity symbols; a
period begins with the lane's comma, which passes the receiver's check and names its device, port, lane and ACT.
The model's own choices in it: log entries 106 and 107. -/
def Obligations.LineCoding : Prop :=
  (∀ dev n drive x b, (Port.put dev n drive x b).wire = x.wire ++ [b]) ∧
  (∀ dev n drive x b r, (lanesOf x.txAct)[x.col]? = some r → x.col + 1 < (lanesOf x.txAct).length →
    Tbl.get TxLane.reset (Port.put dev n drive x b).tx r = (Tbl.get TxLane.reset x.tx r).block b ∧
    (Port.put dev n drive x b).col = x.col + 1 ∧ (Port.put dev n drive x b).row = x.row ∧
    (∀ k, k ≠ r → Tbl.get TxLane.reset (Port.put dev n drive x b).tx k = Tbl.get TxLane.reset x.tx k)) ∧
  (∀ dev n drive x b r, (lanesOf x.txAct)[x.col]? = some r → x.col + 1 = (lanesOf x.txAct).length → x.row + 1 < periodRows →
    Tbl.get TxLane.reset (Port.put dev n drive x b).tx r = (Tbl.get TxLane.reset x.tx r).block b ∧
    (Port.put dev n drive x b).col = 0 ∧ (Port.put dev n drive x b).row = x.row + 1 ∧
    (∀ k, k < 4 → k ≠ r → Tbl.get TxLane.reset (Port.put dev n drive x b).tx k =
      if x.drive.getLsbD k && !x.txAct.getLsbD k then (Tbl.get TxLane.reset x.tx k).block idleBlock
      else Tbl.get TxLane.reset x.tx k)) ∧
  (∀ st w i, i < 64 → (scramble st w).1.getLsbD i = (w.getLsbD i ^^
    (if i < 39 then st.getLsbD (19 + i) else (scramble st w).1.getLsbD (i - 39)) ^^
    (if i < 58 then st.getLsbD i else (scramble st w).1.getLsbD (i - 58)))) ∧
  (∀ st w i, i < 58 → (scramble st w).2.getLsbD i = (scramble st w).1.getLsbD (i + 6)) ∧
  (∀ t : TxLane, ∀ x, t.msg + 1 = (if t.cw = 52 then 299 else 514) →
    (t.symbol x).out = ((paritySyms (rsStep t.parity x)).map Line.sym).reverse ++ .sym x :: t.out ∧
    (paritySyms (rsStep t.parity x)).length = 30 ∧ (t.symbol x).cw = t.cw + 1 ∧ (t.symbol x).msg = 0) ∧
  (∀ dev n lane act, dev < 16 → n < 32 → lane < 4 → commaOk (commaOf dev n lane act) = true ∧
    commaDevOf (commaOf dev n lane act) = dev ∧ commaPort (commaOf dev n lane act) = n ∧
    commaLane (commaOf dev n lane act) = lane ∧ commaAct (commaOf dev n lane act) = act.toNat) ∧
  (∀ x : Port, ∀ dev n drive r, r ∈ lanesOf drive →
    (Tbl.get TxLane.reset (x.period dev n drive).tx r).out =
      .comma (commaOf dev n r (x.txAct &&& ~~~x.txDrop)) :: (Tbl.get TxLane.reset x.tx r).out ∧
    (Tbl.get TxLane.reset (x.period dev n drive).tx r).scr = (Tbl.get TxLane.reset x.tx r).scr)

/-- R277 to R282: bring-up goes from SIGNAL over CDR, COMMA, ORDER, DESKEW and FEC to HANDSHAKE, where HELLO is sent; commas on
four live lanes in straight order fix polarity, the partner's device and its ACT; a failed attempt restarts at SIGNAL; HELLO is
repeated after a HELLO that failed its checks.

R397, R488, R496: with a failed load, in IDLE or DOZE, or after a thermal trip, no lane is driven and no state of bring-up is passed.
The model's own choices in it: log entries 14, 47, 107, 108 and 134. -/
def Obligations.LaneBringUp : Prop :=
  (∀ s n, mayDrive s = true → (portOf s n).state = 1 → (portOf s n).ended = false → s.hw.laneRef.getLsbD (refOf n) = true →
    Answers (.signalDetect n) s (fun t => Obl.portOnly [] s t n { portOf s n with state := 2 })) ∧
  (∀ s n, mayDrive s = true → (portOf s n).state = 2 → (portOf s n).ended = false →
    Answers (.cdrLock n) s (fun t => Obl.portOnly [] s t n { portOf s n with state := 3 })) ∧
  (∀ s n dev prt, ∀ c : Nat → CommaSeen, mayDrive s = true → (portOf s n).state = 3 → (portOf s n).ended = false →
    liveLanes s n = [0, 1, 2, 3] →
    (∀ r, r < 4 → commaOk (c r).block = true ∧ commaLane (c r).block = r ∧ commaDevOf (c r).block = dev ∧
      commaPort (c r).block = prt) →
    Answers (.commaAlign n [some (c 0), some (c 1), some (c 2), some (c 3)] 0) s (fun t =>
      Obl.portOnly [] s t n { portOf s n with
        state := 6, commaDev := dev, rxStripe := BitVec.ofNat 4 (commaAct (c 0).block), lanes := (portOf t n).lanes } ∧
      ∀ r, r < 4 → (portOf t n).lane r =
        { (portOf s n).lane r with inv := (c r).inverted, logical := r, failed := false })) ∧
  (∀ s n errs, mayDrive s = true → (portOf s n).state = 6 → (portOf s n).ended = false → liveLanes s n = [0, 1, 2, 3] →
    Answers (.fecLock n 0xF errs) s (fun t => (portOf t n).state = 7 ∧
      (portOf t n).wire = (portOf s n).wire ++ Obl.early (helloWords s n 1) ∧ (portOf t n).txAct = 0xF ∧
      (portOf t n).rxAct = bitsOf 4 ([0, 1, 2, 3].map (fun r => ((portOf s n).lane r).logical)) ∧ (portOf t n).unacked = [] ∧
      (portOf t n).txSeq = 0 ∧ (portOf t n).rxSeq = 0 ∧ Obl.portOnly [.regs, .scr] s t n (portOf t n) ∧
      OnlyRegs [lnkReg n 0x0A4, lnkReg n 0x0A8] s t ∧ (errs = [] → Only [.ports] s t))) ∧
  (∀ s n, laneEn s n ≠ 0 → (portOf s n).state ≠ 0 → (portOf s n).state < 8 → Answers (.bringupRetry n) s (fun t =>
    (portOf t n).state = 1 ∧ (portOf t n).ended = false ∧ (portOf t n).rxAct = 0 ∧ (portOf t n).txAct = 0 ∧
    (portOf t n).fail = (if (portOf s n).ended then (portOf s n).fail else (portOf s n).state) ∧
    (∀ r, r < 4 → (laneEn s n).testBit r = true →
      ((portOf t n).lane r).eq = ((portOf s n).lane r).eqNext ∧ ((portOf t n).lane r).failed = false) ∧
    (∀ r, r < 4 → (laneEn s n).testBit r = false → (portOf t n).lane r = (portOf s n).lane r) ∧
    t.run = { s.run with holds := s.run.holds.filter (fun h => decide (h ≠ .recal n)) } ∧
    (∀ p, tileOf t p = { tileOf s p with wait := (tileOf t p).wait }) ∧
    Obl.portOnly [.run, .tiles] s t n (portOf t n))) ∧
  (∀ s n, mayDrive s = true → (portOf s n).state = 7 → (portOf s n).helloSeen = true → (portOf s n).helloGot = false →
    Answers (.helloResend n) s (fun t => Obl.portOnly [] s t n
      (Obl.sent s n { portOf s n with early := (portOf s n).early + 1 } (Obl.early (helloWords s n 1))))) ∧
  (∀ s n seen late clean errs, (s.pwr.state ≠ 0 ∨ (8 ≤ s.cfg.state ∧ s.cfg.state ≤ 11) ∨ s.hw.thermtrip = true) →
    Answers (.signalDetect n) s (Only []  s) ∧ Answers (.cdrLock n) s (Only [] s) ∧
    Answers (.commaAlign n seen late) s (Only [] s) ∧ Answers (.fecLock n clean errs) s (Only [] s))

/-- R284, R288: blocks of the row's kind arrive on a port that takes packets, `s'` being the state once their codewords and the
blocks before the packet have been taken; packet `f` is whole, its header and CRC hold, it has the expected sequence number, and
its VC, and for USER the FIFO, has room. -/
abbrev Obl.goodPacket (s s' : State) (n kind op : Nat) (k : LinkPkt) (f : Frame) : Prop :=
  rxOpen s n = true ∧ forRow k kind op = true ∧ s' = takeLine n k s ∧ rxOpen s' n = true ∧ framing k.blocks = .whole f ∧
  fld f.eop 32 24 = 0 ∧ f.headerOk = true ∧ packetCrc f.sop f.payload = f.crc ∧ f.seq = (portOf s' n).rxSeq % 4096 ∧
  ownPool n f.vc ≠ 0 ∧ roomFor (portOf s' n) n f.vc (unitsOf f.len) = true ∧ fifoFull (portOf s' n) f = false

/-- R286, R288: the port after it has taken packet `f`: the next number is expected, an ACK is due, its units are used, and
freed unless `hold` keeps them for software. -/
def Obl.taken (x : Port) (f : Frame) (hold : Bool) : Port :=
  { x with
    rxSeq := x.rxSeq + 1, ackDue := true, errSince := false,
    rxUnits := Tbl.set 0 x.rxUnits f.vc (Tbl.get 0 x.rxUnits f.vc + unitsOf f.len),
    rxFreed := if hold then x.rxFreed else Tbl.set 0 x.rxFreed f.vc (Tbl.get 0 x.rxFreed f.vc + unitsOf f.len),
    creditDue := x.creditDue || !hold }

/-- R282, R288: control packets in HANDSHAKE that pass their checks. -/
abbrev Obl.goodHandshake (s s' : State) (n op : Nat) (k : LinkPkt) (f : Frame) : Prop :=
  (portOf s n).state = 7 ∧ forRow k 2 op = true ∧ s' = takeLine n k s ∧ (portOf s' n).state = 7 ∧
  framing k.blocks = .whole f ∧ fld f.eop 32 24 = 0 ∧ f.headerOk = true ∧
  packetCrc f.sop f.payload = f.crc ∧ controlRefusal n f = none

/-- R282, R302, R303: HELLO is checked and answered with HELLO_ACK, and the port is UP once HELLO_ACK has been sent and
received, a link port then sending RUNINFO and MAPSYNC; RUNINFO is kept, MAPSYNC replaces the copy of the partner's tile map,
a USER packet goes whole to CTL_RX and keeps its units, ERROR only frees its own. -/
def Obl.ControlMessages : Prop :=
  (∀ s u n k f, Obl.goodHandshake s u n 1 k f → helloOk u n (f.word 0) = true → (portOf u n).ackGot = false →
    Answers (.hello n k) s (fun t => Obl.portOnly [.regs, .scr] u t n (Obl.sent u n { portOf u n with
        helloSeen := true, helloGot := true, ackSent := true, advertised := poolsOf (f.word 1),
        early := (portOf u n).early + 1 } (Obl.early (helloWords u n 2))) ∧
      getReg t (lnkReg n 0x08C) = partnerOf (f.word 0) ∧
      OnlyRegs [lnkReg n 0x08C] u t)) ∧
  (∀ s u n k f, Obl.goodHandshake s u n 2 k f → mayDrive u = true → (portOf u n).ackSent = true → Answers (.helloAck n k) s (fun t =>
    (portOf t n).state = 8 ∧ (portOf t n).txSeq = 0 ∧ (portOf t n).rxSeq = 0 ∧
    (portOf t n).rdy = (portOf u n).rdy ++ (if isLink n then
      [{ vc := 2, kind := 2, seq := 0, words := runInfoWords u }, { vc := 2, kind := 2, seq := 0, words := mapSyncWords u }]
      else []) ∧ Obl.portOnly [] u t n (portOf t n))) ∧
  (∀ s u n k f, Obl.goodPacket s u n 2 3 k f → controlRefusal n f = none → Answers (.runinfo n k) s (fun t =>
    Obl.portOnly [] u t n { Obl.taken (portOf u n) f false with runInfo := f.payload })) ∧
  (∀ s u n k f, Obl.goodPacket s u n 2 4 k f → controlRefusal n f = none → Answers (.mapsync n k) s (fun t =>
    Obl.portOnly [.ex] u t n (Obl.taken (portOf u n) f false) ∧ t.ex = { u.ex with peerMap := t.ex.peerMap } ∧
    ∀ i, i < 64 → Tbl.get (i % 16, 0) t.ex.peerMap (regF u (lnkReg n 0x08C) 0 4 * 64 + i) =
      (fld (f.word (1 + i / 4)) (16 * (i % 4)) 5, fld (f.word (1 + i / 4)) (16 * (i % 4) + 5) 8))) ∧
  (∀ s u n k f, Obl.goodPacket s u n 2 0x10 k f → controlRefusal n f = none → Answers (.user n k) s (fun t =>
    Obl.portOnly [] u t n { Obl.taken (portOf u n) f true with ctlRx := (portOf u n).ctlRx ++ [f.payload] })) ∧
  (∀ s u n k f, Obl.goodPacket s u n 2 0x7F k f → controlRefusal n f = none → Answers (.errorMsg n k) s (fun t =>
    Obl.portOnly [] u t n (Obl.taken (portOf u n) f false)))

/-- R92, R94, R98, R109, R113, R293, R299, R317: an EXCH packet brings a flit to the main rings, bound for its target die, or a
token that says which cycle its device has begun; a STREAM packet in order adds its samples to the armed channel bound to it; a
MARKER's arrival is stamped; one is queued for a port that is UP and not idle. -/
def Obl.PacketContents : Prop :=
  (∀ s u n k f, Obl.goodPacket s u n 0 0 k f → fld (f.word 0) 58 4 = devIdx u → fld (f.word 0) 62 2 = 0 → f.len = 21 →
    fld (f.word 0) 0 15 = 0 →
    Answers (.exchPacket n k) s (fun t => Obl.portOnly [.ex] u t n (Obl.taken (portOf u n) f false) ∧
      t.ex = { u.ex with flits := u.ex.flits ++
        [{ flitOfWords u f with tok := some (Tbl.get 0 u.ex.peerBegun (32 * fld (f.word 0) 43 4 + n)) }.onMain
          (portStop n) (bridgeStop (flitOfWords u f).dstDie)] })) ∧
  (∀ s u n k f, Obl.goodPacket s u n 0 0 k f → fld (f.word 0) 58 4 = devIdx u → fld (f.word 0) 62 2 = 2 → f.len = 1 →
    fld (f.word 0) 52 6 = 0 →
    Answers (.exchPacket n k) s (fun t => Obl.portOnly [.ex] u t n (Obl.taken (portOf u n) f false) ∧ t.ex.flits = u.ex.flits ∧
      ∀ x, Tbl.get 0 t.ex.peerBegun x = if x = 32 * fld (f.word 0) 48 4 + n
        then max (Tbl.get 0 u.ex.peerBegun x) (fld (f.word 0) 0 48 + 1) else Tbl.get 0 u.ex.peerBegun x)) ∧
  (∀ s u n k f x, Obl.goodPacket s u n 0 0 k f → fld (f.word 0) 58 4 = devIdx u → fld (f.word 0) 62 2 = 3 → f.len = 1 →
    fld (f.word 0) 0 24 = 0 → fld (f.word 0) 32 11 = 0 →
    x = fld (f.word 0) 43 4 * 64 + fld (f.word 0) 56 2 * 16 + fld (f.word 0) 52 4 →
    Answers (.exchPacket n k) s (fun t => Obl.portOnly [.ex] u t n (Obl.taken (portOf u n) f false) ∧
      t.ex = { u.ex with peerMap := t.ex.peerMap } ∧
      Tbl.get (x % 16, 0) t.ex.peerMap x = (fld (f.word 0) 47 5, fld (f.word 0) 24 8) ∧
      ∀ y, y ≠ x → Tbl.get (y % 16, 0) t.ex.peerMap y = Tbl.get (y % 16, 0) u.ex.peerMap y)) ∧
  (∀ s u n k f frac c, Obl.goodPacket s u n 1 0 k f → regBit u (lnkReg n 0x0AC) (fld (f.word 0) 59 5) = true →
    fld (f.word 0) 56 3 < 4 → fld (f.word 0) 54 2 ≠ 3 → fld (f.word 0) 48 6 = 0 → boundChan u n (fld (f.word 0) 59 5) = some c →
    mkhArmed u = true → (mchanOf u c).lastSseq = none → samplesFit u c (4 * (f.len - 2)) = true →
    Answers (.stream n k frac) s (fun t => Obl.portOnly [.regs, .scr, .mkh, .banks, .dies, .recov, .evl] u t n
        (Obl.taken (portOf u n) f false) ∧
      (mchanOf t c).count = (mchanOf u c).count + 4 * (f.len - 2) ∧
      (mchanOf t c).lastSseq = some (fld (f.word 0) 0 48) ∧ (mchanOf t c).fmt = some (fld (f.word 0) 56 3) ∧
      (mchanOf t c).cls = some (fld (f.word 0) 54 2))) ∧
  (∀ s u n k f frac, Obl.goodPacket s u n 3 0 k f → fld (f.word 1) 32 32 = 0 → getReg u (ro pAcq 0x0B0) = 0 →
    Answers (.marker n k frac) s (fun t => Obl.portOnly [] u t n
      { Obl.taken (portOf u n) f false with markRx := u.tb + BitVec.ofNat 64 frac.toNat })) ∧
  (∀ s n, (portOf s n).state = 8 → (portOf s n).eidleTx = false → (portOf s n).eidleRx = false →
    Answers (.markerSend n) s (fun t => Obl.portOnly [] s t n { portOf s n with
      rdy := (portOf s n).rdy ++ [{ vc := 3, kind := 3, seq := 0, words := [0, 0, 0] }] }))

/-- R273, R288, R304, R310: a corrected codeword counts its wrong symbols, for the lane and for the port, an uncorrectable one
counts as such and is answered with NAK; a packet whose CRC fails answers NAK of the expected number and is not taken; one with a
wrong sequence number is the violation 0x05, recorded and logged. -/
def Obl.BadPacketsAreNotTaken : Prop :=
  (∀ s n k, k.errs = [] → k.commas = [] → strays k.blocks = [] → k.blocks.any errored = false → takeLine n k s = s) ∧
  (∀ s n e, ((portOf (decoded s n e) n).lane e.lane).syms = ((portOf s n).lane e.lane).syms + BitVec.ofNat 32 e.wrong ∧
    (getReg (decoded s n e) (lnkReg n 0x0A4)).toNat =
      (if e.wrong ≤ 15 then min 0xFFFFFFFF ((getReg s (lnkReg n 0x0A4)).toNat + e.wrong) else (getReg s (lnkReg n 0x0A4)).toNat) ∧
    (getReg (decoded s n e) (lnkReg n 0x0A8)).toNat =
      (if e.wrong ≤ 15 then (getReg s (lnkReg n 0x0A8)).toNat else min 0xFFFFFFFF ((getReg s (lnkReg n 0x0A8)).toNat + 1)) ∧
    OnlyRegs [lnkReg n 0x0A4, lnkReg n 0x0A8] s (decoded s n e)) ∧
  (∀ s n e frac, rxOpen s n = true → 15 < e.wrong → lockLost (decoded s n e) n e.lane = false →
    (portOf s n).lastNak = none → (portOf s n).eidleTx = false →
    (portOf s n).eidleReq = false → Answers (.marker n { blocks := [], errs := [e] } frac) s
      (fun t => (portOf t n).wire = (portOf s n).wire ++ [ctlBlk (nakWord ((portOf s n).rxSeq % 4096))] ∧
        (portOf t n).errSince = true ∧ (portOf t n).rxSeq = (portOf s n).rxSeq ∧
        (getReg t (lnkReg n 0x0A8)).toNat = min 0xFFFFFFFF ((getReg s (lnkReg n 0x0A8)).toNat + 1))) ∧
  (∀ s u n k f frac, rxOpen s n = true → forRow k 3 0 = true → u = takeLine n k s → rxOpen u n = true →
    framing k.blocks = .whole f → fld f.eop 32 24 = 0 → f.headerOk = true →
    packetCrc f.sop f.payload ≠ f.crc → (portOf u n).lastNak = none → (portOf u n).eidleTx = false →
    (portOf u n).eidleReq = false → Answers (.marker n k frac) s (fun t => Obl.portOnly [] u t n (Obl.sent u n { portOf u n with
        errSince := true, lastNak := some ((portOf u n).rxSeq % 4096, u.tb) } [ctlBlk (nakWord ((portOf u n).rxSeq % 4096))]))) ∧
  (∀ s u n k f, n < 16 → rxOpen s n = true → forRow k 0 0 = true → u = takeLine n k s → rxOpen u n = true →
    framing k.blocks = .whole f → fld f.eop 32 24 = 0 → f.headerOk = true →
    packetCrc f.sop f.payload = f.crc → (portOf u n).errSince = false → (portOf u n).lastNak = none →
    f.seq = ((portOf u n).rxSeq + 1) % 4096 → regF u (lnkReg n 0x09C) 0 8 = 0 → Answers (.exchPacket n k) s (fun t =>
      getReg t (lnkReg n 0x098) = (place 32 0 8 0x05 ||| place 32 8 12 f.seq ||| place 32 31 1 1) ∧
      (getReg t (lnkReg n 0x094)).toNat = min 0xFFFFFFFF ((getReg u (lnkReg n 0x094)).toNat + 1) ∧
      Stuck (pLnk n) 4 u t ∧ (portOf t n).rxSeq = (portOf u n).rxSeq ∧ t.ex = u.ex ∧
      (∀ m, m ≠ n → portOf t m = portOf u m) ∧ Only [.ports, .regs, .scr, .evl] u t))

/-- The statements above together: packets that are taken and packets that are not.
The model's own choices in it: log entries 41, 46, 107, 123 and 126. -/
def Obligations.Packets : Prop := Obl.PacketContents ∧ Obl.BadPacketsAreNotTaken

/-- A control word of code `code` arrives on a port that takes words, without a reserved bit. -/
abbrev Obl.goodWord (s : State) (n code : Nat) (named w : Word) : Prop :=
  rxOpen s n = true ∧ fld w 56 8 = code ∧ w &&& ~~~(named ||| place 64 56 8 0xFF) = 0

/-- The transmitter of port `n` is not in electrical idle, nor asked to be. -/
abbrev Obl.awake (s : State) (n : Nat) : Prop := (portOf s n).eidleTx = false ∧ (portOf s n).eidleReq = false

/-- R286 to R289, R293, R304: the transmitter sends its next ready packet with the next number and keeps it, a MARKER with the
stamp of its departure, and of a resend the next kept one; ACK frees every packet up to its number, NAK resends from its number
and is counted in RETRY_CNT, as is a timeout, which resends from the oldest; ACK and CREDIT blocks go out when due, and CREDIT sets
the units freed; a reserved code or bit is the violation 0x01.
The model's own choices in it: log entries 46 and 107. -/
def Obligations.AckNakAndCredit : Prop :=
  (∀ s n p frac, (portOf s n).state = 8 → (portOf s n).eidleTx = false → (portOf s n).unacked[(portOf s n).resend]? = none →
    (portOf s n).nextPkt = some p → (portOf s n).holdsPkt p = true → (p.kind ≠ 3 ∨ getReg s (ro pAcq 0x0B0) = 0) →
    Answers (.packetSend n frac) s (fun t => Obl.portOnly [] s t n (Obl.sent s n { portOf s n with
        rdy := (portOf s n).rdy.erase p,
        unacked := (portOf s n).unacked ++ [departing s n (s.tb + BitVec.ofNat 64 frac.toNat) p],
        resend := (portOf s n).unacked.length + 1, txSeq := (portOf s n).txSeq + 1,
        txUnits := Tbl.upd 0 (portOf s n).txUnits p.vc (· + unitsOf p.words.length) }
      (departing s n (s.tb + BitVec.ofNat 64 frac.toNat) p).frame))) ∧
  (∀ s n t p, departing s n t p = { p with
    seq := (portOf s n).txSeq % 4096,
    words := if p.kind = 3 then [t, place 64 0 32 (tOneway s n), (portOf s n).markRx] else p.words }) ∧
  (∀ s n p frac, ((portOf s n).state = 8 ∨ (portOf s n).state = 0xA) → (portOf s n).eidleTx = false →
    (portOf s n).unacked[(portOf s n).resend]? = some p → Answers (.packetSend n frac) s (fun t =>
      Obl.portOnly [] s t n (Obl.sent s n { portOf s n with resend := (portOf s n).resend + 1 } p.frame))) ∧
  (∀ s n w, Obl.goodWord s n 3 (place 64 42 12 0xFFF) w → (portOf s n).sent (fld w 42 12) = true →
    (portOf s n).eidleReq = false → (portOf s n).age (fld w 42 12) < (portOf s n).unacked.length →
    Answers (.ack n w) s (fun t => Obl.portOnly [] s t n { portOf s n with
      unacked := (portOf s n).unacked.drop ((portOf s n).unacked.length - (portOf s n).age (fld w 42 12)),
      resend := (portOf s n).resend - ((portOf s n).unacked.length - (portOf s n).age (fld w 42 12)), timeouts := 0 })) ∧
  (∀ s n w i, Obl.goodWord s n 4 (place 64 42 12 0xFFF) w → (portOf s n).sent (fld w 42 12) = true →
    i + (portOf s n).age (fld w 42 12) + 1 = (portOf s n).unacked.length → i < (portOf s n).resend →
    Answers (.nak n w) s (fun t => Obl.portOnly [.regs, .scr] s t n { portOf s n with resend := i } ∧
      (getReg t (lnkReg n 0x0A0)).toNat = min 0xFFFFFFFF ((getReg s (lnkReg n 0x0A0)).toNat + 1) ∧
      OnlyRegs [lnkReg n 0x0A0] s t)) ∧
  (∀ s n, Obl.awake s n → (portOf s n).ackDue = true → 8 ≤ (portOf s n).state → Answers (.ackSend n) s (fun t =>
    Obl.portOnly [] s t n (Obl.sent s n { portOf s n with ackDue := false }
      [ctlBlk (ackWord (((portOf s n).rxSeq + 4095) % 4096))]))) ∧
  (∀ s n w, Obl.goodWord s n 5 (place 64 8 48 (2 ^ 48 - 1)) w → Answers (.credit n w) s (fun t =>
    Obl.portOnly [] s t n { portOf s n with txFreed := (portOf t n).txFreed } ∧
    ∀ v, v < 4 → Tbl.get 0 (portOf t n).txFreed v = fld w (44 - 12 * v) 12)) ∧
  (∀ s n, Obl.awake s n → (portOf s n).creditDue = true → 8 ≤ (portOf s n).state → Answers (.creditReturn n) s (fun t =>
    Obl.portOnly [] s t n (Obl.sent s n { portOf s n with creditDue := false } [ctlBlk (creditWord (portOf s n))]))) ∧
  (∀ s n, 8 ≤ (portOf s n).state → (portOf s n).unacked ≠ [] → (portOf s n).timeouts + 1 < 8 →
    Answers (.retryTimeout n) s (fun t => Obl.portOnly [.regs, .scr] s t n { portOf s n with
        resend := 0, timeouts := (portOf s n).timeouts + 1 } ∧
      (getReg t (lnkReg n 0x0A0)).toNat = min 0xFFFFFFFF ((getReg s (lnkReg n 0x0A0)).toNat + 1) ∧
      OnlyRegs [lnkReg n 0x0A0] s t)) ∧
  (∀ s n w, rxOpen s n = true → regF s (lnkReg n 0x09C) 0 8 = 0 → n < 24 →
    (0x0B ≤ fld w 56 8 ∨ (fld w 56 8 = 3 ∧ w &&& ~~~(place 64 42 12 0xFFF ||| place 64 56 8 0xFF) ≠ 0)) →
    Answers (.ack n w) s (fun t => getReg t (lnkReg n 0x098) = (place 32 0 8 0x01 ||| place 32 31 1 1) ∧
      (getReg t (lnkReg n 0x094)).toNat = min 0xFFFFFFFF ((getReg s (lnkReg n 0x094)).toNat + 1) ∧ Stuck (pLnk n) 4 s t ∧
      (portOf t n).unacked = (portOf s n).unacked ∧ Only [.ports, .regs, .scr, .evl] s t))

/-- R281, R292, R294: PING is answered with its TAG, and a PONG of an outstanding PING adds (RTT - HOLD) / 2 to the last 16
results, while one that does not come in time counts nothing; a lane fails with its fourth uncorrectable codeword of 16, and with
the second comma in a row that does not come; the first receive lane that fails leaves ACT and sends
LANE_DOWN, with DEGRADED and its event, repeated until the partner's commas show the lane outside ACT, and LANE_DOWN from the
partner drops the lane from the next alignment period on.
The model's own choices in it: log entries 11 and 108. -/
def Obligations.PingAndLaneLoss : Prop :=
  (∀ s n w, Obl.awake s n → Obl.goodWord s n 6 (place 64 32 16 0xFFFF) w → Answers (.ping n w) s (fun t => ∃ hold : Nat,
    Obl.portOnly [.free] s t n (Obl.sent s n (portOf s n)
      [ctlBlk (ctlWord 7 ||| place 64 32 16 (fld w 32 16) ||| place 64 0 32 hold)]))) ∧
  (∀ s n, (portOf s n).state = 8 → (portOf s n).eidleTx = false → (portOf s n).eidleRx = false →
    Answers (.pingSend n) s (fun t => Obl.portOnly [] s t n (Obl.sent s n { portOf s n with
      pingTag := ((portOf s n).pingTag + 1) % 65536, pings := (portOf s n).pings ++ [(portOf s n).pingTag] }
      [ctlBlk (ctlWord 6 ||| place 64 32 16 (portOf s n).pingTag)]))) ∧
  (∀ s n w rtt, Obl.goodWord s n 7 (place 64 0 48 (2 ^ 48 - 1)) w → fld w 32 16 ∈ (portOf s n).pings →
    Answers (.pong n w rtt) s (fun t => Obl.portOnly [] s t n { portOf s n with
      pings := (portOf s n).pings.erase (fld w 32 16),
      lats := ((portOf s n).lats ++ [(rtt - fld w 0 32) / 2]).drop ((portOf s n).lats.length - 15) })) ∧
  (∀ s n tag, Answers (.pongTimeout n tag) s (fun t =>
    Obl.portOnly [] s t n { portOf s n with pings := (portOf s n).pings.erase tag })) ∧
  (∀ s n r l, rxOpen s n = true → Obl.awake s n → ((portOf s n).lane r).failed = false → ((portOf s n).lane r).logical = l → l < 4 →
    (portOf s n).rxAct = 0xF → (portOf s n).rxLost = 0 → Answers (.laneFail n r) s (fun t =>
      Obl.portOnly [.regs, .scr, .evl] s t n (Obl.sent s n { portOf s n with
        rxAct := 0xF &&& ~~~(place 4 l 1 1), rxLost := place 4 l 1 1,
        lanes := Tbl.set Lane.reset (portOf s n).lanes r { (portOf s n).lane r with failed := true } }
        [ctlBlk (laneDownWord (place 4 l 1 1))]) ∧
      Stuck (pLnk n) 1 s t ∧
      t.evl.log.getLast? = some { time := s.tb, code := 0x0040, page := pLnk n, detail := 0 })) ∧
  (∀ s n w l, l < 4 → Obl.goodWord s n 8 (place 64 0 4 0xF) w → fld w 0 4 = 2 ^ l → (portOf s n).txAct = 0xF →
    (portOf s n).txDrop = 0 → Answers (.laneDown n w) s (fun t =>
      Obl.portOnly [.regs, .scr, .evl] s t n { portOf s n with txDrop := place 4 l 1 1 } ∧ Stuck (pLnk n) 1 s t)) ∧
  (∀ s n c, rxOpen s n = true → Obl.awake s n → commaOk c = true → (portOf s n).rxLost ≠ 0 →
    (portOf s n).rxLost &&& BitVec.ofNat 4 (commaAct c) ≠ 0 →
    Answers (.laneDownRepeat n c) s (fun t => Obl.portOnly [] s t n (Obl.sent s n
      { portOf s n with rxStripe := BitVec.ofNat 4 (commaAct c) } [ctlBlk (laneDownWord (portOf s n).rxLost)]))) ∧
  (∀ s n c, rxOpen s n = true → commaOk c = true → (portOf s n).rxLost &&& BitVec.ofNat 4 (commaAct c) = 0 →
    Answers (.laneDownRepeat n c) s (fun t => Obl.portOnly [] s t n
      { portOf s n with rxStripe := BitVec.ofNat 4 (commaAct c), rxLost := 0 })) ∧
  (∀ s n, (portOf s n).txDrop ≠ 0 → Answers (.restripe n) s (fun t =>
    Obl.portOnly [] s t n ((portOf s n).fillPeriod.period (devIdx s) n (txLanes s n)) ∧
    (portOf t n).txAct = (portOf s n).txAct &&& ~~~(portOf s n).txDrop ∧ (portOf t n).txDrop = 0 ∧ (portOf t n).resend = 0)) ∧
  (∀ s n e l frac, rxOpen s n = true → Obl.awake s n → ((portOf s n).lane e.lane).failed = false →
    ((portOf s n).lane e.lane).logical = l → l < 4 → (portOf s n).rxAct = 0xF → (portOf s n).rxLost = 0 → 15 < e.wrong →
    e.clean < 15 → 3 ≤ ones 16 (((portOf s n).lane e.lane).hist <<< (e.clean + 1)).toNat →
    Answers (.marker n { blocks := [], errs := [e] } frac) s (fun t =>
      (portOf t n).rxAct = 0xF &&& ~~~(place 4 l 1 1) ∧ (portOf t n).rxLost = place 4 l 1 1 ∧
      ((portOf t n).lane e.lane).failed = true ∧ Stuck (pLnk n) 1 s t ∧
      Obl.portOnly [.regs, .scr, .evl] s t n (portOf t n))) ∧
  (∀ s n r frac, rxOpen s n = true → ((portOf s n).lane r).gap = false →
    Answers (.marker n { blocks := [], errs := [], commas := [{ lane := r, seen := false }] } frac) s (fun t =>
      Obl.portOnly [] s t n { portOf s n with
        lanes := Tbl.set Lane.reset (portOf s n).lanes r { (portOf s n).lane r with gap := true } })) ∧
  (∀ s n r l frac, rxOpen s n = true → Obl.awake s n → ((portOf s n).lane r).failed = false →
    ((portOf s n).lane r).logical = l → l < 4 → (portOf s n).rxAct = 0xF → (portOf s n).rxLost = 0 →
    ((portOf s n).lane r).gap = true →
    Answers (.marker n { blocks := [], errs := [], commas := [{ lane := r, seen := false }] } frac) s (fun t =>
      (portOf t n).rxAct = 0xF &&& ~~~(place 4 l 1 1) ∧ (portOf t n).rxLost = place 4 l 1 1 ∧
      ((portOf t n).lane r).failed = true ∧ (portOf t n).wire = (portOf s n).wire ++ [ctlBlk (laneDownWord (place 4 l 1 1))] ∧
      Stuck (pLnk n) 1 s t ∧ Obl.portOnly [.regs, .scr, .evl] s t n (portOf t n)))

/-- R306: after a link-layer reset the port is in HANDSHAKE with nothing queued, sent or acknowledged; RESET has gone to every
active lane, and HELLO after it; PORT_RESET is set, with its event. -/
abbrev Obl.portWasReset (s t : State) (n : Nat) : Prop :=
  (portOf t n).state = 7 ∧ (portOf t n).rdy = [] ∧ (portOf t n).unacked = [] ∧ (portOf t n).txSeq = 0 ∧
  (portOf t n).rxSeq = 0 ∧ (portOf t n).wire = (portOf s n).wire ++
    List.replicate (ones 4 (portOf s n).txAct.toNat) (ctlBlk (ctlWord 0x0A)) ++ Obl.early (helloWords s n 1) ∧
  Stuck (pLnk n) 3 s t ∧ t.evl.log.getLast? = some { time := s.tb, code := 0x0042, page := pLnk n, detail := 0 } ∧
  t.run = { s.run with holds := s.run.holds.filter (fun h => decide (h ≠ .recal n)) } ∧
  (∀ p, tileOf t p = { tileOf s p with wait := (tileOf t p).wait }) ∧
  Obl.portOnly [.regs, .scr, .evl, .run, .tiles] s t n (portOf t n)

/-- A PORT_CTL write with `v` leaves LANE_EN as it stands, in power state RUN, on a port outside the active run's link maps. -/
abbrev Obl.portCtl (s : State) (n : Nat) (v : Reg) : Prop :=
  runPort s n = false ∧ fld v 0 4 = laneEn s n ∧ laneEn s n ≠ 0 ∧ s.pwr.state = 0 ∧ s.pwr.entering = none

/-- R296 to R298, R306: EIDLE from the partner, and its return; PORT_CTL.EIDLE drains into electrical idle, two EIDLE blocks per
lane, and a ready packet leaves it, each lane with the exit burst, an extra comma and a new period; a control block that is due
leaves it for its time; RECAL takes the port down to RECAL, and with commas and clean codewords on its lanes it comes back UP;
RESET and PORT_CTL.PORT_RESET reset the link layer.
The model's own choices in it: log entries 47, 107 and 127. -/
def Obligations.IdleRecalAndReset : Prop :=
  (∀ s n w, Obl.goodWord s n 9 0 w → Answers (.eidleBlock n w) s (fun t =>
    Obl.portOnly [] s t n { portOf s n with eidleRx := true })) ∧
  (∀ s n w, n < 24 → 7 ≤ (portOf s n).state → (portOf s n).state ≤ 0xA → (portOf s n).eidleRx = false → w = ctlWord 0x0A →
    (portOf s n).eidleTx = false → (portOf s n).drive ≠ 0 → (portOf s n).txDrop = 0 → runPort s n = false →
    Answers (.resetBlock n w) s (fun t => Obl.portWasReset s t n)) ∧
  (∀ s n v, n < 24 → Obl.portCtl s n v → v.getLsbD 5 = true → v.getLsbD 6 = false → v.getLsbD 8 = false → (portOf s n).state = 8 →
    (portOf s n).rdy = [] → (portOf s n).unacked = [] → Answers (.eidleRequest n v) s (fun t =>
      Obl.portOnly [.regs, .scr] s t n { Obl.sent s n { portOf s n with eidleReq := true }
          (List.replicate (2 * ones 4 (portOf s n).txAct.toNat) (ctlBlk (ctlWord 0x09))) with
        state := 9, eidleTx := true, drive := 0 } ∧
      regBit t (lnkReg n 0x080) 5 = true ∧ OnlyRegs [lnkReg n 0x080] s t)) ∧
  (∀ s n, mayDrive s = true → (portOf s n).eidleTx = true → (portOf s n).rdy ≠ [] → (portOf s n).state = 9 → Answers (.eidleExit n) s (fun t =>
    (portOf t n).eidleTx = false ∧ (portOf t n).state = 8 ∧ (portOf t n).drive = txLanes s n ∧
    (∀ r, r ∈ lanesOf (txLanes s n) → (Tbl.get TxLane.reset (portOf t n).tx r).out =
      .comma (commaOf (devIdx s) n r (portOf t n).txAct) :: .comma (commaOf (devIdx s) n r (portOf t n).txAct) :: .burst ::
        (Tbl.get TxLane.reset (portOf s n).tx r).out) ∧
    (portOf t n).wire = (portOf s n).wire ∧ Obl.portOnly [] s t n (portOf t n))) ∧
  (∀ s n, mayDrive s = true → (portOf s n).eidleTx = true → (portOf s n).eidleReq = true → (portOf s n).state = 9 → (portOf s n).rdy = [] →
    (portOf s n).unacked = [] → runPort s n = false → (portOf s n).ackDue = true → Answers (.ackSend n) s (fun t =>
      (portOf t n).eidleTx = true ∧ (portOf t n).state = 9 ∧ (portOf t n).ackDue = false ∧
      (portOf t n).wire = (portOf s n).wire ++ ctlBlk (ackWord (((portOf s n).rxSeq + 4095) % 4096)) ::
        List.replicate (2 * ones 4 (portOf t n).txAct.toNat) (ctlBlk (ctlWord 0x09)) ∧
      Obl.portOnly [] s t n (portOf t n))) ∧
  (∀ s n v, n < 24 → mayDrive s = true → Obl.portCtl s n v → v.getLsbD 5 = false → v.getLsbD 6 = true → v.getLsbD 8 = false → (portOf s n).state = 8 →
    (portOf s n).eidleTx = false → mkhArmed s = false → Answers (.recal n v) s (fun t =>
      Obl.portOnly [.regs, .scr] s t n { portOf s n with
        state := 0xA, recal := true, recalRefused := false, eidleReq := false } ∧
      OnlyRegs [lnkReg n 0x080] s t)) ∧
  (∀ s n dev prt, ∀ c : Nat → CommaSeen, mayDrive s = true → (portOf s n).state = 0xA → (portOf s n).unacked = [] → Hold.recal n ∉ s.run.holds →
    laneEn s n = 15 → (∀ r, r < 4 → eqOk ((portOf s n).lane r).eqNext = true) →
    (∀ r, r < 4 → commaOk (c r).block = true ∧ commaLane (c r).block = r ∧ commaDevOf (c r).block = dev ∧
      commaPort (c r).block = prt) →
    Answers (.recalDone n [some (c 0), some (c 1), some (c 2), some (c 3)] 0 0xF []) s (fun t =>
    (portOf t n).state = 8 ∧ (portOf t n).recal = false ∧ (portOf t n).txDrop = 0 ∧ (portOf t n).rxLost = 0 ∧
    (portOf t n).rxAct = 0xF ∧ (portOf t n).txAct = 0xF ∧
    (∀ r, r < 4 → (portOf t n).lane r = { (portOf s n).lane r with
      eq := ((portOf s n).lane r).eqNext, eqBad := false, inv := (c r).inverted, logical := r, failed := false, hist := 0, gap := false }) ∧
    t.run = s.run ∧ Obl.portOnly [] s t n (portOf t n))) ∧
  (∀ s n v, n < 24 → Obl.portCtl s n v → v.getLsbD 5 = false → v.getLsbD 6 = false → v.getLsbD 8 = true →
    7 ≤ (portOf s n).state → (portOf s n).eidleTx = false → (portOf s n).drive ≠ 0 → (portOf s n).txDrop = 0 →
    Answers (.portReset n v) s (fun t => Obl.portWasReset s t n)) ∧
  (∀ s n, (portOf s n).eidleRx = true → regBit s (ro pPwr 0x108) 1 = false → Answers (.signalReturn n 0xF) s (fun t =>
    Obl.portOnly [] s t n { portOf s n with eidleRx := false }))

/-- R303: CTL_TX_DATA appends a word, CTL_TX_SEND sends what was appended behind the header of OP 0x10, and CTL_RX_DATA gives the
next word of the oldest packet as two halves, the low one first, the second of which pops it. -/
def Obl.UserChannel : Prop :=
  (∀ s n v, (portOf s n).ctlTx.length < 31 → Answers (.ctlTxData n v) s (fun t =>
    Obl.portOnly [] s t n { portOf s n with ctlTx := (portOf s n).ctlTx ++ [BitVec.ofNat 64 v.toNat] })) ∧
  (∀ s n v, (portOf s n).ctlTx ≠ [] → 8 ≤ (portOf s n).state → Answers (.ctlTxSend n v) s (fun t =>
    Obl.portOnly [] s t n { portOf s n with ctlTx := [], rdy := (portOf s n).rdy ++ [{ vc := 2, kind := 2, seq := 0, words :=
      (place 64 56 8 0x10 ||| place 64 48 8 (fld v 0 8)) :: (portOf s n).ctlTx }] })) ∧
  (∀ s n w ws rest, (portOf s n).ctlRx = (w :: ws) :: rest → (portOf s n).ctlHalf = false → Answers (.ctlRxData n) s (fun t =>
    t.bus.data = BitVec.ofNat 64 (fld w 0 32) ∧ Obl.portOnly [.bus] s t n { portOf s n with ctlHalf := true })) ∧
  (∀ s n w ws rest, (portOf s n).ctlRx = (w :: ws) :: rest → (portOf s n).ctlHalf = true → Answers (.ctlRxData n) s (fun t =>
    t.bus.data = BitVec.ofNat 64 (fld w 32 32) ∧ (portOf t n).ctlHalf = false ∧
    (portOf t n).ctlRx = (if ws.isEmpty then rest else ws :: rest) ∧
    (∀ m, m ≠ n → portOf t m = portOf s m) ∧ Only [.ports, .bus] s t))

/-- The statements above together: handshakes, control messages and the user channel.
The model's own choices in it: log entries 11 and 17. -/
def Obligations.ControlAndUserPackets : Prop := Obl.ControlMessages ∧ Obl.UserChannel

/-! ## Markhor (11) -/

/-- Markhor is armed with its sequencer enabled, the oldest event of the queue is `e`, and `rest` follows it. -/
abbrev Obl.event (s : State) (e : MEvent) (rest : List MEvent) : Prop :=
  mkhArmed s = true ∧ regBit s mkhCtl 2 = true ∧ s.mkh.queue = e :: rest

/-- ADV, RST and COUNT of the stage that the sequencer stands in (R321). -/
def Obl.adv (s : State) : Nat := regF s (ro pAcq (0x100 + 8 * s.mkh.stage)) 0 6
def Obl.rst (s : State) : Nat := regF s (ro pAcq (0x100 + 8 * s.mkh.stage)) 6 6
def Obl.stages (s : State) : Nat := max 1 (getReg s (ro pAcq (0x104 + 8 * s.mkh.stage))).toNat

/-- R321 to R326: the sequencer takes the oldest event: its reset event returns it to stage 0, an event that it does not name
is dropped, an advance event counts, and the last of COUNT goes to the next stage with its flag bit, or fires.
The model's own choices in it: log entry 44. -/
def Obligations.SequencerTakesItsOldestEvent : Prop :=
  (∀ s e rest, Obl.event s e rest → e.src = Obl.rst s → Answers .sequencerEvent s (fun t =>
    t.mkh = { s.mkh with queue := rest, stage := 0, count := 0 } ∧ Only [.mkh] s t)) ∧
  (∀ s e rest, Obl.event s e rest → e.src ≠ Obl.rst s → e.src ≠ Obl.adv s → Answers .sequencerEvent s (fun t =>
    t.mkh = { s.mkh with queue := rest } ∧ Only [.mkh] s t)) ∧
  (∀ s e rest, Obl.event s e rest → e.src ≠ Obl.rst s → e.src = Obl.adv s → s.mkh.count + 1 < Obl.stages s →
    Answers .sequencerEvent s (fun t =>
      t.mkh = { s.mkh with queue := rest, count := s.mkh.count + 1 } ∧ Only [.mkh] s t)) ∧
  (∀ s e rest k, Obl.event s e rest → e.src ≠ Obl.rst s → e.src = Obl.adv s → Obl.stages s ≤ s.mkh.count + 1 →
    regBit s (ro pAcq (0x100 + 8 * s.mkh.stage)) 15 = false → k = regF s (ro pAcq (0x100 + 8 * s.mkh.stage)) 12 3 →
    Answers .sequencerEvent s (fun t => t.mkh = { s.mkh with
      queue := rest, count := 0, stage := k, sticky := s.mkh.sticky ||| place 64 (32 + k) 1 1, pulses := t.mkh.pulses } ∧
      Only [.mkh] s t)) ∧
  (∀ s e rest, Obl.event s e rest → e.src ≠ Obl.rst s → e.src = Obl.adv s → Obl.stages s ≤ s.mkh.count + 1 →
    regBit s (ro pAcq (0x100 + 8 * s.mkh.stage)) 15 = true → regBit s (ro pAcq 0x0C0) 16 = false →
    (∀ c ∈ enabledChans s, regBit s (chReg c 0) 14 = false) →
    Answers .sequencerEvent s (fun t => t.mkh = { s.mkh with
      queue := rest, count := 0, stage := 0, fires := s.mkh.fires + 1,
      sticky := s.mkh.sticky ||| place 64 40 1 1, pulses := t.mkh.pulses } ∧
      t.rim = { s.rim with want := s.rim.want.map (fun w => { w with fired := true }) } ∧ Only [.mkh, .rim] s t))

/-- An event of source `src` stamped `st`, which arrives now. -/
def Obl.evt (s : State) (src : Nat) (st : Word) : MEvent :=
  { src := src, frac := 0, time := st, stamp := st, idx := 0, cyc := 0, tag := none, arr := s.tb }

/-- The sequencer's queue after event `e`: it takes the event while Markhor is armed with SEQ_EN `en`, behind what came in an
earlier HUBCLK period or from a lower source in the same one (R322). -/
abbrev Obl.queued (s t : State) (en : Bool) (e : MEvent) : Prop :=
  t.mkh.queue = if mkhArmed s && en then queueEvent s.mkh.queue e else s.mkh.queue

/-- R314, R321, R324, R326: an edge on TRIG_IN is stamped, a rising one in its register and its flag bit, and reaches the
sequencer; FORCE is an event of its own; a due pulse of a TRIG_OUT pin begins and ends. -/
def Obligations.TriggerPins : Prop :=
  (∀ s k frac st, k < 4 → st = s.tb + BitVec.ofNat 64 frac.toNat → regBit s (ro pPwr 0x108) 0 = false →
    s.mkh.queue.length < 256 → Answers (.trigInEdge k true frac) s (fun t =>
      reg64 t (ro pAcq (0x0E0 + 8 * k)) (ro pAcq (0x0E4 + 8 * k)) = st.toNat ∧
      OnlyRegs [ro pAcq (0x0E0 + 8 * k), ro pAcq (0x0E4 + 8 * k)] s t ∧
      Obl.queued s t (regBit s mkhCtl 2) (Obl.evt s (0x28 + k) st) ∧
      t.mkh = { s.mkh with
        sticky := s.mkh.sticky ||| place 64 (41 + k) 1 1, queue := t.mkh.queue, pulses := t.mkh.pulses } ∧
      Only [.mkh, .regs, .scr] s t)) ∧
  (∀ s k frac st, k < 4 → st = s.tb + BitVec.ofNat 64 frac.toNat → regBit s (ro pPwr 0x108) 0 = false →
    s.mkh.queue.length < 256 → Answers (.trigInEdge k false frac) s (fun t =>
      Obl.queued s t (regBit s mkhCtl 2) (Obl.evt s (0x2C + k) st) ∧
      t.mkh = { s.mkh with queue := t.mkh.queue, pulses := t.mkh.pulses } ∧ Only [.mkh] s t)) ∧
  (∀ s v, v.getLsbD 0 = true → v.getLsbD 1 = false → s.mkh.queue.length < 256 → Answers (.mkhForce v) s (fun t =>
    regBit t mkhCtl 2 = v.getLsbD 2 ∧ OnlyRegs [mkhCtl] s t ∧
    Obl.queued s t (v.getLsbD 2) (Obl.evt s 0x38 s.tb) ∧
    t.mkh = { s.mkh with queue := t.mkh.queue, pulses := t.mkh.pulses } ∧ Only [.mkh, .regs, .scr] s t)) ∧
  (∀ s k w due, mkhArmed s = true → (pulseOf s k).due = w :: due → Answers (.trigOutPulse k) s (fun t =>
    pulseOf t k = { due := due, active := true, ext := (pulseOf s k).active } ∧ (∀ j, j ≠ k → pulseOf t j = pulseOf s j) ∧
    t.mkh = { s.mkh with pulses := t.mkh.pulses } ∧ Only [.mkh] s t)) ∧
  (∀ s k, Answers (.trigOutPulseEnd k) s (fun t =>
    pulseOf t k = { pulseOf s k with active := (pulseOf s k).ext && (pulseOf s k).active, ext := false } ∧
    (∀ j, j ≠ k → pulseOf t j = pulseOf s j) ∧ t.mkh = { s.mkh with pulses := t.mkh.pulses } ∧ Only [.mkh] s t))

/-- Channel `c` of Markhor is `x` and every other channel, and the rest of Markhor but what `m` says, is unchanged. -/
abbrev Obl.chanIs (s t : State) (c : Nat) (x : MChan) (m : Mkh) : Prop :=
  mchanOf t c = x ∧ (∀ d, d ≠ c → mchanOf t d = mchanOf s d) ∧ t.mkh = { m with chans := t.mkh.chans }

/-- R318, R328 to R335: a probe word that completes a sample enters the ring of channel 32, and where the selected slots hold
none the sample is zeros; a decided segment takes its place
in the buffer once the period of its decision is over; what has arrived of it drains; with its last POST sample it drains, and after SEG_MAX segments the channel stops; a channel re-arms once PRE
samples have arrived; a record is written whole at its place, those of an earlier arming first. -/
def Obl.SegmentsAndRecords : Prop :=
  (∀ s i e j, s.mkh.probes[i]? = some e → (∀ f ∈ s.mkh.probes, f.1 = e.1 → e.2.1 ≤ f.2.1) → mkhArmed s = true →
    chEn s 32 = true → s.mkh.probeDone ≤ e.2.1 → s.mkh.probeGot = [] → probeSlots s = [j] → slotWaits s j = some e.1 →
    samplesFit s 32 1 = true → Answers (.probeWordArrive i) s (fun t =>
      (mchanOf t 32).count = (mchanOf s 32).count + 1 ∧ (∃ a, (mchanOf t 32).last = some
        { v := e.2.2.toNat, missing := false, time := s.tb, stamp := s.tb, sseq := e.2.1, pidx := 0,
          num := (mchanOf s 32).count, at_ := a, lost := (mchanOf s 32).lost } ∧
        ringBase s 32 ≤ a ∧ a + 8 ≤ ringBase s 32 + 8 * ringCap s 32 ∧ leNat (bankBytes t a 8) = e.2.2.toNat) ∧
      (∀ d, d ≠ 32 → mchanOf t d = mchanOf s d) ∧ t.mkh.probes = s.mkh.probes.eraseIdx i ∧
      t.mkh.probeDone = e.2.1 + 1 ∧ Only [.mkh, .banks, .dies, .recov, .regs, .scr, .evl] s t)) ∧
  (∀ s i, s.mkh.probes[i]? = none → mkhArmed s = true → chEn s 32 = true → s.run.active = true → slotsIdle s = true →
    s.mkh.probeDone < nextFirst s → samplesFit s 32 1 = true → Answers (.probeWordArrive i) s (fun t =>
      (mchanOf t 32).count = (mchanOf s 32).count + 1 ∧ (∃ a, (mchanOf t 32).last = some
        { v := 0, missing := false, time := s.tb, stamp := s.tb, sseq := s.mkh.probeDone, pidx := 0,
          num := (mchanOf s 32).count, at_ := a, lost := (mchanOf s 32).lost }) ∧
      t.mkh.probeDone = s.mkh.probeDone + 1 ∧ Only [.mkh, .banks, .dies, .recov, .regs, .scr, .evl] s t)) ∧
  (∀ s c g, (mchanOf s c).seg = some g → g.committed = none → earlierOpen s g.ord = false → g.ord / 64 < s.tb.toNat / 256 →
    Answers (.segmentCommit c) s (fun t =>
      Obl.chanIs s t c { mchanOf s c with seg := some { g with committed := some s.mkh.wp, acq := acqBase s } }
        { s.mkh with wp := s.mkh.wp + recordBytes s c } ∧ Only [.mkh] s t)) ∧
  (∀ s c g o, (mchanOf s c).seg = some g → g.committed = some o → g.len ≤ g.got →
    Answers (.segmentPostDone c) s (fun t => ∃ full, full = decide (segMax s ≤ (mchanOf s c).segs + (mchanOf s c).drain.length + 1) ∧
      Obl.chanIs s t c { mchanOf s c with
        seg := none, drain := (mchanOf s c).drain ++ [{ g with post := g.len - g.pre }], stopped := full,
        state := if full then 0 else 3 } s.mkh ∧ Only [.mkh] s t)) ∧
  (∀ s c, (mchanOf s c).state = 3 → chPre s c ≤ (mchanOf s c).since → Answers (.channelRearm c) s (fun t =>
    Obl.chanIs s t c { mchanOf s c with state := 1 } s.mkh ∧ Only [.mkh] s t)) ∧
  (∀ s c g rest o bs, (mchanOf s c).left = [] → (mchanOf s c).drain = g :: rest → g.committed = some o →
    (∀ d, (dieOf s d).tt = none) → Obl.settled s →
    bs = recordOfSeg c (takeSamples s g).2 → Answers (.recordDrain c []) s (fun t =>
      (∀ i, i < bs.length → dramByte t (g.acq + o + i) = bs.getD i 0) ∧
      (∀ a, a < g.acq + o ∨ g.acq + o + bs.length ≤ a → dramByte t a = dramByte s a) ∧
      mchanOf t c = { mchanOf s c with drain := rest, segs := (mchanOf s c).segs + 1 } ∧
      (∀ d, d ≠ c → mchanOf t d = mchanOf s d) ∧ Only [.mkh, .dram, .rim, .trc, .regs, .scr, .evl] s t)) ∧
  (∀ s c g rest o bs, (mchanOf s c).left = g :: rest → g.committed = some o → (∀ d, (dieOf s d).tt = none) → Obl.settled s →
    bs = recordOfSeg c (takeSamples s g).2 → Answers (.recordDrain c []) s (fun t =>
      (∀ i, i < bs.length → dramByte t (g.acq + o + i) = bs.getD i 0) ∧
      (∀ a, a < g.acq + o ∨ g.acq + o + bs.length ≤ a → dramByte t a = dramByte s a) ∧
      mchanOf t c = { mchanOf s c with left := rest } ∧ (∀ d, d ≠ c → mchanOf t d = mchanOf s d) ∧
      Only [.mkh, .dram, .regs, .scr, .evl] s t)) ∧
  (∀ s c g, (mchanOf s c).left = [] → (mchanOf s c).drain = [] → (mchanOf s c).seg = some g → g.committed ≠ none →
    (∀ d, (dieOf s d).tt = none) → Answers (.recordDrain c []) s (fun t =>
      Obl.chanIs s t c { mchanOf s c with seg := some (takeSamples s g).2 } s.mkh ∧ Only [.mkh, .regs, .scr, .evl] s t)) ∧
  (∀ s g, (takeSamples s g).2.out = g.out ++ g.places.map (fun a => leNat (bankBytes s a g.width)) ∧
    (takeSamples s g).2.places = []) ∧
  (∀ s c ups, exec (.recordDrain c ups) s = exec (.recordDrain c []) (ups.foldl bankUpset s))

/-- R317, R335, R341: a stream whose rate exceeds its SPERIOD by more than 1 % is flagged and logged; DISARM stops every
channel, a segment that is being filled going to the buffer with what was received, and empties the sequencer's queue. -/
def Obl.RateAndDisarm : Prop :=
  (∀ s c n, c < 32 → mkhArmed s = true → chEn s c = true → 101 * 2 ^ 24 * 100000 < n * (getReg s (chReg c 0x04)).toNat * 100 →
    Answers (.rateCheck c n) s (fun t =>
      Obl.chanIs s t c { mchanOf s c with rateExceed := true } s.mkh ∧
      t.evl.log.getLast? = some { time := s.tb, code := 0x0050, page := pAcq, detail := BitVec.ofNat 32 c } ∧
      OnlyRegs [ro pAcq 0x030, ro pEvl 0x094, ro pEvl 0x098] s t ∧ Only [.mkh, .evl, .regs, .scr] s t)) ∧
  (∀ s v, v.getLsbD 0 = false → v.getLsbD 1 = true → mkhArmed s = true → (∀ c, c < 33 → (mchanOf s c).seg = none) →
    Answers (.disarm v) s (fun t => t.mkh.state = 0 ∧ t.mkh.queue = [] ∧
      (∀ c, c < 33 → mchanOf t c = { mchanOf s c with
        state := 0, pend := none, armRise := false, armFall := false, armWin := false }) ∧
      OnlyRegs [mkhCtl] s t ∧ Only [.mkh, .rim, .trc, .regs, .scr] s t)) ∧
  (∀ s v c g, v.getLsbD 0 = false → v.getLsbD 1 = true → mkhArmed s = true → c < 33 → (mchanOf s c).seg = some g →
    (∀ d, d < 33 → d ≠ c → (mchanOf s d).seg = none) → Answers (.disarm v) s (fun t => t.mkh.state = 0 ∧
      (mchanOf t c).seg = none ∧ (mchanOf t c).state = 0 ∧ (mchanOf t c).drain = (mchanOf s c).drain ++ [{ g with
        incomplete := g.incomplete || decide (g.got < g.len), post := g.got - g.pre,
        committed := some (g.committed.getD s.mkh.wp), acq := if g.committed = none then acqBase s else g.acq }] ∧ Only [.mkh, .rim, .trc, .regs, .scr] s t))

/-- The statements above together: segments, records, rates and disarming.
The model's own choices in it: log entries 45, 103 and 124. -/
def Obligations.AcquisitionSegments : Prop := Obl.SegmentsAndRecords ∧ Obl.RateAndDisarm

/-! ## Jobs (12) -/

/-- Slots of the ring of queue `q` when its SQ_CTL holds `v` (R348). -/
def Obl.slots (v : Reg) : Nat := 64 * 2 ^ min 4 (fld v 1 3)

/-- Queue `q` of `t` is `x`; no other queue, and of Saiga nothing but the jobs `js`, changes. -/
abbrev Obl.queueIs (s t : State) (q : Nat) (x : SQueue) (js : List Job) : Prop :=
  queueOf t q = x ∧ (∀ r, r ≠ q → queueOf t r = queueOf s r) ∧ t.saiga.jobs = js ∧ t.saiga.flags = s.saiga.flags ∧
    t.saiga.abort = s.saiga.abort

/-- R348, R350, R377: enabling a queue whose ring fits resets its counters, one whose ring does not fit is discarded; an
SQ doorbell within the credits accepts its jobs and one beyond them is discarded with OVERRUN.
The model's own choices in it: log entry 52. -/
def Obligations.QueuesAndDoorbells : Prop :=
  (∀ s q v, q < 8 → sqEn s q = false → v.getLsbD 0 = true →
    reg64 s (sqReg q 4) (sqReg q 8) + 64 * Obl.slots v ≤ capacity s → Answers (.sqEnable q v) s (fun t =>
      getReg t (sqReg q 0) = v &&& 0xFFFFFF0F ∧ Obl.queueIs s t q { SQueue.reset with used := true } s.saiga.jobs ∧
      OnlyRegs [sqReg q 0] s t ∧ Only [.regs, .scr, .saiga] s t)) ∧
  (∀ s q v, q < 8 → sqEn s q = false → v.getLsbD 0 = true →
    capacity s < reg64 s (sqReg q 4) (sqReg q 8) + 64 * Obl.slots v → Answers (.sqEnable q v) s (Refused pJob s)) ∧
  (∀ s q v d, q < 8 → sqEn s q = true → (fld v 0 16 + 65536 - (queueOf s q).tail) % 65536 = d → 0 < d → d < 32768 →
    d ≤ (sqLimit s q + 65536 - (queueOf s q).tail) % 65536 → s.pwr.state = 0 → s.pwr.entering = none →
    Answers (.sqDoorbell q v) s (fun t => Obl.queueIs s t q { queueOf s q with tail := fld v 0 16 }
      (s.saiga.jobs ++ (List.range d).map (fun i => newJob q (((queueOf s q).tail + i) % 65536))) ∧ Only [.saiga] s t)) ∧
  (∀ s q v d, q < 8 → sqEn s q = true → (fld v 0 16 + 65536 - (queueOf s q).tail) % 65536 = d → d < 32768 →
    (sqLimit s q + 65536 - (queueOf s q).tail) % 65536 < d → Answers (.sqDoorbell q v) s (fun t =>
      getReg t (sqReg q 0x24) = getReg s (sqReg q 0x24) ||| 1 ∧
      (getReg t (sqReg q 0x28)).toNat = min 0xFFFFFFFF ((getReg s (sqReg q 0x28)).toNat + 1) ∧
      t.evl.log.getLast? = some
        { time := s.tb, code := 0x0080, page := pJob, detail := place 32 0 3 q ||| place 32 16 16 (fld v 0 16) } ∧
      OnlyRegs [sqReg q 0x24, sqReg q 0x28, ro pJob 0x030, ro pEvl 0x094, ro pEvl 0x098] s t ∧ Only [.regs, .scr, .evl] s t))

/-- The job `j` of `s` is `k` in `t`; every other job, every queue and the abort in progress are unchanged. -/
abbrev Obl.jobIs (s t : State) (j k : Job) : Prop :=
  findJob t j.q j.seq = some k ∧ (∀ q n, (q, n) ≠ (j.q, j.seq) → findJob t q n = findJob s q n) ∧
    (∀ q, queueOf t q = queueOf s q) ∧ t.saiga.abort = s.saiga.abort

/-- Queue `q` holds the one job `j`, and no other queue holds any. -/
abbrev Obl.oneJob (s : State) (j : Job) : Prop := s.saiga.jobs = [j]

/-- As `jobIs`; of the other jobs nothing changes but the place in line that a head of a queue is given (R356). -/
abbrev Obl.jobOnly (s t : State) (j k : Job) : Prop :=
  findJob t j.q j.seq = some k ∧
    (∀ q n, (q, n) ≠ (j.q, j.seq) →
      (findJob t q n).map (fun x => { x with order := 0 }) = (findJob s q n).map (fun x => { x with order := 0 })) ∧
    (∀ q, queueOf t q = queueOf s q) ∧ t.saiga.abort = s.saiga.abort

/-- A job that ends before its dispatch with STATUS `st`: a load or swap has its slot in DETAIL, a snapshot no cycle (R361, R363). -/
def Obl.unrun (j : Job) (st : Nat) : Job :=
  { j with
    phase := .finished, status := st, result := if j.exec = 0x0B then 0xFFFFFFFFFFFF else 0,
    detail := if j.exec = 0x08 ∨ j.exec = 0x09 then place 64 8 8 (j.par 0x31 1) else 0 }

/-- R302, R353 to R358: the descriptor of the oldest accepted job is copied from its slot in DRAM, a malformed one finishes
BAD_DESC; the head of the queue takes its free context, where CLR leaves only the flags set in the same period; it is ready once a flag that it waits for is set, and clears what it
matched; an idle executor takes it, and RUNINFO goes out with a START.
The model's own choices in it: log entry 25. -/
def Obligations.JobsComeToRun : Prop :=
  (∀ s q j d err, (queueJobs s q).find? (fun x => x.phase == .accepted) = some j → findJob s j.q j.seq = some j →
    retraining s = false → Obl.settled s → d = descOf s j → ({ j with desc := d } : Job).valid = true → Answers (.descriptorCopy q err) s (fun t => ∃ n,
      Obl.jobOnly s t j { j with desc := d, phase := .copied, order := n } ∧
      t.saiga.flags = s.saiga.flags ∧ (err = DramErr.none → Obl.sameBytes s t) ∧
      Only [.saiga, .dram, .regs, .scr, .evl] s t)) ∧
  (∀ s q j d err, (queueJobs s q).find? (fun x => x.phase == .accepted) = some j → findJob s j.q j.seq = some j →
    retraining s = false → Obl.settled s → d = descOf s j → ({ j with desc := d } : Job).valid = false →
    j.aborted = false → Answers (.descriptorCopy q err) s (fun t =>
      Obl.jobOnly s t j (Obl.unrun { j with desc := d } 0x10) ∧
      t.saiga.flags = s.saiga.flags ∧ (err = DramErr.none → Obl.sameBytes s t) ∧ Only [.saiga, .dram, .regs, .scr, .evl] s t)) ∧
  (∀ s q j, headJob s q = some j → findJob s j.q j.seq = some j → ctxJob s j.ctx = none → firstInLine s j = true →
    Answers (.contextTake q) s (fun t =>
      Obl.jobOnly s t j { j with phase := .inContext, holds := true } ∧
      (∀ c, ctxFlags t c = if c = j.ctx ∧ j.flags.testBit 1 = true then ctxFlags s c &&& freshFlags s c
        else ctxFlags s c) ∧ Only [.saiga] s t)) ∧
  (∀ s j, ctxJob s j.ctx = some j → findJob s j.q j.seq = some j → j.phase = .inContext →
    (j.waitMask = 0 ∨ ctxFlags s j.ctx &&& j.waitMask ≠ 0) → Answers (.jobReady j.ctx) s (fun t =>
      Obl.jobIs s t j { j with phase := .ready, order := s.saiga.serial + 1 } ∧
      (∀ c, ctxFlags t c = if c = j.ctx then ctxFlags s c &&& ~~~(ctxFlags s c &&& j.waitMask) else ctxFlags s c) ∧
      Only [.saiga] s t)) ∧
  (∀ s j x, takes s x = some j → findJob s j.q j.seq = some j → trcClass s 7 = false →
    Answers (.jobDispatch x) s (fun t => Obl.jobIs s t j { j with phase := .dispatched } ∧ t.saiga.flags = s.saiga.flags ∧
      (∀ n, portOf t n = if j.isStart && decide (n < 16) && portUp s n then { portOf s n with
        rdy := (portOf s n).rdy ++ [{ vc := 2, kind := 2, seq := 0, words := runInfoWords s }] } else portOf s n) ∧
      Only [.saiga, .ports] s t))

/-- R353, R361, R364, R365: the release of a finished job writes its 32-byte completion entry at CQ_TAIL and frees its slot, and
with SIGNAL and OK sets its flag; the coalescing timer of a queue raises its vector. -/
def Obl.JobRelease : Prop :=
  (∀ s q j a, findJob s q (queueOf s q).cqTail = some j → j.phase = .finished → j.flags.testBit 0 = false →
    j.flags.testBit 2 = false → j.flags.testBit 3 = false → trcClass s 7 = false →
    a = reg64 s (sqReg q 0x0C) (sqReg q 0x10) + 32 * (j.seq % sqSize s q) → Answers (.jobRelease q) s (fun t =>
      (∀ x, Tbl.get 0 t.host x =
        if a ≤ x ∧ x < a + 32 then (entryOf j (sqSize s q)).getD (x - a) 0 else Tbl.get 0 s.host x) ∧
      Obl.queueIs s t q { queueOf s q with
        cqTail := ((queueOf s q).cqTail + 1) % 65536, done := (queueOf s q).done + 1 }
        (s.saiga.jobs.filter (fun k => !(k.q == q && k.seq == j.seq))) ∧ Only [.saiga, .host] s t)) ∧
  (∀ s q j, findJob s q (queueOf s q).cqTail = some j → j.phase = .finished → j.flags.testBit 0 = false → j.status = 0 →
    j.flags.testBit 2 = true → j.flags.testBit 3 = false → trcClass s 7 = false → j.par 4 1 ≠ s.run.ctx →
    Answers (.jobRelease q) s (fun t => (∀ c, ctxFlags t c = if c = j.par 4 1
        then ctxFlags s c ||| place 64 (j.par 5 1 % 64) 1 1 else ctxFlags s c) ∧
      queueOf t q = { queueOf s q with cqTail := ((queueOf s q).cqTail + 1) % 65536, done := (queueOf s q).done + 1 } ∧
      t.saiga.jobs = s.saiga.jobs.filter (fun k => !(k.q == q && k.seq == j.seq)) ∧ Only [.saiga, .host] s t)) ∧
  (∀ s q, q < 8 → (queueOf s q).timer = true → masked s (1 + q) = true → s.Settled → Answers (.irqCoalesceTimer q) s (fun t =>
    Obl.queueIs s t q { queueOf s q with unann := 0, timer := false } s.saiga.jobs ∧
    t.saiga.msixPend = s.saiga.msixPend ||| place 64 (1 + q) 1 1 ∧ Only [.saiga] s t)) ∧
  (∀ s q, q < 8 → (queueOf s q).timer = true → masked s (1 + q) = false → s.Settled → Answers (.irqCoalesceTimer q) s (fun t =>
    Obl.queueIs s t q { queueOf s q with unann := 0, timer := false } s.saiga.jobs ∧
    (∀ v, Tbl.get 0 t.saiga.msixSent v = Tbl.get 0 s.saiga.msixSent v + if v = 1 + q then 1 else 0) ∧ Only [.saiga] s t))

/-- R43, R357: FLAG_SET and FLAG_CLR write one flag of one context, a clear coming before the sets of its HUBCLK period; a flag of the run's context that its STOP_MASK names
stops the run at the largest cycle begun, with cause EVENT. -/
def Obl.ContextFlags : Prop :=
  (∀ s v, fld v 0 8 ≠ s.run.ctx → Answers (.flagSet v) s (fun t =>
    (∀ c, ctxFlags t c = if c = fld v 0 8 then ctxFlags s c ||| place 64 (fld v 8 6) 1 1 else ctxFlags s c) ∧
    (∀ c, freshFlags t c = if c = fld v 0 8 then freshFlags s c ||| place 64 (fld v 8 6) 1 1 else freshFlags s c) ∧
    t.saiga.jobs = s.saiga.jobs ∧ (∀ q, queueOf t q = queueOf s q) ∧ Only [.saiga] s t)) ∧
  (∀ s v m, fld v 0 8 = s.run.ctx → m = (ctxFlags s s.run.ctx ||| place 64 (fld v 8 6) 1 1) &&& s.run.stopMask → m ≠ 0 →
    s.run.active = true → s.run.faultStop = false → s.run.stopAt = none → runMode s ≠ 2 → Answers (.flagSet v) s (fun t =>
      t.run = { s.run with stopAt := some (maxBegun s), cause := some 2, stopFlags := m } ∧
      (∀ c, ctxFlags t c = if c = fld v 0 8 then ctxFlags s c ||| place 64 (fld v 8 6) 1 1 else ctxFlags s c) ∧
      Only [.saiga, .run] s t)) ∧
  (∀ s v, Answers (.flagClr v) s (fun t =>
    (∀ c, ctxFlags t c = if c = fld v 0 8
      then ctxFlags s c &&& ~~~(place 64 (fld v 8 6) 1 1 &&& ~~~(freshFlags s c)) else ctxFlags s c) ∧
    t.saiga.jobs = s.saiga.jobs ∧ (∀ q, queueOf t q = queueOf s q) ∧ Only [.saiga] s t))

/-- The statements above together: release of a job and event flags.
The model's own choices in it: log entries 19 and 95. -/
def Obligations.JobReleaseAndFlags : Prop := Obl.JobRelease ∧ Obl.ContextFlags

/-- ABORT_CMD with target `k` (0 job, 1 queue, 2 run, 3 device), as its fields spell it (R376). -/
abbrev Obl.aborts (v : Reg) (k : Nat) : Prop := fld v 0 2 = k

/-- R361, R363, R366 to R368, R375: an abort of a job or queue finishes a job that has not been dispatched with ABORTED and waits for its
decision; an abort of a run stops it with cause ABORT, one of the device also disarms Markhor; with an abort in progress the
write is discarded; the decision stands in ABORT_STAT and raises vector 26, and after a Function Level
Reset then resets every queue (R344).
The model's own choices in it: log entries 19, 26 and 60. -/
def Obligations.Aborts : Prop :=
  (∀ s v j, Obl.aborts v 0 → s.saiga.abort = none → Obl.oneJob s j → j.q = fld v 2 3 → j.seq = fld v 16 16 →
    (j.phase = .copied ∨ j.phase = .inContext ∨ j.phase = .ready) → Answers (.abortJob v) s (fun t =>
      findJob t j.q j.seq = some { Obl.unrun j 1 with aborted := true } ∧
      t.saiga.abort = some { target := 0, q := j.q, seq := j.seq, result := 1, count := 1 } ∧
      t.saiga.flags = s.saiga.flags ∧ (∀ q, queueOf t q = queueOf s q) ∧ Only [.saiga] s t)) ∧
  (∀ s v, Obl.aborts v 0 → s.saiga.abort = none → s.saiga.jobs = [] → 0 < (queueOf s (fld v 2 3)).done →
    ((queueOf s (fld v 2 3)).cqTail + 65536 - fld v 16 16) % 65536 = 1 → Answers (.abortJob v) s (fun t =>
      t.saiga.abort = some { target := 0, q := fld v 2 3, seq := fld v 16 16, result := 2, count := 0 } ∧
      t.saiga.jobs = [] ∧ Only [.saiga] s t)) ∧
  (∀ s v j, Obl.aborts v 1 → s.saiga.abort = none → Obl.oneJob s j → j.q = fld v 2 3 →
    (j.phase = .copied ∨ j.phase = .inContext ∨ j.phase = .ready) → Answers (.abortQueue v) s (fun t =>
      findJob t j.q j.seq = some { Obl.unrun j 1 with aborted := true } ∧
      t.saiga.abort = some { target := 1, q := j.q, seq := fld v 16 16, result := 1, count := 1 } ∧
      t.saiga.flags = s.saiga.flags ∧ (∀ q, queueOf t q = queueOf s q) ∧ Only [.saiga] s t)) ∧
  (∀ s v, Obl.aborts v 2 → s.saiga.abort = none → s.saiga.jobs = [] → s.run.active = true → s.run.faultStop = false →
    s.run.stopAt = none → s.run.cause ≠ some 4 → runMode s ≠ 2 → Answers (.abortRun v) s (fun t =>
      t.run = { s.run with stopAt := some (maxBegun s), cause := some 4 } ∧
      t.saiga.abort = some { target := 2, q := fld v 2 3, seq := fld v 16 16, result := 1, count := 0 } ∧
      Only [.saiga, .run] s t)) ∧
  (∀ s v, Obl.aborts v 3 → s.saiga.abort = none → s.saiga.jobs = [] → s.run.active = false → mkhArmed s = true →
    Answers (.abortDevice v) s (fun t => t.mkh.state = 0 ∧
      t.saiga.abort = some { target := 3, q := fld v 2 3, seq := fld v 16 16, result := 1, count := 0 } ∧
      Only [.saiga, .mkh, .rim, .trc] s t)) ∧
  (∀ s v, s.saiga.abort.isSome = true → Answers (.abortJob v) s (Refused pJob s) ∧ Answers (.abortQueue v) s (Refused pJob s) ∧
    Answers (.abortRun v) s (Refused pJob s) ∧ Answers (.abortDevice v) s (Refused pJob s)) ∧
  (∀ s a, s.saiga.abort = some a → abortIdle s a = true → s.saiga.flr = true → Answers .abortDecided s (fun t =>
    t.saiga.abort = none ∧ t.saiga.jobs = [] ∧ (∀ q, queueOf t q = SQueue.reset) ∧ (∀ q, q < 8 → sqEn t q = false) ∧ t.saiga.flr = false)) ∧
  (∀ s a, s.saiga.abort = some a → abortIdle s a = true → s.saiga.flr = false → masked s 26 = true → s.Settled →
    Answers .abortDecided s (fun t =>
    t.saiga.abort = none ∧ t.saiga.abortRes = a.result ∧ t.saiga.abortCnt = min 255 a.count ∧ t.saiga.jobs = s.saiga.jobs ∧
    t.saiga.msixPend = s.saiga.msixPend ||| place 64 26 1 1 ∧ Only [.saiga] s t))

/-- Executor `x` has taken job `j` of operation `op`; no abort has. -/
abbrev Obl.takenJob (s : State) (x op : Nat) (ph : JobPhase) (j : Job) : Prop :=
  jobAt s x op ph = some j ∧ findJob s j.q j.seq = some j ∧ j.aborted = false

/-- Job `j` as it stands when its executor is done with it. -/
def Obl.done (j : Job) (status : Nat) (result detail : Word) : Job :=
  { j with phase := .finished, status := status, result := result, detail := detail }

/-- The bytes `bs` stand in DRAM from address `a` on, and no other byte has changed. -/
abbrev Obl.dramIs (s t : State) (a : Nat) (bs : List Byte) : Prop :=
  ∀ x, dramByte t x = if a ≤ x ∧ x < a + bs.length then bs.getD (x - a) 0 else dramByte s x

/-- The bytes `bs` stand in host memory from address `a` on, and no other byte has changed. -/
abbrev Obl.hostIs (s t : State) (a : Nat) (bs : List Byte) : Prop :=
  ∀ x, Tbl.get 0 t.host x = if a ≤ x ∧ x < a + bs.length then bs.getD (x - a) 0 else Tbl.get 0 s.host x

/-- Of the jobs of `t` only `j` has changed, to `k`, but for what the other port's engines note of a write (R198, R199). -/
abbrev Obl.jobBut (s t : State) (j k : Job) : Prop :=
  findJob t j.q j.seq = some k ∧ (∀ q, queueOf t q = queueOf s q) ∧ t.saiga.abort = s.saiga.abort ∧
  ∀ q n, (q, n) ≠ (j.q, j.seq) → (findJob t q n).map (fun x => { x with met := [], olds := [] }) =
    (findJob s q n).map (fun x => { x with met := [], olds := [] })

/-- R29, R192, R197 to R199, R355, R362: a COPY whose operands, ranges and owners are good begins; misaligned operands finish it
with BAD_DESC, ranges beyond DRAM or bank space with RANGE; a copy from DRAM to DRAM or to the host that ends has moved every
byte, and its RESULT is their number; of two engines of different ports that write a bank word in one bank clock, the one that
WIN_PORT does not name leaves the word alone, and the bank records the collision; a word of a bank that is read as the other port
writes it comes as the new word with RDW NEW and as the old one else; upset bits and line errors count before the copy reads. -/
def Obl.CopyJobs : Prop :=
  (∀ s j x, x < 8 → Obl.takenJob s x 1 .dispatched j → copyRefusal s j = none → Answers (.copy x) s (fun t =>
    Obl.jobIs s t j { j with phase := .running } ∧ t.saiga.flags = s.saiga.flags ∧ Only [.saiga] s t)) ∧
  (∀ s j x, x < 8 → Obl.takenJob s x 1 .dispatched j → (j.src % 8 ≠ 0 ∨ j.dst % 8 ≠ 0 ∨ j.len % 8 ≠ 0 ∨ j.len = 0) →
    Answers (.copy x) s (fun t => Obl.jobIs s t j (Obl.done j 0x10 0 0) ∧ Only [.saiga] s t)) ∧
  (∀ s j x, x < 8 → Obl.takenJob s x 1 .dispatched j → j.src % 8 = 0 → j.dst % 8 = 0 → j.len % 8 = 0 → 8 ≤ j.len →
    j.len ≤ 2 ^ 36 → ((j.srcSpace = 1 ∧ capacity s < j.src + j.len) ∨ (j.dstSpace = 1 ∧ capacity s < j.dst + j.len) ∨
      (j.srcSpace = 2 ∧ 2 ^ 28 < j.src + j.len) ∨ (j.dstSpace = 2 ∧ 2 ^ 28 < j.dst + j.len)) →
    Answers (.copy x) s (fun t => Obl.jobIs s t j (Obl.done j 0x11 0 0) ∧ Only [.saiga] s t)) ∧
  (∀ s j x host err lost same, x < 8 → Obl.takenJob s x 1 .running j → j.srcSpace = 1 → j.dstSpace = 1 →
    retraining s = false → copyHeld s j j.len = false → Obl.settled s →
    Answers (.dmaCopy x host err lost same [] []) s (fun t => Obl.dramIs s t j.dst (dramRead s j.src j.len) ∧
      Obl.jobIs s t j (Obl.done j 0 (BitVec.ofNat 64 j.len) 0) ∧ Only [.dram, .regs, .scr, .evl, .saiga] s t)) ∧
  (∀ s j x host lost same, x < 8 → Obl.takenJob s x 1 .running j → j.srcSpace = 1 → j.dstSpace = 0 → retraining s = false →
    Obl.settled s →
    Answers (.dmaCopy x host 0 lost same [] []) s (fun t => Obl.hostIs s t j.dst (dramRead s j.src j.len) ∧ Obl.sameBytes s t ∧
      Obl.jobIs s t j (Obl.done j 0 (BitVec.ofNat 64 j.len) 0) ∧ Only [.host, .dram, .regs, .scr, .evl, .saiga] s t)) ∧
  (∀ s j x host err lost same, x < 8 → Obl.takenJob s x 1 .running j → retraining s = true → (j.srcSpace = 1 ∨ j.dstSpace = 1) →
    Answers (.dmaCopy x host err lost same [] []) s (Only [] s)) ∧
  (∀ s j k x y w b, x < 8 → y < 8 → x % 2 ≠ y % 2 → Obl.takenJob s x 1 .running j → jobAt s y 1 .running = some k →
    j.srcSpace = 1 → j.dstSpace = 2 → j.dst = 8 * w → j.len = 8 → k.dstSpace = 2 → k.dst / 8 ≤ w → w < (k.dst + k.len) / 8 →
    b = w / 2 ^ 18 → b < 128 → regF s (ro (pBnk b) 0x084) 0 1 ≠ x % 2 → retraining s = false → Obl.settled s →
    Answers (.dmaCopy x [] 0 [w] [] [] []) s (fun t => bankOf t b = bankOf s b ∧
      getReg t (ro (pBnk b) 0x088) = (place 32 0 18 w ||| place 32 18 1 x ||| place 32 31 1 1) ∧
      (getReg t (ro (pBnk b) 0x08C)).toNat = min 0xFFFFFFFF ((getReg s (ro (pBnk b) 0x08C)).toNat + 1) ∧
      regBit t (ro (pBnk b) 0x014) 2 = true ∧
      t.evl.log.getLast? = some { time := s.tb, code := 0x0020, page := pBnk b, detail := getReg t (ro (pBnk b) 0x088) } ∧
      Obl.jobBut s t j (Obl.done j 0 8 0) ∧ Only [.regs, .scr, .evl, .dram, .saiga] s t)) ∧
  (∀ s j k x y w b new, x < 8 → y < 8 → x % 2 ≠ y % 2 → Obl.takenJob s x 1 .running j → jobAt s y 1 .running = some k →
    j.srcSpace = 2 → j.dstSpace = 0 → j.src = 8 * w → j.len = 8 → k.srcSpace = 0 → k.dstSpace = 2 → k.dst / 8 ≤ w →
    w < (k.dst + k.len) / 8 → b = w / 2 ^ 18 → b < 128 → bankOwner s b = 0x41 → (dieOf s (b / 32)).tt = none →
    (∀ m ∈ s.saiga.jobs, m.exec = y → m.phase = .running → m = k) → (∀ m ∈ s.saiga.jobs, m.exec < 8 → m.exec % 2 ≠ x % 2 →
      m.exec ≠ y → m.phase ≠ .running) → (bankOf s b).badWords (w % 2 ^ 18) 1 = [] →
    Answers (.dmaCopy x [] 0 [] [{ word := w, new := new }] [] []) s (fun t =>
      Obl.hostIs s t j.dst (wordBytes (if regBit s (ro (pBnk b) 0x084) 1 then (bankOf s b).word (w % 2 ^ 18) else new)) ∧
      Obl.jobIs s t j (Obl.done j 0 8 0) ∧ Only [.host, .saiga] s t)) ∧
  (∀ s x host err lost same ups lines, exec (.dmaCopy x host err lost same ups lines) s =
    exec (.dmaCopy x host err lost same [] []) (ups.foldl bankUpset (strike s lines)))

/-- R206, R420, R421: BANK_TEST runs on a bank that CHAMOIS owns and leaves every word 0 and every region dirty, what a
checkpoint waits for copied first, its failing regions on spares in all three copies of the map; TILE_TEST runs on a tile outside any run, at operating voltage, clears it, sets TEST_OK by its outcome
and leaves it in retention, but for a tile that a run has drafted meanwhile, which it leaves alone; a bank of another owner or a tile of the run finishes BUSY, one that does not exist RANGE. -/
def Obl.BankAndTileTests : Prop :=
  (∀ s j b, Obl.takenJob s 0x0D 1 .dispatched j → b = j.par 0x31 1 → b < 128 → bankOwner s b = 0x44 →
    Answers .bankTest s (fun t => bankOf t b = { bankOf s b with testing := true } ∧
      (∀ c, c ≠ b → bankOf t c = bankOf s c) ∧ Obl.jobIs s t j { j with phase := .running } ∧ Only [.banks, .saiga] s t)) ∧
  (∀ s j, Obl.takenJob s 0x0D 1 .dispatched j → j.par 0x31 1 < 128 → bankOwner s (j.par 0x31 1) ≠ 0x44 →
    Answers .bankTest s (fun t => Obl.jobIs s t j (Obl.done j 0x02 0 0) ∧ Only [.saiga] s t)) ∧
  (∀ s j, Obl.takenJob s 0x0D 1 .dispatched j → 128 ≤ j.par 0x31 1 →
    Answers .bankTest s (fun t => Obl.jobIs s t j (Obl.done j 0x11 0 0) ∧ Only [.saiga] s t)) ∧
  (∀ s j b, Obl.takenJob s 0x0D 1 .running j → b = j.par 0x31 1 → (bankOf s b).spares.length ≤ 4 →
    (bankOf s b).pend = [] → Answers (.bankTestDone []) s (fun t =>
      bankOf t b = { bankOf s b with
        words := [], prev := none, dirty := everyRegion, touched := everyRegion, testing := false } ∧
      (∀ c, c ≠ b → bankOf t c = bankOf s c) ∧
      Obl.jobIs s t j (Obl.done j 0 (place 64 0 3 (bankOf s b).spares.length) 0) ∧ Only [.banks, .saiga] s t)) ∧
  (∀ s j b r, Obl.takenJob s 0x0D 1 .running j → b = j.par 0x31 1 → b < 128 → r < 4096 → (bankOf s b).spares = [] →
    (bankOf s b).pend = [] → Answers (.bankTestDone [r]) s (fun t =>
      (bankOf t b).map0 = setFld (bankOf s b).map0 0 13 (4096 + r) ∧ (bankOf t b).map1 = setFld (bankOf s b).map1 0 13 (4096 + r) ∧
      (bankOf t b).map2 = setFld (bankOf s b).map2 0 13 (4096 + r) ∧
      bankOf t b = { bankOf s b with
        words := [], prev := none, dirty := everyRegion, touched := everyRegion, testing := false,
        map0 := (bankOf t b).map0, map1 := (bankOf t b).map1, map2 := (bankOf t b).map2 } ∧
      (∀ c, c ≠ b → bankOf t c = bankOf s c) ∧
      getReg t (ro (pBnk b) 0x09C) = (place 32 0 12 r ||| place 32 12 3 1 ||| place 32 31 1 1) ∧
      Obl.jobIs s t j (Obl.done j 0 (place 64 0 3 1 ||| place 64 8 8 1) (place 64 0 12 r ||| place 64 31 1 1)) ∧
      Only [.banks, .saiga, .regs, .scr] s t)) ∧
  (∀ s j b r, Obl.takenJob s 0x0D 1 .running j → b = j.par 0x31 1 → (bankOf s b).spares.length ≤ 4 →
    (bankOf s b).pend = [(r, true)] → (bankOf s b).badWords (64 * r) 64 = [] → (dieOf s (b / 32)).save.length < 4 →
    Answers (.bankTestDone []) s (fun t =>
      dieOf t (b / 32) = { dieOf s (b / 32) with
        save := (dieOf s (b / 32)).save ++ [{ bank := b, region := r, words := (bankOf s b).region r }] } ∧
      (∀ d, d ≠ b / 32 → dieOf t d = dieOf s d) ∧ bankOf t b = { bankOf s b with
        words := [], prev := none, dirty := everyRegion, touched := everyRegion, testing := false, pend := [] } ∧
      (∀ c, c ≠ b → bankOf t c = bankOf s c) ∧ Only [.banks, .dies, .saiga] s t)) ∧
  (∀ s j p, Obl.takenJob s 0x0D 2 .dispatched j → p = 17 * j.par 0x30 1 + j.par 0x31 1 → j.par 0x30 1 < 4 → j.par 0x31 1 < 17 →
    tileBusy s p = false → Answers .tileTest s (fun t => tileOf t p = { tileOf s p with
        testing := true, testFenced := fenced s p, mv := opMv s p } ∧
      OnlyTile p s t ∧
      Obl.jobIs s t j { j with phase := .running } ∧ Only [.tiles, .saiga] s t)) ∧
  (∀ s j, Obl.takenJob s 0x0D 2 .dispatched j → j.par 0x30 1 < 4 → j.par 0x31 1 < 17 →
    inRun s (17 * j.par 0x30 1 + j.par 0x31 1) = true → Answers .tileTest s (fun t =>
      Obl.jobIs s t j (Obl.done j 0x02 0 0) ∧ Only [.saiga] s t)) ∧
  (∀ s j, Obl.takenJob s 0x0D 2 .dispatched j → 4 ≤ j.par 0x30 1 ∨ 17 ≤ j.par 0x31 1 →
    Answers .tileTest s (fun t => Obl.jobIs s t j (Obl.done j 0x11 0 0) ∧ Only [.saiga] s t)) ∧
  (∀ s j p, Obl.takenJob s 0x0D 2 .running j → p = 17 * j.par 0x30 1 + j.par 0x31 1 →
    (tileOf s p).testing = true → Answers (.tileTestDone 0 0 0) s (fun t =>
    tileOf t p = { Tile.reset with
      retention := true, testOk := true, testFenced := (tileOf s p).testFenced, dead := (tileOf s p).dead, hardTimes := (tileOf s p).hardTimes } ∧ OnlyTile p s t ∧
    Obl.jobIs s t j (Obl.done j 0 1 0) ∧ Only [.tiles, .saiga] s t)) ∧
  (∀ s j p parts bp a, Obl.takenJob s 0x0D 2 .running j → p = 17 * j.par 0x30 1 + j.par 0x31 1 → parts ≠ 0 →
    (tileOf s p).testing = true →
    Answers (.tileTestDone parts bp a) s (fun t =>
      tileOf t p = { Tile.reset with
        retention := true, testOk := false, testFenced := (tileOf s p).testFenced, dead := (tileOf s p).dead, hardTimes := (tileOf s p).hardTimes } ∧ OnlyTile p s t ∧
      Obl.jobIs s t j (Obl.done j 0 (place 64 1 8 parts.toNat)
        (place 64 0 10 bp ||| place 64 10 12 a ||| place 64 31 1 1)) ∧ Only [.tiles, .saiga] s t)) ∧
  (∀ s j p parts bp a, Obl.takenJob s 0x0D 2 .running j → p = 17 * j.par 0x30 1 + j.par 0x31 1 →
    (tileOf s p).testing = false → Answers (.tileTestDone parts bp a) s (Only [.saiga] s))

/-- The statements above together: copy jobs and test jobs.
The model's own choices in it: log entries 18, 25, 57, 112 and 116. -/
def Obligations.CopyAndTestJobs : Prop := Obl.CopyJobs ∧ Obl.BankAndTileTests

/-- R330 to R337, R342: an ARM that passes its checks and admission arms Markhor, every enabled channel afresh; one of an armed
Markhor finishes BUSY, one that fails admission ADMISSION.  A READOUT of the buffer, or with LIVE of the newest bytes of a ring,
puts its bytes into host memory; one that is out of range finishes RANGE, and one of a ring with a bank that MARKHOR does not
own NOT_OWNER; one of the buffer waits for a retrain; upset bits and line errors count before it reads.
The model's own choices in it: log entries 27, 44 and 104. -/
def Obligations.ArmAndReadout : Prop :=
  (∀ s j, Obl.takenJob s 0x0C 1 .dispatched j → armRefusal s = none → (runAdmission s false true false none).2 = 0 →
    Answers .arm s (fun t => t.mkh = { s.mkh with
        state := 2, stage := 0, count := 0, fires := 0, queue := [], wp := 0, pulses := [], probeGot := [],
        probeDone := if slotsIdle s then max s.mkh.probeDone (nextFirst s) else s.mkh.probeDone, chans := t.mkh.chans } ∧
      (∀ c, c < 33 → mchanOf t c =
        { MChan.reset with
          state := if chEn s c then 3 else 0, fmt := (mchanOf s c).fmt, cls := (mchanOf s c).cls, count := (mchanOf s c).count,
          left := (mchanOf s c).left ++ (mchanOf s c).drain }) ∧
      Obl.jobIs s t j (Obl.done j 0 0 (BitVec.ofNat 64 (getReg t (ro pGlb 0x144)).toNat)) ∧
      Only [.mkh, .saiga, .regs, .scr] s t)) ∧
  (∀ s j, Obl.takenJob s 0x0C 1 .dispatched j → armRefusal s = none → (runAdmission s false true false none).2 ≠ 0 →
    Answers .arm s (fun t =>
      Obl.jobIs s t j (Obl.done j 0x07 0 (BitVec.ofNat 64 (getReg t (ro pGlb 0x144)).toNat)) ∧ Only [.saiga, .regs, .scr] s t)) ∧
  (∀ s j, Obl.takenJob s 0x0C 1 .dispatched j → mkhArmed s = true → Answers .arm s (fun t =>
    Obl.jobIs s t j (Obl.done j 0x02 0 0) ∧ Only [.saiga] s t)) ∧
  (∀ s j len off same, Obl.takenJob s 0x0C 2 .dispatched j → retraining s = false → len = j.par 0x20 8 → off = j.par 0x28 8 → len % 64 = 0 → off % 64 = 0 →
    (j.par 0x30 1).testBit 6 = false → off + len ≤ acqLen s → acqBase s + off + len ≤ capacity s → Obl.settled s →
    Answers (.readout 0 0 same [] []) s (fun t => Obl.hostIs s t (j.par 0x18 8) (dramRead s (acqBase s + off) len) ∧
      Obl.sameBytes s t ∧ Obl.jobIs s t j (Obl.done j 0 (BitVec.ofNat 64 len) 0) ∧
      Only [.host, .saiga, .dram, .regs, .scr, .evl] s t)) ∧
  (∀ s j len off same, Obl.takenJob s 0x0C 2 .dispatched j → len = j.par 0x20 8 → off = j.par 0x28 8 → len % 64 = 0 →
    off % 64 = 0 → (j.par 0x30 1).testBit 6 = false → acqLen s < off + len → Answers (.readout 0 0 same [] []) s (fun t =>
      Obl.jobIs s t j (Obl.done j 0x11 0 0) ∧ Only [.saiga] s t)) ∧
  (∀ s j c len same, Obl.takenJob s 0x0C 2 .dispatched j → len = j.par 0x20 8 → c = j.par 0x30 1 % 64 → len % 64 = 0 →
    j.par 0x28 8 % 64 = 0 → (j.par 0x30 1).testBit 6 = true → c < 33 → len ≤ ringCount s c * 2097152 →
    (∀ i, i < ringCount s c → bankOwner s (ringFirst s c + i) = 0x42) → Answers (.readout 0 0 same [] []) s (fun t => Obl.hostIs s t (j.par 0x18 8) (liveBytes s c len same) ∧
      Obl.jobIs s t j (Obl.done j 0 (BitVec.ofNat 64 (liveBytes s c len same).length) 0) ∧
      Only [.host, .saiga, .banks, .dies, .regs, .scr, .evl] s t)) ∧
  (∀ s j c i len same, Obl.takenJob s 0x0C 2 .dispatched j → len = j.par 0x20 8 → c = j.par 0x30 1 % 64 → len % 64 = 0 →
    j.par 0x28 8 % 64 = 0 → (j.par 0x30 1).testBit 6 = true → c < 33 → len ≤ ringCount s c * 2097152 → i < ringCount s c →
    bankOwner s (ringFirst s c + i) ≠ 0x42 → Answers (.readout 0 0 same [] []) s (fun t =>
      Obl.jobIs s t j (Obl.done j 0x04 0 0) ∧ Only [.saiga] s t)) ∧
  (∀ s j len off host moved same, Obl.takenJob s 0x0C 2 .dispatched j → retraining s = true → len = j.par 0x20 8 →
    off = j.par 0x28 8 → len % 64 = 0 → off % 64 = 0 → (j.par 0x30 1).testBit 6 = false → off + len ≤ acqLen s →
    acqBase s + off + len ≤ capacity s → Answers (.readout host moved same [] []) s (Only [] s)) ∧
  (∀ s host moved same ups lines, exec (.readout host moved same ups lines) s =
    exec (.readout host moved same [] []) (ups.foldl bankUpset (strike s lines)))

/-- R262, R363, R458, R460: a CAPTURE of the array without a run takes the shadows at once, during one it waits for the next
C7; one of the rim arms the capture; a drain writes header and shadows to the snapshot area and frees them.
The model's own choices in it: log entry 55. -/
def Obligations.Snapshots : Prop :=
  (∀ s j, Obl.takenJob s 0x0B 1 .dispatched j → j.par 0x30 1 = 1 → s.trc.arrShadow = false → s.run.active = false →
    snapBase s + 64 + snapArrayBytes s + 12416 ≤ capacity s → Answers .capture s (fun t =>
      t.trc = { s.trc with
        arrShadow := true,
        snap := some { q := j.q, seq := j.seq, cyc := none, wantArr := true, gotArr := some (curCycle s), wantRim := false,
                       gotRim := false, arrStatus := 0, rimStatus := 0 } } ∧
      (∀ p ∈ runTiles s, (tileOf t p).st.shadow = (tileOf s p).st.ds ∧ (tileOf t p).st.cntShadow = (tileOf s p).un.cnt) ∧
      (∀ p, p ∉ runTiles s → tileOf t p = tileOf s p) ∧ Obl.jobIs s t j { j with phase := .running } ∧
      Only [.tiles, .trc, .saiga] s t)) ∧
  (∀ s j, Obl.takenJob s 0x0B 1 .dispatched j → j.par 0x30 1 = 1 → j.par 0x18 6 = nextC7 → s.trc.arrShadow = false →
    s.run.active = true → snapBase s + 64 + snapArrayBytes s + 12416 ≤ capacity s → Answers .capture s (fun t =>
      t.trc = { s.trc with
        snap := some { q := j.q, seq := j.seq, cyc := some (openC7 s), wantArr := true, gotArr := none, wantRim := false,
                       gotRim := false, arrStatus := 0, rimStatus := 0 } } ∧
      Obl.jobIs s t j { j with phase := .running } ∧ Only [.trc, .saiga] s t)) ∧
  (∀ s j k, Obl.takenJob s 0x0B 1 .dispatched j → j.par 0x30 1 = 2 → j.par 0x31 1 = k → k < 8 → s.rim.shadow = none →
    (rimClks s).getLsbD k = true → s.tb.toNat ≤ j.par 0x20 8 → snapBase s + 64 + snapArrayBytes s + 12416 ≤ capacity s →
    Answers .capture s (fun t =>
      t.trc = { s.trc with
        snap := some { q := j.q, seq := j.seq, cyc := none, wantArr := false, gotArr := none, wantRim := true,
                       gotRim := false, arrStatus := 0, rimStatus := 0 } } ∧
      t.rim = { s.rim with want := some { clk := k, src := 0, t := BitVec.ofNat 64 (j.par 0x20 8), fired := false } } ∧
      Obl.jobIs s t j { j with phase := .running } ∧ Only [.trc, .rim, .saiga] s t)) ∧
  (∀ s x j c, s.trc.snap = some x → x.gotArr = some c → x.wantRim = false → x.arrStatus = 0 →
    x.rimStatus = 0 → j.phase ≠ .finished → findJob s j.q j.seq = some j → j.q = x.q → j.seq = x.seq → j.aborted = false →
    x.gotRim = false → retraining s = false → Obl.settled s → Answers .snapDrain s (fun t =>
      Obl.dramIs s t (snapBase s) (snapHeader s x ++ (usedTiles s).flatMap (snapTile s)) ∧
      t.trc = { s.trc with snap := none, arrShadow := false } ∧ t.rim = { s.rim with shadow := none } ∧
      Obl.jobIs s t j (Obl.done j 0 (BitVec.ofNat 64 c) 0) ∧ Only [.dram, .trc, .rim, .regs, .scr, .evl, .saiga] s t)) ∧
  (∀ s x j r, s.trc.snap = some x → x.wantArr = false → x.gotArr = none → x.gotRim = true → s.rim.shadow = some r →
    x.arrStatus = 0 → x.rimStatus = 0 → j.phase ≠ .finished → findJob s j.q j.seq = some j → j.q = x.q → j.seq = x.seq →
    j.aborted = false → retraining s = false → Obl.settled s → Answers .snapDrain s (fun t =>
      (∀ i, i < 64 → dramByte t (snapBase s + i) = (snapHeader s x).getD i 0) ∧
      (∀ i, i < 12416 → dramByte t (snapBase s + 64 + snapArrayBytes s + i) = bytesOf r.bytes i) ∧
      regBit t (ro pRim 0x0C0) 1 = true ∧ t.trc = { s.trc with snap := none, arrShadow := false } ∧
      t.rim = { s.rim with shadow := none } ∧ Obl.jobIs s t j (Obl.done j 0 (BitVec.ofNat 64 nextC7) r.t) ∧
      Only [.dram, .trc, .rim, .regs, .scr, .evl, .saiga] s t))

/-- R18, R362, R374, R394, R403, R404, R406: a LOAD whose slot, range and header are good makes its slot LOADING and stores the
header; the whole container behind good checks makes it VALID, and a code that fails it makes it INVALID; a host request that
fails in the header makes it INVALID and finishes PCIE_ERR, logged with the DETAIL of the completion; a LOAD waits for READY and
for a retrain. -/
def Obl.LoadJobs : Prop :=
  (∀ s j head k, Obl.takenJob s 8 1 .dispatched j → s.cfg.state = 6 → k = j.par 0x31 1 → loadRefusal s j = none →
    j.fromDram = false → retraining s = false → Obl.settled s →
    head.length = 256 → 256 ≤ j.len → conTotal (bytesOf head) ≤ slotSize s → headerCheck s (bytesOf head) 2 false = none →
    Answers (.load head 0 []) s (fun t => Obl.dramIs s t (slotBase s k) head ∧ slotOf t k = { slotOf s k with st := 1 } ∧
      (∀ m, m ≠ k → slotOf t m = slotOf s m) ∧
      t.cfg = { s.cfg with
        slots := t.cfg.slots, loading := some k, resValid := s.cfg.resValid && decide (s.cfg.resSlot ≠ k),
        hadImage := s.cfg.hadImage && decide (s.cfg.resSlot ≠ k) } ∧
      Obl.jobIs s t j { j with phase := .running } ∧ Only [.dram, .regs, .scr, .evl, .cfg, .saiga] s t)) ∧
  (∀ s j head k st, Obl.takenJob s 8 1 .dispatched j → s.cfg.state = 6 → retraining s = false → k = j.par 0x31 1 →
    loadRefusal s j = some st → Answers (.load head 0 []) s (fun t =>
      Obl.jobIs s t j (Obl.done j st 0 (place 64 0 8 0 ||| place 64 8 8 k)) ∧ Only [.saiga] s t)) ∧
  (∀ s j, (slotCount s ≤ j.par 0x31 1 → loadRefusal s j = some 0x09) ∧
    (j.par 0x31 1 < slotCount s → (slotOf s (j.par 0x31 1)).st = 1 → loadRefusal s j = some 0x02)) ∧
  (∀ s j head err k, Obl.takenJob s 8 1 .dispatched j → s.cfg.state = 6 → k = j.par 0x31 1 → loadRefusal s j = none →
    j.fromDram = false → retraining s = false → err ≠ 0 → Answers (.load head err []) s (fun t =>
      slotOf t k = { slotOf s k with st := 3 } ∧ t.cfg.loading = none ∧
      Obl.jobIs s t j (Obl.done j 0x13 0 (place 64 0 8 0 ||| place 64 8 8 k)) ∧
      t.evl.log.getLast? = some { time := s.tb, code := 0x0083, page := pPci, detail := place 32 8 8 k } ∧
      Only [.cfg, .regs, .scr, .evl, .saiga] s t)) ∧
  (∀ s j head err, jobAt s 8 1 .dispatched = some j → (s.cfg.state ≠ 6 ∨ retraining s = true) →
    Answers (.load head err []) s (Only [] s)) ∧
  (∀ s head err es, exec (.load head err es) s = exec (.load head err []) (strike s es) ∧
    exec (.loadEnd head err es) s = exec (.loadEnd head err []) (strike s es)) ∧
  (∀ s j host k head rest n, Obl.takenJob s 8 1 .running j → k = j.par 0x31 1 → j.fromDram = false →
    retraining s = false → Obl.settled s →
    head = dramRead s (slotBase s k) 256 → n = conTotal (bytesOf head) → 256 ≤ n → n ≤ j.len →
    rest = bytesAt host 0 (n - 256) → loadVerdict s (head ++ rest) = none → Answers (.loadEnd host 0 []) s (fun t =>
      Obl.dramIs s t (slotBase s k + 256) rest ∧
      slotOf t k = { st := 2, bbram := decide (conKeySlot (bytesOf head) = 1) } ∧ (∀ m, m ≠ k → slotOf t m = slotOf s m) ∧
      t.cfg = { s.cfg with slots := t.cfg.slots, loading := none } ∧
      Obl.jobIs s t j (Obl.done j 0 0 (place 64 0 8 0 ||| place 64 8 8 k)) ∧
      Only [.dram, .regs, .scr, .evl, .cfg, .saiga] s t)) ∧
  (∀ s j host k head rest n st code loc, Obl.takenJob s 8 1 .running j → k = j.par 0x31 1 → j.fromDram = false → retraining s = false → Obl.settled s →
    head = dramRead s (slotBase s k) 256 → n = conTotal (bytesOf head) → 256 ≤ n → n ≤ j.len →
    rest = bytesAt host 0 (n - 256) → loadVerdict s (head ++ rest) = some (st, code, loc) →
    Answers (.loadEnd host 0 []) s (fun t => slotOf t k = { slotOf s k with st := 3 } ∧ t.cfg.loading = none ∧
      Obl.jobIs s t j (Obl.done j st loc (place 64 0 8 code ||| place 64 8 8 k)) ∧
      Only [.dram, .regs, .scr, .evl, .cfg, .saiga] s t))

/-- The bytes of `bs` from position `off` on. -/
abbrev Obl.after (bs : List Byte) (off : Nat) : Bytes := fun i => bytesOf bs (off + i)

/-- R18, R179, R261, R405, R406: a SWAP from a VALID slot whose image passes its checks begins, and no image is resident until it
succeeds, where a CRC, a TAG or a lost key leaves none and the slot INVALID; during a run it finishes BUSY, and one that a check refuses with the check's status; it ends with the image resident,
its used tiles holding their sections at operating voltage, and queues, FIFOs and flits empty; one that would configure a rim
that has been set RUNNING finishes BUSY and leaves the resident image as it was; a SWAP waits for READY. -/
def Obl.SwapJobs : Prop :=
  (∀ s j k, Obl.takenJob s 9 1 .dispatched j → s.cfg.state = 6 → k = j.par 0x31 1 → swapRefusal s k = none → Answers .swap s (fun t =>
    t.cfg = { s.cfg with resValid := false, hadImage := s.cfg.resValid, swapping := some k } ∧ Obl.jobIs s t j { j with phase := .running } ∧
    Only [.cfg, .saiga] s t)) ∧
  (∀ s j k, Obl.takenJob s 9 1 .dispatched j → s.cfg.state = 6 → k = j.par 0x31 1 → s.run.active = true →
    Answers .swap s (fun t =>
      Obl.jobIs s t j (Obl.done j 0x02 0 (place 64 0 8 0 ||| place 64 8 8 k)) ∧ Only [.saiga] s t)) ∧
  (∀ s j k st code loc, Obl.takenJob s 9 1 .dispatched j → s.cfg.state = 6 → k = j.par 0x31 1 →
    swapRefusal s k = some (st, code, loc) → Answers .swap s (fun t =>
      Obl.jobIs s t j (Obl.done j st loc (place 64 0 8 code ||| place 64 8 8 k)) ∧ Only [.saiga] s t)) ∧
  (∀ s j, jobAt s 9 1 .dispatched = some j → s.cfg.state ≠ 6 → Answers .swap s (Only [] s)) ∧
  (∀ s net es, exec (.imageSwap net es) s = exec (.imageSwap net []) (strike s es)) ∧
  (∀ s j k net, Obl.takenJob s 9 1 .running j → k = j.par 0x31 1 → retraining s = false → Obl.settled s →
    keyLost s k = true → Answers (.imageSwap net []) s (fun t =>
      t.cfg = { s.cfg with slots := t.cfg.slots, resValid := false, swapping := none } ∧
      slotOf t k = { slotOf s k with st := 3 } ∧ (∀ m, m ≠ k → slotOf t m = slotOf s m) ∧
      Obl.jobIs s t j (Obl.done j 0x0E noLoc (place 64 0 8 0x43 ||| place 64 8 8 k)) ∧
      Only [.cfg, .dram, .regs, .scr, .evl, .saiga] s t)) ∧
  (∀ s j k net off n, Obl.takenJob s 9 1 .running j → k = j.par 0x31 1 → retraining s = false → Obl.settled s →
    conKeySlot (bytesOf (dramRead s (slotBase s k) 256)) = 0xFF →
    slotSub s k 6 = .at off n → s.rim.state = .running → Answers (.imageSwap net []) s (fun t =>
      t.cfg = { s.cfg with resValid := s.cfg.hadImage, swapping := none } ∧ t.img = s.img ∧ t.rim = s.rim ∧
      Obl.jobIs s t j (Obl.done j 0x02 0 (place 64 0 8 0 ||| place 64 8 8 k)) ∧
      Only [.cfg, .dram, .regs, .scr, .evl, .saiga] s t)) ∧
  (∀ s j k bs net off n code, Obl.takenJob s 9 1 .running j → k = j.par 0x31 1 → retraining s = false → Obl.settled s →
    bs = dramRead s (slotBase s k) (conTotal (bytesOf (dramRead s (slotBase s k) 256))) →
    conKeySlot (bytesOf (dramRead s (slotBase s k) 256)) = 0xFF → conPlain s bs = bs → trailerCheck s bs bs = some code →
    slotSub s k 5 = .at off n → slotSub s k 6 = .absent → Answers (.imageSwap net []) s (fun t =>
      t.img = imageOf (Obl.after bs off) ∧ t.cfg.resValid = false ∧ t.cfg.swapping = none ∧
      slotOf t k = { slotOf s k with st := 3 } ∧ t.rim = s.rim ∧
      Obl.jobIs s t j (Obl.done j 0x0E noLoc (place 64 0 8 code ||| place 64 8 8 k)) ∧
      Only [.img, .tiles, .banks, .aq, .msg, .ex, .run, .recov, .trc, .mkh, .cfg, .ports, .dies, .dram, .regs, .scr, .evl, .saiga]
        s t)) ∧
  (∀ s j k bs net off n, Obl.takenJob s 9 1 .running j → k = j.par 0x31 1 → retraining s = false → Obl.settled s →
    bs = dramRead s (slotBase s k) (conTotal (bytesOf (dramRead s (slotBase s k) 256))) →
    conKeySlot (bytesOf (dramRead s (slotBase s k) 256)) = 0xFF → conPlain s bs = bs → trailerCheck s bs bs = none →
    slotSub s k 5 = .at off n → slotSub s k 6 = .absent →
    (∀ l, l < 64 → fenced s (physOf s l) = false) → (∀ l, l < 64 → ∀ m, m < 64 → physOf s l = physOf s m → l = m) →
    Answers (.imageSwap net []) s (fun t =>
      t.img = imageOf (Obl.after bs off) ∧ t.cfg = { s.cfg with
        resSlot := k, resValid := true, resEnc := false, resBbram := false, swapping := none } ∧
      t.run = { Run.reset with swapped := true, grant := s.run.grant } ∧ t.ex.flits = [] ∧ t.msg = [] ∧
      (∀ q, inqOf t q = [] ∧ outqOf t q = []) ∧
      (∀ l, l < 64 → (imageOf (Obl.after bs off)).tiles.getLsbD l = true →
        (tileOf t (physOf s l)).st = imageStore (Obl.after bs off) (iDir (Obl.after bs off)) l (tileOf s (physOf s l)).st ∧
        (tileOf t (physOf s l)).un = { Units.reset with cnt := imageCounters (Obl.after bs off) (iDir (Obl.after bs off)) l } ∧
        (tileOf t (physOf s l)).phase = .idle ∧ (tileOf t (physOf s l)).retention = false ∧
        (tileOf t (physOf s l)).mv = opMv s (physOf s l)) ∧
      Obl.sameBytes s t ∧ Obl.jobIs s t j (Obl.done j 0 0 (place 64 0 8 0 ||| place 64 8 8 k)) ∧
      Only [.img, .tiles, .banks, .aq, .msg, .ex, .run, .recov, .trc, .mkh, .cfg, .ports, .dies, .dram, .regs, .scr, .evl, .saiga]
        s t))

/-- The statements above together: load jobs and swaps.
The model's own choices in it: log entries 35, 57, 73 and 109. -/
def Obligations.LoadAndSwapJobs : Prop := Obl.LoadJobs ∧ Obl.SwapJobs

/-- The RUN executor has taken START job `j` while no run is active, no swap works, an image is resident and the device READY. -/
abbrev Obl.mayAsk (s : State) (j : Job) : Prop :=
  Obl.takenJob s 0x0A 1 .dispatched j ∧ s.run.active = false ∧ swapWorks s = false ∧ s.cfg.resValid = true ∧ s.cfg.state = 6

/-- Beyond that the device is in power state RUN, no tile of the image is under self-test, no flag of STOP_MASK is set, no other
device takes part, trace and recovery are off, and the run is not paced. -/
abbrev Obl.mayStart (s : State) (j : Job) : Prop :=
  Obl.mayAsk s j ∧ s.pwr.state = 0 ∧ (∀ p ∈ runTiles s, (tileOf s p).testing = false) ∧
  peers s = [] ∧ regBit s trcCtl 0 = false ∧ runMode s ≠ 2 ∧ regBit s recovCtl 0 = false ∧
  ctxFlags s j.ctx &&& BitVec.ofNat 64 (j.par 0x20 8) = 0

/-- The run that START job `j` begins at cycle `c`: its context, STOP_MASK, and the last cycle that N names (R43). -/
abbrev Obl.runIs (t : State) (j : Job) (c : Nat) : Prop :=
  t.run.active = true ∧ t.run.first = c ∧ t.run.ctx = j.ctx ∧ t.run.stopMask = BitVec.ofNat 64 (j.par 0x20 8) ∧
  t.run.job = some (j.q, j.seq) ∧ t.run.grant = c ∧ t.run.faultStop = false ∧ t.run.partialStop = false ∧
  t.run.stopAt = (if j.par 0x18 6 = 0 ∨ cycleLimit ≤ c + j.par 0x18 6 then none else some (c + j.par 0x18 6 - 1))

/-- R16, R18, R42, R43, R86, R111, R181, R186, R360, R361: a START that nothing holds back or refuses begins the run; after a stop
it resumes at the run's next cycle with every tile at step 0, one that stood a cycle further there, and a fenced one left in
retention; after a swap every tile waits for the record of cycle 0; the fault
records clear.  One during a run finishes BUSY, one without an image NO_IMAGE, one with a device of the run that no port reaches
NO_LINK, one against a partner's RUNINFO or image IMAGE_MISMATCH, one that admission refuses ADMISSION; it waits for a swap, for
a tile under self-test, for RUNINFO and for power state RUN.  GRANT adds cycles to a stepped run and waits for them; STOP stops
the run at the largest cycle begun with cause HOST and waits for it.
The model's own choices in it: log entries 19, 54, 90, 91 and 121. -/
def Obligations.RunControlJobs : Prop :=
  (∀ s j peer c, Obl.mayAsk s j → noLink s = false → startWaits s = false → imageMismatch s = false →
    peerMismatch s peer = false → (startAdmission s peer).2 = 0 → ctxFlags s j.ctx &&& BitVec.ofNat 64 (j.par 0x20 8) = 0 →
    c = (if s.run.swapped = true then 0 else s.run.first) → Answers (.start peer) s (fun t => Obl.runIs t j c ∧
      (∀ p ∈ runTiles s, (tileOf t p).step = 0 ∧ (fenced s p = false → (tileOf t p).retention = false) ∧
        (tileOf t p).cycle = (if s.run.swapped = true then c else max c (Tbl.get 0 s.run.next (logicalNo s p))) ∧
        ((tileOf t p).phase = .start ∨ (tileOf t p).phase = .ready)) ∧
      Obl.jobIs s t j { j with phase := .running })) ∧
  (∀ s j peer, Obl.mayAsk s j → noLink s = true → Answers (.start peer) s (fun t =>
    Obl.jobIs s t j (Obl.done j 0x05 0 0) ∧ Only [.saiga] s t)) ∧
  (∀ s j peer, Obl.mayAsk s j → noLink s = false → startWaits s = true → Answers (.start peer) s (Only [] s)) ∧
  (∀ s p, p ∈ runTiles s → (tileOf s p).testing = true → startWaits s = true) ∧
  (∀ s j peer, jobAt s 0x0A 1 .dispatched = some j → s.run.active = false → swapWorks s = true →
    Answers (.start peer) s (Only [] s)) ∧
  (∀ s j peer, Obl.mayAsk s j → noLink s = false → startWaits s = false →
    (imageMismatch s = true ∨ ∃ d ∈ peers s, peer = some (.route d)) → Answers (.start peer) s (fun t =>
      Obl.jobIs s t j (Obl.done j 0x06 0 0) ∧ Only [.saiga] s t)) ∧
  (∀ s j peer, Obl.mayAsk s j → noLink s = false → startWaits s = false → imageMismatch s = false →
    peerMismatch s peer = false → (startAdmission s peer).2 ≠ 0 → Answers (.start peer) s (fun t =>
      Obl.jobIs s t j (Obl.done j 0x07 0 0) ∧ Only [.saiga, .regs, .scr] s t)) ∧
  (∀ s j peer, Obl.mayStart s j → s.run.swapped = false → Answers (.start peer) s (fun t => Obl.runIs t j s.run.first ∧
    (∀ p ∈ runTiles s, tileOf t p = { (if fenced s p then tileOf s p else { tileOf s p with retention := false, mv := opMv s p })
      with
      phase := .ready, step := 0, cycle := max s.run.first (Tbl.get 0 s.run.next (logicalNo s p)), since := s.tb, wait := none,
      lent := [], st := { (tileOf s p).st with written := [] } }) ∧
    (∀ p, p ∉ runTiles s → tileOf t p = tileOf s p) ∧ (∀ p, p < 68 → getReg t (ro (pTil p) 0x100) = 0) ∧
    getReg t (ro pGlb 0x160) = 0 ∧ Obl.jobIs s t j { j with phase := .running } ∧
    Only [.run, .tiles, .dies, .regs, .scr, .saiga, .recov] s t)) ∧
  (∀ s j peer, Obl.mayStart s j → s.run.swapped = true → s.run.record = none → s.img.regions = [] →
    (∃ q ∈ enabledIn s, inqOf s q = []) → Answers (.start peer) s (fun t => Obl.runIs t j 0 ∧
    (∀ p ∈ runTiles s, (tileOf t p).phase = .start ∧ (tileOf t p).step = 0 ∧ (tileOf t p).cycle = 0) ∧
    (∀ p, p ∉ runTiles s → tileOf t p = tileOf s p) ∧ Obl.jobIs s t j { j with phase := .running } ∧
    Only [.run, .tiles, .dies, .regs, .scr, .saiga, .recov] s t)) ∧
  (∀ s j peer, Obl.takenJob s 0x0A 1 .dispatched j → s.run.active = true → Answers (.start peer) s (fun t =>
    Obl.jobIs s t j (Obl.done j 0x02 0 0) ∧ Only [.saiga] s t)) ∧
  (∀ s j peer, Obl.takenJob s 0x0A 1 .dispatched j → s.run.active = false → swapWorks s = false →
    (s.cfg.resValid = false ∨ s.cfg.state ≠ 6) → Answers (.start peer) s (fun t =>
    Obl.jobIs s t j (Obl.done j 0x03 0 0) ∧ Only [.saiga] s t)) ∧
  (∀ s j g p, Obl.takenJob s 0x0A 2 .dispatched j → s.run.active = true → runMode s = 1 → p ∈ runTiles s →
    g = min (s.run.grant + j.par 0x18 6) (cycleLimit - 1) → (tileOf s p).cycle < g → Answers .grant s (fun t =>
      t.run = { s.run with grant := g } ∧ Obl.jobIs s t j { j with phase := .running, result := BitVec.ofNat 64 g } ∧
      (∀ x, tileOf t x = { tileOf s x with wait := (tileOf t x).wait }) ∧ Only [.run, .saiga, .tiles] s t)) ∧
  (∀ s j, Obl.takenJob s 0x0A 3 .dispatched j → s.run.active = true → s.run.faultStop = false → s.run.stopAt = none →
    runMode s ≠ 2 → Answers .stop s (fun t => t.run = { s.run with stopAt := some (maxBegun s), cause := some 3 } ∧
      Obl.jobIs s t j { j with phase := .running } ∧ Only [.run, .saiga] s t)) ∧
  (∀ s j, Obl.takenJob s 0x0A 3 .dispatched j → s.run.active = false → Answers .stop s (fun t =>
    Obl.jobIs s t j (Obl.done j 0 0 0) ∧ Only [.saiga] s t))

/-! ## Registers, FIFOs and BAR2 (11, 12, 16) -/

/-- The read answered `w` and touched nothing but what `ps` names and the bus. -/
abbrev Obl.reads (ps : List Part) (s t : State) (w : Word) : Prop :=
  t.bus = { data := w, bytes := [], poisoned := false } ∧ Only (.bus :: ps) s t

/-- R371, R373, R379, R380: over an endpoint that is up a 4-byte read of MSG_DATA_LO takes the oldest visible word of its FIFO and claims its packet, an 8-byte
one returns the whole word, and of an empty FIFO either sets MSG_EMPTY_RD; DROP_PKT gives up the claimed packet, CLR the visible
ones; a read of EVL_DATA0 takes the oldest entry, one of an empty log sets its empty-read bit, and CLR empties the log. -/
def Obligations.FifoAndLogReads : Prop :=
  (∀ s f w ws rest wide, f < 16 → endpointUp s = true → (fifoOf s f).vis = (w :: ws) :: rest → Answers (.msgDataLo f wide) s (fun t =>
    Obl.reads [.msg] s t (if wide = true then w else BitVec.ofNat 64 (w.toNat % 2 ^ 32)) ∧
    fifoOf t f = { fifoOf s f with vis := if ws = [] then rest else ws :: rest, claimed := !ws.isEmpty, last := w } ∧
    ∀ g, g ≠ f → fifoOf t g = fifoOf s g)) ∧
  (∀ s f wide, f < 16 → endpointUp s = true → (fifoOf s f).vis = [] → Answers (.msgDataLo f wide) s (fun t =>
    Obl.reads [.regs, .scr] s t (if wide = true then (fifoOf s f).last else BitVec.ofNat 64 ((fifoOf s f).last.toNat % 2 ^ 32)) ∧
    OnlyRegs [ro pMsg (0x10C + 0x20 * f)] s t ∧ regBit t (ro pMsg (0x10C + 0x20 * f)) 0 = true)) ∧
  (∀ s f, (fifoOf s f).claimed = true → Answers (.dropPkt f) s (fun t =>
    fifoOf t f = { fifoOf s f with vis := (fifoOf s f).vis.drop 1, claimed := false } ∧
    (∀ g, g ≠ f → fifoOf t g = fifoOf s g) ∧ Only [.msg] s t)) ∧
  (∀ s f, (fifoOf s f).claimed = false → Answers (.dropPkt f) s (Only [] s)) ∧
  (∀ s f, Answers (.msgClr f) s (fun t =>
    fifoOf t f = { fifoOf s f with vis := [], claimed := false, last := 0 } ∧ (∀ g, g ≠ f → fifoOf t g = fifoOf s g) ∧
    (∀ o, o = 0x10C ∨ o = 0x110 ∨ o = 0x114 → getReg t (ro pMsg (o + 0x20 * f)) = 0) ∧
    OnlyRegs [ro pMsg (0x10C + 0x20 * f), ro pMsg (0x110 + 0x20 * f), ro pMsg (0x114 + 0x20 * f)] s t ∧
    Only [.msg, .regs, .scr] s t)) ∧
  (∀ s e rest, endpointUp s = true → s.evl.log = e :: rest → Answers .evlData0 s (fun t =>
    Obl.reads [.evl] s t (BitVec.ofNat 64 (e.time.toNat % 2 ^ 32)) ∧ t.evl = { log := rest, last := some e })) ∧
  (∀ s, endpointUp s = true → s.evl.log = [] → Answers .evlData0 s (fun t => regBit t (ro pEvl 0x094) 0 = true ∧ OnlyRegs [ro pEvl 0x094] s t ∧
    Only [.bus, .regs, .scr] s t)) ∧
  (∀ s, Answers .evlClr s (fun t => t.evl = { log := [], last := none } ∧ getReg t (ro pEvl 0x094) = 0 ∧
    getReg t (ro pEvl 0x098) = 0 ∧ OnlyRegs [ro pEvl 0x094, ro pEvl 0x098] s t ∧ Only [.evl, .regs, .scr] s t))

/-- Registers whose read does more than return and clear their own bits: the FIFOs, the event log, TB_LO and CTL_RX_DATA. -/
def Obl.pops : List Nat :=
  (List.range 16).map (fun f => ro pMsg (0x100 + 0x20 * f)) ++ [ro pEvl 0x080, ro pTim 0x080] ++
    (List.range 24).map (fun n => ro (pLnk n) 0x0B0)

/-- A 4-byte register of BAR0 that reads as itself: no IND_DATA, none of `pops`, and not held in three copies. -/
abbrev Obl.readable (a : Nat) : Prop := a % 4 = 0 ∧ a < bar4 ∧ a % 4096 ≠ 0x044 ∧ a ∉ Obl.pops ∧ votedReg a = false

/-- A register that takes the bits software writes and does nothing else, by page and offset, while the state allows a write. -/
def Obl.plain (s : State) (a : Nat) : Bool :=
  let pg := a / 4096
  let o := a % 4096
  decide (pageKind pg ≠ .none) && (decide (o = 0x020) || (decide (o = 0x048) && hasInd pg) || (decide (0x80 ≤ o) &&
    match pageKind pg with
    | .glb => decide (o = 0x380 ∨ (s.run.active = false ∧
        (o = 0x404 ∨ o = 0x408 ∨ o = 0x40C ∨ o = 0x410 ∨ o = 0x420 ∨ o = 0x424)))
    | .pci => true
    | .job => decide (0x100 ≤ o ∧ o < 0x300 ∧ 4 ≤ o % 0x40 ∧ o % 0x40 ≤ 0x10) && !sqEn s ((o - 0x100) / 0x40)
    | .cfg => decide (o = 0x0A0 ∨ o = 0x0A4 ∨ o = 0x0A8) && s.cfg.slots.all (fun e => decide (e.2.st ≠ 1 ∧ e.2.st ≠ 2))
    | .scr => decide (o = 0x088 ∨ o = 0x08C)
    | .trc => decide (o = 0x0B8 ∨ o = 0x0BC ∨ (regBit s trcCtl 0 = false ∧
        (o = 0x088 ∨ o = 0x08C ∨ o = 0x090 ∨ o = 0x09C ∨ o = 0x0A0 ∨ (0x200 ≤ o ∧ o < 0x300))))
    | .acq => decide (o ≠ 0x080) && !mkhArmed s
    | .ddrCommon => decide (o = 0x084 ∨ o = 0x094 ∨ o = 0x098)
    | .lnk => decide (o = 0x09C) || (decide (o = 0x0AC) && !isLink (pageInstance pg))
    | .til => decide (o = 0x1C0) && !inRun s (pageInstance pg)
    | .bnk => decide (o = 0x084)
    | _ => false))

/-- R463, R466, R467, R470: a read of a register answers it and clears its RC bits, eight bytes the lower register first; a
register without an effect of its own takes the bits that software writes and keeps the others, eight bytes the lower one first;
a write at the place of a register with an effect has that effect; an endpoint that is not up takes nothing; BAR4 reads back the doorbells; a request that is not 4 or 8
bytes, aligned, returns 0 or is discarded, with BAD_ACCESS; CLR_STICKY clears a page's sticky bits, BLK_IRQ and BLK_ERR. -/
def Obl.RegisterAccess : Prop :=
  (∀ s a, endpointUp s = true → Obl.readable a → Answers (.rcRead a 4) s (fun t =>
    Obl.reads [.regs, .scr] s t (BitVec.ofNat 64 (regValue s a).toNat) ∧
    getReg t a = getReg s a &&& ~~~(rcMask a) ∧ OnlyRegs [a] s t)) ∧
  (∀ s a, endpointUp s = true → a % 8 = 0 → Obl.readable a → Obl.readable (a + 4) → rcMask a = 0 → Answers (.rcRead a 8) s (fun t =>
    Obl.reads [.regs, .scr] s t (BitVec.ofNat 64 ((regValue s a).toNat + 2 ^ 32 * (regValue s (a + 4)).toNat)) ∧
    getReg t (a + 4) = getReg s (a + 4) &&& ~~~(rcMask (a + 4)) ∧ OnlyRegs [a + 4] s t)) ∧
  (∀ s q, endpointUp s = true → q < 8 → Answers (.rcRead (bar4 + 0x1000 * q) 4) s (fun t => Obl.reads [] s t (BitVec.ofNat 64
    (place 32 0 16 (queueOf s q).tail ||| place 32 16 2 (fld (getReg s (sqReg q 0x24)) 0 2)).toNat))) ∧
  (∀ s off size, endpointUp s = true → off < bar4 → (¬ (size = 4 ∨ size = 8) ∨ off % size ≠ 0) → Answers (.rcRead off size) s (fun t =>
    Obl.reads [.regs, .scr] s t 0 ∧ Stuck pGlb 2 s t ∧ OnlyRegs [ro pGlb 0x014, ro pGlb 0x024] s t)) ∧
  (∀ s pg, Answers (.clrSticky pg) s (fun t => getReg t (ro pg 0x014) = 0 ∧ getReg t (ro pg 0x024) = 0 ∧
    getReg t (ro pg 0x030) = 0 ∧ OnlyRegs [ro pg 0x014, ro pg 0x024, ro pg 0x030] s t ∧ Only [.regs, .scr] s t)) ∧
  (∀ s a v, endpointUp s = true → a % 4 = 0 → a < bar4 → Obl.plain s a = true → Answers (.registerWrite a 4 v) s (fun t =>
    getReg t a = (getReg s a &&& ~~~(rwMask a)) ||| (BitVec.ofNat 32 v.toNat &&& rwMask a) ∧
    OnlyRegs [a] s t ∧ Only [.regs, .scr] s t)) ∧
  (∀ s a v, endpointUp s = true → a % 8 = 0 → a < bar4 → pageKind (a / 4096) = .acq → 0x80 ≤ a % 4096 → Obl.plain s a = true → Obl.plain s (a + 4) = true →
    Answers (.registerWrite a 8 v) s (fun t =>
      getReg t a = (getReg s a &&& ~~~(rwMask a)) ||| (BitVec.ofNat 32 v.toNat &&& rwMask a) ∧
      getReg t (a + 4) = (getReg s (a + 4) &&& ~~~(rwMask (a + 4))) ||| (BitVec.ofNat 32 (v.toNat / 2 ^ 32) &&& rwMask (a + 4)) ∧
      OnlyRegs [a, a + 4] s t ∧ Only [.regs, .scr] s t)) ∧
  (∀ s pg, endpointUp s = true → pageKind pg ≠ .none → exec (.registerWrite (ro pg 0x010) 4 1) s = exec (.clrSticky pg) s) ∧
  (∀ s pg, ∀ v : Reg, endpointUp s = true → hasInd pg = true →
    exec (.registerWrite (ro pg 0x040) 4 (BitVec.ofNat 64 v.toNat)) s = exec (.indAddrWrite pg v) s ∧
    exec (.registerWrite (ro pg 0x044) 4 (BitVec.ofNat 64 v.toNat)) s = exec (.indDataWrite pg v) s) ∧
  (∀ s q, ∀ v : Reg, endpointUp s = true → q < 8 →
    exec (.registerWrite (bar4 + 0x1000 * q) 4 (BitVec.ofNat 64 v.toNat)) s = exec (.sqDoorbell q v) s ∧
    exec (.registerWrite (bar4 + 0x1000 * q + 4) 4 (BitVec.ofNat 64 v.toNat)) s = exec (.cqDoorbell q v) s) ∧
  (∀ s, ∀ v : Reg, endpointUp s = true → exec (.registerWrite (ro pJob 0x088) 4 (BitVec.ofNat 64 v.toNat)) s = exec (.flagSet v) s ∧
    exec (.registerWrite (ro pJob 0x08C) 4 (BitVec.ofNat 64 v.toNat)) s = exec (.flagClr v) s) ∧
  (∀ s v, endpointUp s = true → s.run.active = true → Answers (.registerWrite (ro pGlb 0x100) 4 v) s (Refused pGlb s)) ∧
  (∀ s off size v, endpointUp s = true → off < bar4 → (¬ (size = 4 ∨ size = 8) ∨ off % size ≠ 0) → Answers (.registerWrite off size v) s (fun t =>
    Stuck pGlb 2 s t ∧ OnlyRegs [ro pGlb 0x014, ro pGlb 0x024] s t ∧ Only [.regs, .scr] s t)) ∧
  (∀ s a v, a % 4 = 0 → a < bar4 → pageKind (a / 4096) = .none → Answers (.registerWrite a 4 v) s (Only [] s)) ∧
  (∀ s off size v, endpointUp s = false → Answers (.rcRead off size) s (Only [] s) ∧
    Answers (.registerWrite off size v) s (Only [] s))

/-- Over an endpoint that is up, a read of the register at `a` answers a word of which `P` holds, and changes nothing else but
what a read clears. -/
abbrev Obl.shows (s : State) (a : Nat) (P : Word → Prop) : Prop :=
  endpointUp s = true → Answers (.rcRead a 4) s (fun t => P t.bus.data ∧ Only [.bus, .regs, .scr] s t)

/-- What software reads of the state that other statements change: PWR_STAT, CLK_STAT and CAP_EFF; RESIDENT, SLOT_STATE and
KEY_STAT; MSG_STAT, EVL_STAT and SQ_CREDIT; RIM_STAT, TILE_STAT, RECOV_STAT and TRC_STAT, field by field. -/
def Obl.LiveRegisters : Prop :=
  (∀ s, Obl.shows s (ro pPwr 0x104) (fun v => fld v 0 2 = s.pwr.state % 4 ∧ fld v 4 4 = s.pwr.reason % 16 ∧
    v.getLsbD 2 = (s.pwr.entering.isSome || s.pwr.exiting))) ∧
  (∀ s, Obl.shows s (ro pPwr 0x150) (fun v => v.getLsbD 0 = (!s.hw.refLost) ∧ v.getLsbD 1 = (!s.hw.refLost) ∧
    fld v 2 4 = s.hw.laneRef.toNat ∧ v.getLsbD 6 = s.hw.refLost)) ∧
  (∀ s, Obl.shows s (ro pPwr 0x148) (fun v => v.toNat = if s.pwr.hot = true
    then min (regF s (ro pPwr 0x080) 0 10) (max 120 (min 540 (regF s (ro pPwr 0x144) 0 10)))
    else regF s (ro pPwr 0x080) 0 10)) ∧
  (∀ s, Obl.shows s (ro pCfg 0x0B8) (fun v => fld v 0 5 = s.cfg.resSlot % 32 ∧ v.getLsbD 8 = s.cfg.resValid ∧
    v.getLsbD 9 = s.cfg.resEnc ∧ v.getLsbD 10 = s.cfg.resBbram)) ∧
  (∀ s i, i < 32 → Obl.shows s (ro pCfg (0x0B0 + 4 * (i / 16))) (fun v => fld v (2 * (i % 16)) 2 = (slotOf s i).st % 4)) ∧
  (∀ s, Obl.shows s (ro pCfg 0x0C4) (fun v => v.getLsbD 0 = s.keys.fuseSet ∧ v.getLsbD 1 = s.keys.bbSet ∧
    v.getLsbD 2 = s.keys.tampered ∧ v.getLsbD 3 = s.keys.plainDis ∧ v.getLsbD 4 = s.keys.bbramDis ∧
    v.getLsbD 5 = s.keys.hostBootDis)) ∧
  (∀ s f, f < 16 → Obl.shows s (ro pMsg (0x108 + 0x20 * f)) (fun v => fld v 0 13 = (fifoOf s f).held % 8192 ∧
    fld v 16 6 = ((fifoOf s f).vis.headD []).length % 64 ∧ v.getLsbD 22 = (fifoOf s f).vis.isEmpty ∧
    fld v 23 9 = min 511 (fifoOf s f).vis.length)) ∧
  (∀ s, Obl.shows s (ro pEvl 0x090) (fun v => fld v 0 10 = s.evl.log.length % 1024 ∧ v.getLsbD 16 = s.evl.log.isEmpty)) ∧
  (∀ s q, q < 8 → Obl.shows s (sqReg q 0x18) (fun v => v.toNat = if (queueOf s q).used = true
    then ((queueOf s q).cqHead + Obl.slots (getReg s (sqReg q 0))) % 65536 else 0)) ∧
  (∀ s, Obl.shows s (ro pRim 0x084) (fun v => fld v 0 2 = (match s.rim.state with
      | .noConfig => 0 | .held => 1 | .running => 2 | .decodeFail => 3) ∧
    v.getLsbD 2 = pinsSafe s ∧ fld v 4 8 = (if s.pwr.state = 2 then 0 else s.rim.clkRun.toNat) ∧
    fld v 12 4 = (if s.pwr.state = 2 then 0 else s.rim.pllLock.toNat))) ∧
  (∀ s p, p < 68 → Obl.shows s (ro (pTil p) 0x228) (fun v => v.getLsbD 0 = (tileOf s p).dead ∧
    v.getLsbD 1 = (tileOf s p).testOk ∧ v.getLsbD 2 = decide (spareOf s (p / 17) = some (p % 17)) ∧
    v.getLsbD 3 = (logicalOf s p).isSome)) ∧
  (∀ s, Obl.shows s (ro pGlb 0x414) (fun v => v.getLsbD 0 = (s.recov.active && s.run.active) ∧
    v.getLsbD 1 = (s.recov.rolling || s.run.holds.contains .rollback) ∧ fld v 4 4 = s.recov.fail % 16 ∧
    fld v 8 16 = s.recov.rollbacks % 65536)) ∧
  (∀ s, Obl.shows s (ro pTrc 0x084) (fun v => v.getLsbD 0 = regBit s trcCtl 0 ∧
    (v.getLsbD 1 = true ↔ ∀ k, k < 5 → (streamOf s k).opn = [] ∧ (streamOf s k).staged = 0) ∧
    ∀ k, k < 5 → v.getLsbD (2 + k) =
      ((regBit s trcCtl 0 || decide (0 < (streamOf s k).staged)) && streamFull s k)))

/-- IND_ADDR of the page after one access: its address field has gone on by 4 unless NOINC is set. -/
abbrev Obl.advanced (s t : State) (pg : Nat) : Prop :=
  getReg t (ro pg 0x040) = if regBit s (ro pg 0x048) 0 = true then getReg s (ro pg 0x040)
    else setFld (getReg s (ro pg 0x040)) 0 (indField (pageKind pg))
      (fld (getReg s (ro pg 0x040)) 0 (indField (pageKind pg)) + 4)

/-- IND_ADDR of page `pg` holds `a`. -/
abbrev Obl.at_ (s : State) (pg a : Nat) : Prop := getReg s (ro pg 0x040) = BitVec.ofNat 32 a

/-- Physical tile `p` takes writes of its storage: it is not in retention and in no active run. -/
abbrev Obl.open_ (s : State) (p : Nat) : Prop := (tileOf s p).retention = false ∧ inRun s p = false

/-- Word `i` of space `sp` of a TIL page is one that a write may change: j = 3 of IMEM is not (R81, R475). -/
abbrev Obl.holds (sp i : Nat) : Prop :=
  (sp = 0 ∧ i < 2 ^ 24 ∧ i % 4 ≠ 3) ∨ (sp = 1 ∧ i < 4096) ∨ (sp = 2 ∧ i < 65536) ∨ (sp = 3 ∧ i < 1024) ∨ (sp = 4 ∧ i < 32768)

/-- Half `j` of context `c`'s flags is written with `v`: what has been set of it in this HUBCLK period stays (R357, R376). -/
def Obl.halfFlags (s : State) (c j : Nat) (v : Reg) : Word :=
  (ctxFlags s c &&& ~~~(place 64 (32 * j) 32 0xFFFFFFFF &&& ~~~(freshFlags s c))) ||| place 64 (32 * j) 32 v.toNat

/-- R81 to R83, R207, R267, R268, R310, R376, R475 to R479: IND_ADDR selects a word, and one in another item empties the hold
buffer; IND_DATA reads the word there, writes it, holds it or commits the words held, and goes on by 4 unless NOINC is set. -/
def Obl.IndirectPairs : Prop :=
  (∀ s pg v, hasInd pg = true → Answers (.indAddrWrite pg v) s (fun t => getReg t (ro pg 0x040) = v ∧
    heldOf t pg = (if (heldOf s pg).1 = 1 ∧ (heldOf s pg).2.1 ≠ itemOf pg v.toNat then (0, 0, 0, 0) else heldOf s pg) ∧
    (∀ q, q ≠ pg → heldOf t q = heldOf s q) ∧ OnlyRegs [ro pg 0x040] s t ∧ Only [.regs, .scr, .hold] s t)) ∧
  (∀ s pg v ups, hasInd pg = false → ups = [] → Answers (.indAddrWrite pg v) s (Only [] s) ∧
    Answers (.indDataWrite pg v) s (Only [] s) ∧ (pg < 4096 → endpointUp s = true → Answers (.indDataRead pg ups) s (fun t => Obl.reads [] s t 0))) ∧
  (∀ s pg, endpointUp s = true → hasInd pg = true → pageKind pg ≠ .bnk → Answers (.indDataRead pg []) s (fun t =>
    Obl.reads [.regs, .scr, .free] s t (BitVec.ofNat 64 (indWord s pg (getReg s (ro pg 0x040)).toNat).toNat) ∧
    Obl.advanced s t pg ∧ OnlyRegs [ro pg 0x040] s t)) ∧
  (∀ s b a, endpointUp s = true → b < 128 → Obl.at_ s (pBnk b) a → a < 2 ^ 21 → (dieOf s (b / 32)).tt = none → Answers (.indDataRead (pBnk b) []) s (fun t =>
    Obl.reads [.regs, .scr, .free, .evl] s t (if bankOwner s b = 0x40 ∨ bankOwner s b = 0x41
      then BitVec.ofNat 64 (fld ((bankOf s b).word (a / 8)) (32 * (a / 4 % 2)) 32) else 0) ∧ Obl.advanced s t (pBnk b))) ∧
  (∀ s pg ups, exec (.indDataRead pg ups) s = exec (.indDataRead pg []) (ups.foldl bankUpset s)) ∧
  (∀ s c j v, c < 256 → j < 2 → (c = s.run.ctx → Obl.halfFlags s c j v &&& s.run.stopMask = 0) →
    Obl.at_ s pJob (16 * c + 4 * j) → Answers (.indDataWrite pJob v) s (fun t =>
      (∀ d, ctxFlags t d = if d = c then Obl.halfFlags s c j v else ctxFlags s d) ∧
      t.saiga.jobs = s.saiga.jobs ∧ (∀ q, queueOf t q = queueOf s q) ∧ Obl.advanced s t pJob ∧
      OnlyRegs [ro pJob 0x040] s t ∧ Only [.saiga, .regs, .scr] s t)) ∧
  (∀ s p sp i v, p < 68 → Obl.open_ s p → (sp = 1 ∧ i < 4096 ∨ sp = 2 ∧ i < 65536 ∨ sp = 3 ∧ i < 1024) →
    Obl.at_ s (pTil p) (2 ^ 28 * sp + 4 * i) → Answers (.indDataWrite (pTil p) v) s (fun t =>
      tileOf t p = { tileOf s p with st := (tileOf s p).st.setItem sp i v.toNat } ∧ OnlyTile p s t ∧ t.scr.committed = false ∧
      t.img = { s.img with inQ := t.img.inQ, outQ := t.img.outQ } ∧ (sp = 1 → t.img = s.img) ∧ Obl.advanced s t (pTil p) ∧
      OnlyRegs [ro (pTil p) 0x040] s t ∧ Only [.tiles, .scr, .img, .regs] s t)) ∧
  (∀ s p i j v, p < 68 → Obl.open_ s p → i < 2 ^ 22 → j < 2 → Obl.at_ s (pTil p) (16 * i + 4 * j) →
    Answers (.indDataWrite (pTil p) v) s (fun t =>
      partsOf t (pTil p) i = (if j = 0 then (v.toNat, (partsOf s (pTil p) i).2) else ((partsOf s (pTil p) i).1, v.toNat)) ∧
      (∀ q, q ≠ pTil p → heldOf t q = heldOf s q) ∧ Obl.advanced s t (pTil p) ∧ OnlyRegs [ro (pTil p) 0x040] s t ∧
      Only [.hold, .regs, .scr] s t)) ∧
  (∀ s p i v w, p < 68 → Obl.open_ s p → i < 2 ^ 22 → Obl.at_ s (pTil p) (16 * i + 8) →
    w = BitVec.ofNat 72 ((partsOf s (pTil p) i).1 + 2 ^ 32 * (partsOf s (pTil p) i).2 + 2 ^ 64 * (v.toNat % 256)) →
    Answers (.indDataWrite (pTil p) v) s (fun t =>
      (evenParity w = true → tileOf t p = { tileOf s p with st := (tileOf s p).st.setItem 0 i w.toNat } ∧ OnlyTile p s t ∧
        t.scr.committed = false ∧ OnlyRegs [ro (pTil p) 0x040] s t) ∧
      (evenParity w = false → (∀ q, tileOf t q = tileOf s q) ∧ Stuck (pTil p) 1 s t) ∧
      heldOf t (pTil p) = (0, 0, 0, 0) ∧ (∀ q, q ≠ pTil p → heldOf t q = heldOf s q) ∧ Obl.advanced s t (pTil p) ∧
      Only [.hold, .tiles, .regs, .scr] s t)) ∧
  (∀ s p n i v, p < 68 → Obl.open_ s p → n < 1024 → i < 32 → Obl.at_ s (pTil p) (2 ^ 30 + 128 * n + 4 * i) →
    Answers (.indDataWrite (pTil p) v) s (fun t =>
      (∀ k, Tbl.get false (tileOf t p).st.ds k =
        if 1024 * n + 32 * i ≤ k ∧ k < 1024 * n + 32 * i + 32 ∧ 2 ≤ k % 1024 ∧ k % 1024 < 0x280
        then v.getLsbD (k % 32) else Tbl.get false (tileOf s p).st.ds k) ∧ OnlyTile p s t ∧ Obl.advanced s t (pTil p) ∧
      tileOf t p = { tileOf s p with st := { (tileOf s p).st with ds := (tileOf t p).st.ds } } ∧
      OnlyRegs [ro (pTil p) 0x040] s t ∧ Only [.tiles, .regs, .scr] s t)) ∧
  (∀ s p sp i v, p < 68 → ((tileOf s p).retention = true ∨ inRun s p = true) → Obl.holds sp i →
    Obl.at_ s (pTil p) (2 ^ 28 * sp + 4 * i) → Answers (.indDataWrite (pTil p) v) s (fun t =>
      Stuck (pTil p) 1 s t ∧ Obl.advanced s t (pTil p) ∧ OnlyRegs [ro (pTil p) 0x014, ro (pTil p) 0x024, ro (pTil p) 0x040] s t ∧
      Only [.regs, .scr] s t)) ∧
  (∀ s p sp i v, p < 68 → sp < 16 → i < 2 ^ 26 → ¬ Obl.holds sp i → Obl.at_ s (pTil p) (2 ^ 28 * sp + 4 * i) →
    Answers (.indDataWrite (pTil p) v) s (fun t =>
      Obl.advanced s t (pTil p) ∧ OnlyRegs [ro (pTil p) 0x040] s t ∧ Only [.regs, .scr] s t)) ∧
  (∀ s b i v, b < 128 → i < 2 ^ 18 → (bankOwner s b = 0x40 ∨ bankOwner s b = 0x41) → Obl.at_ s (pBnk b) (8 * i) →
    Answers (.indDataWrite (pBnk b) v) s (fun t => partsOf t (pBnk b) i = (v.toNat, (partsOf s (pBnk b) i).2) ∧
      Obl.advanced s t (pBnk b) ∧ OnlyRegs [ro (pBnk b) 0x040] s t ∧ Only [.hold, .regs, .scr] s t)) ∧
  (∀ s b i v, b < 128 → i < 2 ^ 18 → (bankOwner s b = 0x40 ∨ bankOwner s b = 0x41) → Obl.at_ s (pBnk b) (8 * i + 4) →
    (dieOf s (b / 32)).tt = none → Tbl.get false (bankOf s b).pend (i / 64) = false →
    Answers (.indDataWrite (pBnk b) v) s (fun t =>
      (∀ k, (bankOf t b).word k = if k = i then BitVec.ofNat 64 ((partsOf s (pBnk b) i).1 + 2 ^ 32 * v.toNat)
        else (bankOf s b).word k) ∧ (∀ c, c ≠ b → bankOf t c = bankOf s c) ∧ heldOf t (pBnk b) = (0, 0, 0, 0) ∧
      Obl.advanced s t (pBnk b) ∧ Only [.banks, .hold, .regs, .scr] s t)) ∧
  (∀ s b i v, b < 128 → i < 2 ^ 19 → bankOwner s b ≠ 0x40 → bankOwner s b ≠ 0x41 → Obl.at_ s (pBnk b) (4 * i) →
    Answers (.indDataWrite (pBnk b) v) s (fun t => Stuck (pBnk b) 1 s t ∧ Obl.advanced s t (pBnk b) ∧
      OnlyRegs [ro (pBnk b) 0x014, ro (pBnk b) 0x024, ro (pBnk b) 0x040] s t ∧ Only [.regs, .scr] s t)) ∧
  (∀ s n r k v, n < 24 → r < 4 → k < 2 → (laneEn s n).testBit r = false → Obl.at_ s (pLnk n) (1024 * r + 4 * k) →
    Answers (.indDataWrite (pLnk n) v) s (fun t =>
      (portOf t n).lane r = { (portOf s n).lane r with eqNext := setFld ((portOf s n).lane r).eqNext (32 * k) 32 v.toNat } ∧
      (∀ m, m ≠ r → (portOf t n).lane m = (portOf s n).lane m) ∧ (∀ m, m ≠ n → portOf t m = portOf s m) ∧
      Obl.advanced s t (pLnk n) ∧ OnlyRegs [ro (pLnk n) 0x040] s t ∧ Only [.ports, .scr, .regs] s t)) ∧
  (∀ s pin v, pin < 192 → Obl.at_ s pRim (16 * pin) → Answers (.indDataWrite pRim v) s (fun t => Stuck pRim 1 s t ∧
    Obl.advanced s t pRim ∧ OnlyRegs [ro pRim 0x014, ro pRim 0x024, ro pRim 0x040] s t ∧ Only [.regs, .scr] s t)) ∧
  (∀ s pin v, pin < 192 → Obl.at_ s pRim (16 * pin + 4) → Answers (.indDataWrite pRim v) s (fun t =>
    (delayOf t pin).target = fld v 0 10 ∧ (∀ k, k ≠ pin → delayOf t k = delayOf s k) ∧ Obl.advanced s t pRim ∧
    OnlyRegs [ro pRim 0x040] s t ∧ Only [.rim, .regs, .scr] s t))

/-- IND_DATA of page `pg` over an endpoint that is up, with `a` in IND_ADDR, answers `v`. -/
abbrev Obl.indShows (s : State) (pg a : Nat) (v : Reg) : Prop :=
  endpointUp s = true → Obl.at_ s pg a → Answers (.indDataRead pg []) s (fun t => t.bus.data = BitVec.ofNat 64 v.toNat)

/-- 32 bits of `w` from bit 32 j on. -/
def Obl.part {n : Nat} (w : BitVec n) (j : Nat) : Reg := BitVec.ofNat 32 (fld w (32 * j) 32)

/-- Tile `p` shows its storage: it is not in retention, and the resident image is not encrypted. -/
abbrev Obl.visible (s : State) (p : Nat) : Prop := (tileOf s p).retention = false ∧ s.cfg.resEnc = false

/-- What IND_DATA reads: the parts of a step word, table entries and DS bits, the constants among them and nothing of a protected
BP; all of these as 0 in retention and, but for DS, with an encrypted image, as are the rim's frames (R407); an I/O cell's
configuration and its delay with the ramp that goes on; a context's flags and the mask of the job that holds it; a lane's EQ entry
and its count of symbols; PHY words within their widths, 0 before training; the fuse words. -/
def Obl.IndirectWords : Prop :=
  (∀ s p i j, p < 68 → Obl.visible s p → i < 2 ^ 22 → j < 4 → Obl.indShows s (pTil p) (16 * i + 4 * j)
    (if j = 3 then 0 else Obl.part (Tbl.get (tileOf s p).st.imemFill (tileOf s p).st.imem i) j)) ∧
  (∀ s p i, p < 68 → Obl.visible s p → i < 4096 → Obl.indShows s (pTil p) (2 ^ 28 + 4 * i)
    (BitVec.ofNat 32 (Tbl.get 0 (tileOf s p).st.ftab i).toNat)) ∧
  (∀ s p i, p < 68 → Obl.visible s p → i < 65536 → Obl.indShows s (pTil p) (2 ^ 29 + 4 * i)
    (Tbl.get 0 (tileOf s p).st.rtab i)) ∧
  (∀ s p i, p < 68 → Obl.visible s p → i < 1024 → Obl.indShows s (pTil p) (3 * 2 ^ 28 + 4 * i)
    (BitVec.ofNat 32 (Tbl.get 0 (tileOf s p).st.ptab i).toNat)) ∧
  (∀ s p n w v, p < 68 → (tileOf s p).retention = false → n < 1024 → w < 20 →
    (∀ i, i < 32 → (v : Reg).getLsbD i = (!protectedBp s (logicalNo s p) n &&
      (if w = 0 ∧ i = 0 then false else if w = 0 ∧ i = 1 then true
       else Tbl.get false (tileOf s p).st.shadow (1024 * n + 32 * w + i)))) →
    Obl.indShows s (pTil p) (2 ^ 30 + 128 * n + 4 * w) v) ∧
  (∀ s p sp i, p < 68 → sp < 16 → i < 2 ^ 26 →
    ((tileOf s p).retention = true ∨ (sp < 4 ∧ s.cfg.resEnc = true) ∨ (sp ≠ 0 ∧ ¬ Obl.holds sp i)) →
    Obl.indShows s (pTil p) (2 ^ 28 * sp + 4 * i) 0) ∧
  (∀ s pin, pin < 192 → Obl.indShows s pRim (16 * pin) (BitVec.ofNat 32 (ioWord s pin 0 % 64))) ∧
  (∀ s pin, pin < 192 → Obl.indShows s pRim (16 * pin + 4)
    (place 32 0 10 (delayOf s pin).target ||| place 32 31 1 (decide ((delayOf s pin).tap ≠ (delayOf s pin).target)).toNat)) ∧
  (∀ s i, i < 2 ^ 26 → Obl.indShows s pRim (2 ^ 28 + 4 * i)
    (if s.cfg.resEnc then 0 else BitVec.ofNat 32 (num s.rim.frames (4 * i) 4))) ∧
  (∀ s c j, c < 256 → j < 2 → Obl.indShows s pJob (16 * c + 4 * j) (Obl.part (ctxFlags s c) j)) ∧
  (∀ s c j, c < 256 → j < 2 → Obl.indShows s pJob (16 * c + 8 + 4 * j)
    (match ctxJob s c with | some k => Obl.part k.waitMask j | none => 0)) ∧
  (∀ s n r k, n < 24 → r < 4 → k < 2 → Obl.indShows s (pLnk n) (1024 * r + 4 * k) (Obl.part ((portOf s n).lane r).eq k)) ∧
  (∀ s n r, n < 24 → r < 4 → Obl.indShows s (pLnk n) (1024 * r + 16) ((portOf s n).lane r).syms) ∧
  (∀ s ch a, ch < 8 → a < 4096 → ((chanOf s ch).trained = false ∨ s.dram.ranks ≤ a / 1024 ∨ 10 ≤ a / 64 % 16 ∨ 6 ≤ a / 4 % 16) →
    Obl.indShows s (pDdr ch) a 0) ∧
  (∀ s ch rank lane w, ch < 8 → rank < 4 → lane < 16 → w < 16 → endpointUp s = true →
    Obl.at_ s (pDdr ch) (1024 * rank + 64 * lane + 4 * w) →
    Answers (.indDataRead (pDdr ch) []) s (fun t => t.bus.data.toNat < (if w = 3 ∨ w = 4 then 2 ^ 10 else 2 ^ 16))) ∧
  (∀ s i, i < 4 → Obl.indShows s pFus (4 * i) (Obl.part s.keys.devId i)) ∧
  (∀ s, Obl.indShows s pFus 0x10 (BitVec.ofNat 32 (s.keys.bin % 16))) ∧
  (∀ s i, i < 49 → Obl.indShows s pFus (0x100 + 4 * i) (BitVec.ofNat 32 (Tbl.get 0 s.keys.vf i % 1024)))

/-- The statements above together: the indirect pairs and the words they read.
The model's own choices in it: log entry 130. -/
def Obligations.IndirectAccess : Prop := Obl.IndirectPairs ∧ Obl.IndirectWords

/-- R107, R117, R118, R416, R420: without a run a TILE_MAP write gives a logical tile the named free physical tile, sends the tile
that it leaves to retention and advances its epoch, and one that names the tile it has changes nothing; FENCE takes the dies'
bits, a newly fenced tile going to retention with TEST_OK 0, and one whose test has passed leaving; LINK_MAP takes its port bits;
during a run, or for a tile that is fenced, taken or does not exist, or for a fenced tile whose test since then has not passed, each is discarded. -/
def Obl.MapsAndFences : Prop :=
  (∀ s i v, i < 64 → s.run.active = false → fld v 0 5 < 17 → fenced s (17 * (i / 16) + fld v 0 5) = false →
    (∀ j, j < 64 → j / 16 = i / 16 → j ≠ i → physOf s j ≠ 17 * (i / 16) + fld v 0 5) → fld v 0 5 ≠ regF s (mapReg i) 0 5 →
    Answers (.tileMapWrite i v) s (fun t => physOf t i = 17 * (i / 16) + fld v 0 5 ∧ epochOf t i = (epochOf s i + 1) % 256 ∧
      tileOf t (physOf s i) = { tileOf s (physOf s i) with retention := true, mv := 450 } ∧ OnlyTile (physOf s i) s t ∧
      OnlyRegs [mapReg i] s t ∧ Only [.regs, .scr, .tiles] s t)) ∧
  (∀ s i v, i < 64 → s.run.active = false → fld v 0 5 < 17 → fenced s (17 * (i / 16) + fld v 0 5) = false →
    (∀ j, j < 64 → j / 16 = i / 16 → j ≠ i → physOf s j ≠ 17 * (i / 16) + fld v 0 5) → fld v 0 5 = regF s (mapReg i) 0 5 →
    Answers (.tileMapWrite i v) s (Only [] s)) ∧
  (∀ s i v, i < 64 → (s.run.active = true ∨ 17 ≤ fld v 0 5 ∨ fenced s (17 * (i / 16) + fld v 0 5) = true ∨
      ∃ j, j < 64 ∧ j / 16 = i / 16 ∧ j ≠ i ∧ physOf s j = 17 * (i / 16) + fld v 0 5) →
    Answers (.tileMapWrite i v) s (Refused pGlb s)) ∧
  (∀ s d v, d < 4 → s.run.active = false →
    (∀ k, k < 17 → regBit s (fenceReg d) k = true → v.getLsbD k = false →
      (tileOf s (17 * d + k)).testOk = true ∧ (tileOf s (17 * d + k)).testFenced = true) →
    Answers (.fenceWrite d v) s (fun t => getReg t (fenceReg d) = v &&& 0x1FFFF ∧
      (∀ k, k < 17 → tileOf t (17 * d + k) =
        if regBit s (fenceReg d) k = false ∧ v.getLsbD k = true
        then { tileOf s (17 * d + k) with testOk := false, testFenced := false, retention := true, mv := 450 }
        else if regBit s (fenceReg d) k = true ∧ v.getLsbD k = false then { tileOf s (17 * d + k) with dead := false }
        else tileOf s (17 * d + k)) ∧
      (∀ p, p / 17 ≠ d → tileOf t p = tileOf s p) ∧
      ((∀ k, k < 17 → regBit s (fenceReg d) k = true → v.getLsbD k = true) → OnlyRegs [fenceReg d] s t ∧ t.evl = s.evl) ∧
      Only [.regs, .scr, .tiles, .evl] s t)) ∧
  (∀ s d v, d < 4 → (s.run.active = true ∨ ∃ k, k < 17 ∧ regBit s (fenceReg d) k = true ∧ v.getLsbD k = false ∧
      ((tileOf s (17 * d + k)).testOk = false ∨ (tileOf s (17 * d + k)).testFenced = false)) → Answers (.fenceWrite d v) s (Refused pGlb s)) ∧
  (∀ s dev v, dev < 16 → s.run.active = false → Answers (.linkMapWrite dev v) s (fun t =>
    getReg t (ro pGlb (0x340 + 4 * dev)) = (getReg s (ro pGlb (0x340 + 4 * dev)) &&& ~~~0xFFFF) ||| (v &&& 0xFFFF) ∧
    OnlyRegs [ro pGlb (0x340 + 4 * dev)] s t ∧ Only [.regs, .scr] s t)) ∧
  (∀ s dev v, dev < 16 → s.run.active = true → Answers (.linkMapWrite dev v) s (Refused pGlb s))

/-- The statements above together: accesses of registers, the maps and the fences.
The model's own choices in it: log entries 12, 59 and 129. -/
def Obligations.RegistersMapsAndFences : Prop := Obl.RegisterAccess ∧ Obl.LiveRegisters ∧ Obl.MapsAndFences

/-- The endpoint is up, and no access of BAR2 wakes the device: it is neither in DOZE nor on its way there. -/
abbrev Obl.notDozing (s : State) : Prop := endpointUp s = true ∧ s.pwr.state ≠ 2 ∧ s.pwr.entering ≠ some 2

/-- The DRAM address that a BAR2 offset reaches (R346). -/
abbrev Obl.bar2 (s : State) (off : Nat) : Nat := regF s (ro pPci 0x080) 0 5 * 2 ^ 36 + off

/-- R29, R219, R229, R344, R346, R368, R403, R492: over an endpoint that is up BAR2 reads and writes DRAM at WIN_SEL and its offset, and in
DOZE an access wakes the device and waits; a read that meets an uncorrectable error is poisoned; beyond the installed capacity a read
answers ones and a write is discarded, and BAR2_RANGE is logged; a write into a region of the active run or a held slot is
discarded; during a retrain the host's request waits.  A Function Level Reset aborts everything as a device abort does, and the
queues are reset once that is decided.
The model's own choices in it: log entries 60, 61 and 113. -/
def Obligations.Bar2AndFunctionReset : Prop :=
  (∀ s off n a, Obl.notDozing s → retraining s = false → Obl.settled s → a = Obl.bar2 s off → a + n ≤ capacity s →
    fetchBad s a n = false →
    Answers (.bar2Read off n []) s (fun t => t.bus = { data := 0, bytes := dramRead s a n, poisoned := false } ∧
      Obl.sameBytes s t ∧ Only [.bus, .dram, .regs, .scr, .evl] s t)) ∧
  (∀ s off n a, Obl.notDozing s → retraining s = false → Obl.settled s → a = Obl.bar2 s off → a + n ≤ capacity s →
    fetchBad s a n = true → Answers (.bar2Read off n []) s (fun t => t.bus = { data := 0, bytes := [], poisoned := true } ∧
      Obl.sameBytes s t ∧ Only [.bus, .dram, .regs, .scr, .evl] s t)) ∧
  (∀ s off n data, endpointUp s = true → s.pwr.state = 2 → s.pwr.entering = none → s.pwr.thenIdle = false →
    s.hw.thermtrip = false → retraining s = false →
    Answers (.bar2Read off n []) s (fun t => t.pwr = { s.pwr with exiting := true } ∧ Only [.pwr] s t) ∧
    Answers (.bar2Write off data) s (fun t => t.pwr = { s.pwr with exiting := true } ∧ Only [.pwr] s t)) ∧
  (∀ s off n es, exec (.bar2Read off n es) s = exec (.bar2Read off n []) (strike s es)) ∧
  (∀ s off n, Obl.notDozing s → retraining s = false → capacity s < Obl.bar2 s off + n → Answers (.bar2Read off n []) s (fun t =>
      t.bus = { data := 0, bytes := List.replicate n 0xFF, poisoned := false } ∧
      t.evl.log.getLast? = some { time := s.tb, code := 0x0084, page := pPci, detail := BitVec.ofNat 32 (off / 16) } ∧
      Only [.bus, .evl, .regs, .scr] s t)) ∧
  (∀ s off n data, (retraining s = true ∨ endpointUp s = false) → Answers (.bar2Read off n []) s (Only [] s) ∧
    Answers (.bar2Write off data) s (Only [] s)) ∧
  (∀ s off data a, Obl.notDozing s → retraining s = false → a = Obl.bar2 s off → a + data.length ≤ capacity s →
    (s.run.active = false ∨ hitsRegion s a data.length = false) → hitsHeldSlot s a data.length = false →
    Obl.settled s → Answers (.bar2Write off data) s (fun t =>
      Obl.dramIs s t a data ∧ Only [.dram, .regs, .scr, .evl] s t)) ∧
  (∀ s off data a, Obl.notDozing s → retraining s = false → a = Obl.bar2 s off → a + data.length ≤ capacity s →
    s.run.active = true → hitsRegion s a data.length = true → Answers (.bar2Write off data) s (Refused pGlb s)) ∧
  (∀ s off data a, Obl.notDozing s → retraining s = false → a = Obl.bar2 s off → a + data.length ≤ capacity s →
    (s.run.active = false ∨ hitsRegion s a data.length = false) → hitsHeldSlot s a data.length = true →
    Answers (.bar2Write off data) s (Refused pCfg s)) ∧
  (∀ s off data, Obl.notDozing s → retraining s = false → capacity s < Obl.bar2 s off + data.length →
    Answers (.bar2Write off data) s (fun t =>
      t.evl.log.getLast? = some { time := s.tb, code := 0x0084, page := pPci, detail := BitVec.ofNat 32 (off / 16) } ∧
      Only [.evl, .regs, .scr] s t)) ∧
  (∀ s, Answers .functionLevelReset s (fun t => t.saiga.flr = true ∧ (∃ a, t.saiga.abort = some a ∧ a.target = 3) ∧
    (mkhArmed s = true → t.mkh.state = 0))) ∧
  (∀ s, s.saiga.jobs = [] → s.run.active = false → Answers .functionLevelReset s (fun t => t.saiga.jobs = [] ∧
    (∀ q, queueOf t q = queueOf s q) ∧ Only [.saiga, .mkh, .rim, .trc] s t)) ∧
  (∀ s, s.saiga.jobs = [] → s.run.active = true → s.run.faultStop = false → s.run.stopAt = none → s.run.cause ≠ some 4 →
    runMode s ≠ 2 → Answers .functionLevelReset s (fun t =>
      t.run = { s.run with stopAt := some (maxBegun s), cause := some 4 })) ∧
  (∀ s j, Obl.oneJob s j → j.q < 8 → (j.phase = .copied ∨ j.phase = .inContext ∨ j.phase = .ready) →
    Answers .functionLevelReset s (fun t =>
      findJob t j.q j.seq = some { Obl.unrun j 1 with aborted := true }))

/-! ## The configuration loader (13) -/

/-- The configuration state is `n`, in all three copies (R433). -/
abbrev Obl.cfgAt (c : Cfg) (n : Nat) : Cfg := { c with state := n, stateB := n, stateC := n }

/-- R11, R391, R392, R408: in WAIT_SRC the first bytes of the named source begin a load: another device's from the bus, a master's
from its boot store, the host's from BOOT_DATA; a further write of BOOT_DATA appends, in BODY up to TOTAL_LEN; a master
puts the bytes that it reads or is given on the bus. -/
def Obl.BootSources : Prop :=
  (∀ s data, s.cfg.state = 1 → s.tap.scanned = false → srcHost s = false → bootMaster s = false → s.cfg.staged = false →
    data ≠ [] → Answers (.bootBusStart data) s (fun t =>
      t.cfg = { Obl.cfgAt s.cfg 2 with frm := true, clearDue := false, rx := data } ∧ Only [.cfg] s t)) ∧
  (∀ s data, s.cfg.state = 1 → s.tap.scanned = false → srcHost s = false → bootMaster s = true → s.cfg.staged = false →
    Answers (.bootBusStart data) s (fun t => t.cfg = { Obl.cfgAt s.cfg 2 with
        driving := t.cfg.driving, driven := t.cfg.driven, clearDue := false, rx := storeStream s } ∧
      (256 ≤ conTotal (storeBytes s) → conTotal (storeBytes s) ≤ 268435456 →
        t.cfg.driven = storeStream s ∧ t.cfg.driving = false) ∧ Only [.cfg] s t)) ∧
  (∀ s n, n < 256 → (storeStream s).getD n 0 = Tbl.get 0 s.hw.store n) ∧
  (∀ s data, s.cfg.state = 1 → s.tap.scanned = false → srcHost s = true → s.cfg.staged = false → s.cfg.driving = false →
    data ≠ [] → data.length < 256 → Answers (.bootData data) s (fun t => t.cfg = { Obl.cfgAt s.cfg 2 with
      driving := bootMaster s, driven := if bootMaster s = true then data else [], clearDue := false, rx := data } ∧
      Only [.cfg] s t)) ∧
  (∀ s data, s.cfg.state = 2 → s.tap.scanned = false → srcHost s = true →
    (s.cfg.driving = true → (s.cfg.driven ++ data).length < 256) → Answers (.bootData data) s (fun t =>
      t.cfg = { s.cfg with
        rx := s.cfg.rx ++ data, driven := if s.cfg.driving = true then s.cfg.driven ++ data else s.cfg.driven } ∧
      Only [.cfg] s t)) ∧
  (∀ s data, s.cfg.state = 3 → s.tap.scanned = false → srcHost s = true → s.cfg.driving = false → data ≠ [] →
    Answers (.bootData data) s (fun t =>
      t.cfg = { s.cfg with rx := (s.cfg.rx ++ data).take (conTotal (bytesOf s.cfg.rx)) } ∧ Only [.cfg] s t))

/-- Every lane is in electrical idle, and nothing else of the ports has changed (R397, R496). -/
abbrev Obl.lanesQuiet (s t : State) : Prop :=
  (∀ n, n < 24 → portOf t n = if (portOf s n).drive = 0 then portOf s n
    else { portOf s n with eidleTx := true, drive := 0, state := if (portOf s n).state = 8 then 9 else (portOf s n).state }) ∧
  ∀ n, 24 ≤ n → portOf t n = portOf s n

/-- The load has failed: CFG_STAT.STATE, CFG_ERR.CODE, and every lane in electrical idle (R397, R408). -/
abbrev Obl.loadFails (s t : State) (st code : Nat) : Prop :=
  t.cfg.state = st ∧ t.cfg.stateB = st ∧ t.cfg.stateC = st ∧ fld t.cfg.err 0 8 = code % 256 ∧ t.cfg.err.getLsbD 31 = true ∧
  t.cfg.frm = false ∧ Obl.lanesQuiet s t ∧ Only [.cfg, .ports] s t

/-- R394 to R399, R518: a header that passes its checks leads to BODY, one that fails to FAIL_COMPAT or FAIL_BAD with its code;
arrived sections are staged, EQ in the lanes' next settings, IMAGE in the banks, RIM in the rim's frames, and one that fails leads
to FAIL_BAD; with the whole container VERIFY follows, and an end before that is CONFIG_INCOMPLETE, but for a
loader that a boundary scan holds in its state; a failure puts every lane into electrical idle; RELOAD leaves a failed state,
and a failure's staged content is cleared. -/
def Obl.BootReceives : Prop :=
  (∀ s, s.cfg.state = 2 → 256 ≤ s.cfg.rx.length → s.tap.scanned = false →
    headerCheck s (bytesOf s.cfg.rx) 1 (bootMaster s && !srcHost s) = none → Answers .headerReceived s (fun t =>
      t.cfg = { Obl.cfgAt s.cfg 3 with rx := s.cfg.rx.take (conTotal (bytesOf s.cfg.rx)) } ∧ Only [.cfg] s t)) ∧
  (∀ s code, s.cfg.state = 2 → 256 ≤ s.cfg.rx.length → s.tap.scanned = false →
    headerCheck s (bytesOf s.cfg.rx) 1 (bootMaster s && !srcHost s) = some code → Answers .headerReceived s (fun t =>
      Obl.loadFails s t (if code = 0x41 ∨ code = 0x42 ∨ code = 0x43 then 8 else 10) code)) ∧
  (∀ s, s.cfg.state = 3 → s.tap.scanned = false → badSect s (rxPlain s) = none →
    (∀ e ∈ arrivedSects s, e.1 ≠ 3 ∧ e.1 ≠ 5 ∧ e.1 ≠ 6) → Answers .sectionStage s (fun t =>
      t.cfg = (if conTotal (rxPlain s) ≤ s.cfg.rx.length then
        { Obl.cfgAt s.cfg 4 with staged := true, frm := false } else { s.cfg with staged := true }) ∧
      Only [.cfg] s t)) ∧
  (∀ s ty code, s.cfg.state = 3 → s.tap.scanned = false → badSect s (rxPlain s) = some (ty, code) →
    Answers .sectionStage s (fun t => Obl.loadFails s t 10 code)) ∧
  (∀ s a l off n, s.cfg.state = 3 → s.tap.scanned = false → badSect s (rxPlain s) = none → arrivedSects s = [(6, a, l)] →
    subFor (rxPlain s) (devIdx s) (a, l) = .at off n → Answers .sectionStage s (fun t =>
      t.rim = { s.rim with frames := (List.range n).map (fun i => rxPlain s (off + i)) } ∧ t.cfg.staged = true ∧
      Only [.cfg, .rim] s t)) ∧
  (∀ s a l off n, s.cfg.state = 3 → s.tap.scanned = false → badSect s (rxPlain s) = none → arrivedSects s = [(3, a, l)] →
    subFor (rxPlain s) (devIdx s) (a, l) = .at off n → Answers .sectionStage s (fun t =>
      (∀ i, i < 96 → ((portOf t (i / 4)).lane (i % 4)).eqNext = BitVec.ofNat 64 (rd (rxPlain s) (off + 8 * i) 8) ∧
        Tbl.get 0 t.scr.eqCopy i = BitVec.ofNat 64 (rd (rxPlain s) (off + 8 * i) 8)) ∧
      t.cfg.staged = true ∧ Only [.cfg, .ports, .scr] s t)) ∧
  (∀ s a l off n, s.cfg.state = 3 → s.tap.scanned = false → badSect s (rxPlain s) = none → arrivedSects s = [(5, a, l)] →
    subFor (rxPlain s) (devIdx s) (a, l) = .at off n → 0 < n → n ≤ 2097152 → Answers .sectionStage s (fun t =>
      (∀ i, i < 262144 → (bankOf t 0).word i = BitVec.ofNat 64 (leNat ((List.range 8).map (fun k =>
        if 8 * i + k < n then rxPlain s (off + (8 * i + k)) else 0)))) ∧
      (∀ b, b ≠ 0 → bankOf t b = bankOf s b) ∧ t.cfg.staged = true ∧ Only [.cfg, .banks] s t)) ∧
  (∀ s, srcHost s = false → s.tap.scanned = false → (s.cfg.state = 2 ∨ s.cfg.state = 3) →
    (s.cfg.rx.length < 256 ∨ s.cfg.rx.length < conTotal (bytesOf s.cfg.rx)) → Answers .bootFrmDrop s (fun t =>
      Obl.loadFails s t 9 0x45 ∧ t.cfg.driving = false)) ∧
  (∀ s, srcHost s = false → s.tap.scanned = true → Answers .bootFrmDrop s (fun t =>
    t.cfg = { s.cfg with frm := false, driving := false } ∧ Only [.cfg] s t)) ∧
  (∀ s, srcHost s = true → s.tap.scanned = true → Answers .bootDataTimeout s (fun t =>
    t.cfg = { s.cfg with driving := false } ∧ Only [.cfg] s t)) ∧
  (∀ s, srcHost s = true → s.tap.scanned = false → (s.cfg.state = 2 ∨ s.cfg.state = 3) →
    (s.cfg.rx.length < 256 ∨ s.cfg.rx.length < conTotal (bytesOf s.cfg.rx)) → Answers .bootDataTimeout s (fun t =>
      Obl.loadFails s t 9 0x45 ∧ t.cfg.driving = false)) ∧
  (∀ s, s.cfg.clearDue = true → s.cfg.staged = true → Answers .stagedClear s (fun t =>
    (∀ b, b < 128 → bankOf t b = { bankOf s b with words := [] }) ∧
    (∀ n r, n < 24 → r < 4 → ((portOf t n).lane r).eqNext = 0) ∧
    t.rim = { s.rim with frames := s.rim.store } ∧ t.cfg = { s.cfg with staged := false, clearDue := false } ∧
    Only [.cfg, .banks, .ports, .rim, .scr] s t)) ∧
  (∀ s, s.cfg.clearDue = true → s.cfg.staged = false → Answers .stagedClear s (fun t =>
    t.cfg = { s.cfg with clearDue := false } ∧ Only [.cfg] s t)) ∧
  (∀ s v, v.getLsbD 0 = true → 8 ≤ s.cfg.state → s.cfg.state ≤ 11 → s.tap.scanned = false → Answers (.reload v) s (fun t =>
    t.cfg = { Obl.cfgAt s.cfg 1 with frm := false, driving := false } ∧ Only [.cfg] s t))

/-- The statements above together: where the boot stream comes from and how it arrives.
The model's own choices in it: log entries 21, 65 and 105. -/
def Obligations.BootStream : Prop := Obl.BootSources ∧ Obl.BootReceives

/-- START has come as far as READY needs: DRAM is trained, no boundary scan holds the loader, and the power state is RUN. -/
abbrev Obl.mayReady (s : State) : Prop :=
  s.cfg.state = 5 ∧ s.cfg.trained = true ∧ s.tap.scanned = false ∧ s.pwr.state = 0 ∧ s.pwr.entering = none ∧ s.pwr.exiting = false

/-- What START does to tiles and holds: voltages, and an end of recalibrations with the ports' bring-up. -/
abbrev Obl.startUp (s t : State) : Prop :=
  (∀ p, tileOf t p = { tileOf s p with mv := (tileOf t p).mv, wait := (tileOf t p).wait }) ∧
  t.run = { s.run with holds := t.run.holds } ∧ ∀ h ∈ t.run.holds, h ∈ s.run.holds

/-- R5, R193, R210, R244, R256, R396, R400, R401, R487, R500: VERIFY fails with its code, or START applies SHELL as software would write and
every channel is to be trained; DRAM training leaves every channel trained with the configuration of DRAMCFG, or FAIL_DRAM, with a
record that is neither of the two configurations failing every channel; READY loads the rim, HELD or with DECODE_FAIL at the first
code that is not implemented, zeroes the banks, calibrates the delay lines and, with REFCLK, starts the clocks at their ceilings, and waits for power state RUN; a boot image
that finds no slot makes slot 0 INVALID.
The model's own choices in it: log entries 66, 67, 109 and 128. -/
def Obligations.BootFinishes : Prop :=
  (∀ s ok code ty, s.cfg.state = 4 → s.tap.scanned = false → verifyFails s (conPlain s s.cfg.rx) ok = some (code, ty) →
    Answers (.containerVerify ok) s (fun t => Obl.loadFails s t 10 code)) ∧
  (∀ s ok off n, s.cfg.state = 4 → s.tap.scanned = false → verifyFails s (conPlain s s.cfg.rx) ok = none →
    rxSub s (bytesOf (conPlain s s.cfg.rx)) 1 = .at off n → n < 16 → Answers (.containerVerify ok) s (fun t =>
      t.cfg = { Obl.cfgAt s.cfg 5 with shellDone := true, fwOn := true, trained := false } ∧
      (∀ c, c < 8 → chanOf t c = { chanOf s c with trained := false }) ∧ Only [.cfg, .dram] s t)) ∧
  (∀ s ok off m v, s.cfg.state = 4 → s.tap.scanned = false → verifyFails s (conPlain s s.cfg.rx) ok = none →
    rxSub s (bytesOf (conPlain s s.cfg.rx)) 1 = .at off 16 →
    shellRec (bytesOf (conPlain s s.cfg.rx)) off 0 = (pScr, 0x088, m, v) →
    Answers (.containerVerify ok) s (fun t =>
      t.cfg = { Obl.cfgAt s.cfg 5 with shellDone := true, fwOn := true, trained := false } ∧
      getReg t (ro pScr 0x088) = (getReg s (ro pScr 0x088) &&& ~~~(m &&& 0xFFFF)) ||| (v &&& m &&& 0xFFFF) ∧
      OnlyRegs [ro pScr 0x088] s t ∧ Only [.cfg, .dram, .regs, .scr] s t)) ∧
  (∀ s fails temp off n, s.cfg.state = 5 → s.cfg.trained = false → s.cfg.shellDone = true → s.tap.scanned = false →
    (∀ c, c < 8 → fails.getD c 0 = 0) → rxSub s (rxPlain s) 4 = .at off n → dramCfgOk (rxPlain s) off = true →
    Answers (.dramTrainDone fails temp) s (fun t =>
      t.cfg = { s.cfg with trained := true } ∧ t.dram.capLog2 = (rxPlain s (off + 3)).toNat ∧
      t.dram.ranks = (rxPlain s (off + 1)).toNat ∧ t.dram.lpddr = decide (rxPlain s off = 1) ∧
      t.dram.dimms = (rxPlain s (off + 2)).toNat ∧ t.dram.rowBits = (rxPlain s (off + 4)).toNat ∧
      t.dram.colBits = (rxPlain s (off + 5)).toNat ∧ t.dram.bankBits = (rxPlain s (off + 6)).toNat ∧
      (∀ c, c < 8 → (chanOf t c).trained = true ∧ (chanOf t c).fail = 0 ∧ (chanOf t c).trainTemp = temp) ∧
      Only [.cfg, .dram] s t)) ∧
  (∀ s fails temp off n, s.cfg.state = 5 → s.cfg.trained = false → s.cfg.shellDone = true → s.tap.scanned = false →
    rxSub s (rxPlain s) 4 = .at off n → dramCfgOk (rxPlain s) off = false → Answers (.dramTrainDone fails temp) s (fun t =>
      t.cfg = Obl.cfgAt s.cfg 11 ∧ (∀ c, c < 8 → (chanOf t c).fail = 1 ∧ (chanOf t c).trained = false) ∧
      Obl.lanesQuiet s t ∧ Only [.cfg, .dram, .ports] s t)) ∧
  (∀ s fails temp c off n, s.cfg.state = 5 → s.cfg.trained = false → s.cfg.shellDone = true → s.tap.scanned = false → c < 8 →
    rxSub s (rxPlain s) 4 = .at off n → dramCfgOk (rxPlain s) off = true → fails.getD c 0 ≠ 0 → Answers (.dramTrainDone fails temp) s (fun t =>
      t.cfg = Obl.cfgAt s.cfg 11 ∧ (chanOf t c).fail = fails.getD c 0 % 8 ∧ (chanOf t c).trained = false ∧
      Obl.lanesQuiet s t ∧ Only [.cfg, .dram, .ports] s t)) ∧
  (∀ s net, (s.pwr.state ≠ 0 ∨ s.pwr.entering ≠ none ∨ s.pwr.exiting = true) → Answers (.ready net) s (Only [] s)) ∧
  (∀ s net, Obl.mayReady s → rxSub s (rxPlain s) 5 = .absent →
    rxSub s (rxPlain s) 6 = .absent → Answers (.ready net) s (fun t =>
      t.cfg = { Obl.cfgAt s.cfg 6 with staged := false, clearDue := false } ∧ t.rim = { s.rim with calibrated := true } ∧
      (∀ b, b < 128 → bankOf t b = { bankOf s b with words := [], prev := none, dirty := [] }) ∧
      (s.hw.refLost = false → ∀ d, d < 4 → stepClk t d = clkCeil s d) ∧
      (s.hw.refLost = true → ∀ d, d < 4 → stepClk t d = stepClk s d) ∧ Obl.startUp s t ∧ Only [.cfg, .banks, .ports, .rim, .regs, .scr, .tiles, .run] s t)) ∧
  (∀ s net off n, Obl.mayReady s → rxSub s (rxPlain s) 5 = .absent →
    rxSub s (rxPlain s) 6 = .at off n → s.rim.state ≠ .running → net.firstBad = none → clockFrameBad (rxPlain s) off = false →
    (∀ r ∈ net.refs, r ≤ 8) →
    Answers (.ready net) s (fun t =>
      t.cfg.state = 6 ∧ t.rim.state = .held ∧ t.rim.net = net ∧ t.rim.usedClks = clksUsed (rxPlain s) off net ∧
      t.rim.clkRun = 0 ∧ t.rim.calibrated = true ∧ t.rim.frames = (List.range n).map (fun i => rxPlain s (off + i)) ∧
      Obl.startUp s t ∧ Only [.cfg, .banks, .ports, .rim, .regs, .scr, .tiles, .run] s t)) ∧
  (∀ s net p off n, Obl.mayReady s → rxSub s (rxPlain s) 5 = .absent →
    rxSub s (rxPlain s) 6 = .at off n → s.rim.state ≠ .running → net.firstBad = some p → Answers (.ready net) s (fun t =>
      t.cfg.state = 6 ∧ t.rim = { s.rim with state := .decodeFail, frames := s.rim.store, calibrated := true } ∧
      getReg t (ro pRim 0x088) = BitVec.ofNat 32 p.loc.toNat ||| place 32 31 1 1 ∧
      Obl.startUp s t ∧ Only [.cfg, .banks, .ports, .rim, .regs, .scr, .tiles, .run] s t)) ∧
  (∀ s net off n, Obl.mayReady s → rxSub s (rxPlain s) 5 = .at off n →
    rxSub s (rxPlain s) 6 = .absent → slotCount s = 0 → Answers (.ready net) s (fun t =>
      t.cfg.state = 6 ∧ slotOf t 0 = { slotOf s 0 with st := 3 } ∧ fld t.cfg.err 0 8 = 0x4C ∧ fld t.cfg.err 8 8 = 5 ∧
      t.img = s.img ∧ Obl.startUp s t ∧ Only [.cfg, .banks, .ports, .rim, .regs, .scr, .tiles, .run] s t))

/-! ## Keys and fuses (13) -/

/-- The BBRAM slot of `t` holds no key, and its tamper record is `tamp`. -/
abbrev Obl.keyGone (s t : State) (tamp : Bool) : Prop :=
  t.keys = { s.keys with bbKey := 0, bbSet := false, keyWords := [], tampered := tamp } ∧ t.trc.unlocked = false

/-- With core supplies: no boot, job or resident image used the BBRAM key, and the slots whose container did are INVALID. -/
abbrev Obl.zeroised (s t : State) (tamp : Bool) : Prop :=
  Obl.keyGone s t tamp ∧
  (∀ k, slotOf t k = if (slotOf s k).bbram = true ∧ (slotOf s k).st ≠ 0 then { slotOf s k with st := 3 } else slotOf s k) ∧
  t.evl.log.getLast? = some { time := s.tb, code := 0x006F, page := pCfg, detail := 0 }

/-- Nothing in progress uses the BBRAM key. -/
abbrev Obl.keyUnused (s : State) : Prop :=
  coreOn s = true ∧ s.cfg.state = 6 ∧ s.saiga.jobs = [] ∧ s.cfg.resBbram = false

/-- R388 to R390, R406, R409: with WR_OPEN the eighth word of KEY_WR commits the BBRAM key and closes it, else the write is
discarded; ZEROISE, TAMPER, a KEY_WR that is not completed and the loss of VBAT without core supplies erase the key, and with
core supplies what came from it: its slots, a resident image that used it, a boot and a LOAD in progress with it, which end with
WRONG_KEY. -/
def Obl.BbramKey : Prop :=
  (∀ s v, s.keys.bbramDis = false → regBit s keyCtl 1 = true → s.keys.keyWords.length < 7 → Answers (.keyWr v) s (fun t =>
    t.keys = { s.keys with keyWords := s.keys.keyWords ++ [v] } ∧ Only [.keys] s t)) ∧
  (∀ s v, s.keys.bbramDis = false → regBit s keyCtl 1 = true → s.keys.keyWords.length = 7 → Answers (.keyWr v) s (fun t =>
    t.keys = { s.keys with
      keyWords := [], bbSet := true,
      bbKey := BitVec.ofNat 256 (leNat ((s.keys.keyWords ++ [v]).flatMap (fun w => leBytes 4 w.toNat))) } ∧
    regBit t keyCtl 1 = false ∧ OnlyRegs [keyCtl] s t ∧ Only [.keys, .regs, .scr] s t)) ∧
  (∀ s v, (s.keys.bbramDis = true ∨ regBit s keyCtl 1 = false) → Answers (.keyWr v) s (Refused pCfg s)) ∧
  (∀ s v, v.getLsbD 0 = true → Obl.keyUnused s → Answers (.zeroise v) s (fun t =>
    Obl.zeroised s t s.keys.tampered ∧ Only [.keys, .cfg, .trc, .evl, .regs, .scr] s t)) ∧
  (∀ s, Obl.keyUnused s → Answers .tamper s (fun t =>
    Obl.zeroised s t true ∧ Only [.keys, .cfg, .trc, .evl, .regs, .scr] s t)) ∧
  (∀ s, s.keys.keyWords ≠ [] → Obl.keyUnused s → Answers .keyWrTimeout s (fun t =>
    Obl.zeroised s t s.keys.tampered ∧ Only [.keys, .cfg, .trc, .evl, .regs, .scr] s t)) ∧
  (∀ s, coreOn s = false → Answers .vbatLoss s (fun t => Obl.keyGone s t false ∧ Only [.keys, .trc] s t)) ∧
  (∀ s, coreOn s = true → Answers .vbatLoss s (Only [] s)) ∧
  (∀ s v, v.getLsbD 0 = true → coreOn s = true → 2 ≤ s.cfg.state → s.cfg.state ≤ 5 → 256 ≤ s.cfg.rx.length →
    conKeySlot (bytesOf s.cfg.rx) = 1 → s.tap.scanned = false → s.cfg.resBbram = false → Answers (.zeroise v) s (fun t =>
      t.keys.bbSet = false ∧ t.cfg.state = 8 ∧ fld t.cfg.err 0 8 = 0x43 ∧ t.cfg.clearDue = true)) ∧
  (∀ s v j, v.getLsbD 0 = true → coreOn s = true → s.cfg.state = 6 → jobAt s 8 1 .running = some j →
    findJob s j.q j.seq = some j → j.aborted = false → conKeySlot (slotSrc s (j.par 0x31 1)) = 1 →
    jobAt s 9 1 .running = none → s.cfg.resBbram = false → Answers (.zeroise v) s (fun t =>
      t.keys.bbSet = false ∧ (slotOf t (j.par 0x31 1)).st = 3 ∧
      findJob t j.q j.seq = some { Obl.done j 0x0E noLoc (place 64 0 8 0x43 ||| place 64 8 8 (j.par 0x31 1)) with
        aborted := true })) ∧
  (∀ s v, v.getLsbD 0 = true → coreOn s = true → s.cfg.state = 6 → s.saiga.jobs = [] → s.run.active = false →
    s.cfg.resValid = true → s.cfg.resBbram = true → Answers (.zeroise v) s (fun t =>
      Obl.zeroised s t s.keys.tampered ∧ t.cfg.resValid = false ∧
      (∀ p, p < 68 → (tileOf t p).st.imem = [] ∧ (tileOf t p).st.ds = [] ∧ (tileOf t p).st.rtab = []) ∧
      (∀ b, b < 128 → bankOwner s b < 64 → (bankOf t b).words = [])))

/-- A FUSE_PROG word of code `c` with its key word (R410). -/
abbrev Obl.fuse (v : Reg) (c : Nat) : Prop := fld v 16 16 = 0xA5C3 ∧ fld v 0 4 = c

/-- R389, R410: FUSE_KEYBUF keeps the last eight words; FUSE_PROG begins programming under its conditions and is discarded
while one is in progress, and without its key word it does nothing; at its end the key or the fuse is set, or FAIL is. -/
def Obl.Fuses : Prop :=
  (∀ s v, s.keys.keyBuf.length < 8 → Answers (.fuseKeybuf v) s (fun t =>
    t.keys = { s.keys with keyBuf := s.keys.keyBuf ++ [v] } ∧ Only [.keys] s t)) ∧
  (∀ s v w ws, s.keys.keyBuf = w :: ws → ws.length = 7 → Answers (.fuseKeybuf v) s (fun t =>
    t.keys = { s.keys with keyBuf := ws ++ [v] } ∧ Only [.keys] s t)) ∧
  (∀ s v, Obl.fuse v 1 → s.keys.prog = none → s.hw.vaux33 = true → s.run.active = false → s.keys.fuseSet = false →
    Answers (.fuseProgKey v) s (fun t => t.keys = { s.keys with prog := some 1, progFail := false } ∧ Only [.keys] s t)) ∧
  (∀ s v, Obl.fuse v 1 → (s.hw.vaux33 = false ∨ s.run.active = true ∨ s.keys.fuseSet = true ∨ s.keys.prog.isSome = true) →
    Answers (.fuseProgKey v) s (Refused pFus s)) ∧
  (∀ s v, Obl.fuse v 2 → s.keys.prog = none → Answers (.fuseBlowPlainDis v) s (fun t =>
    t.keys = { s.keys with prog := some 2, progFail := false } ∧ Only [.keys] s t)) ∧
  (∀ s v, Obl.fuse v 4 → s.keys.prog = none → Answers (.fuseBlowBbramDis v) s (fun t =>
    t.keys = { s.keys with prog := some 4, progFail := false } ∧ Only [.keys] s t)) ∧
  (∀ s v, Obl.fuse v 8 → s.keys.prog = none → Answers (.fuseBlowHostBootDis v) s (fun t =>
    t.keys = { s.keys with prog := some 8, progFail := false } ∧ Only [.keys] s t)) ∧
  (∀ s v, Obl.fuse v 2 → s.keys.prog.isSome = true → Answers (.fuseBlowPlainDis v) s (Refused pFus s)) ∧
  (∀ s v, Obl.fuse v 4 → s.keys.prog.isSome = true → Answers (.fuseBlowBbramDis v) s (Refused pFus s)) ∧
  (∀ s v, Obl.fuse v 8 → s.keys.prog.isSome = true → Answers (.fuseBlowHostBootDis v) s (Refused pFus s)) ∧
  (∀ s v, fld v 16 16 ≠ 0xA5C3 → Answers (.fuseProgKey v) s (Only [] s) ∧ Answers (.fuseBlowPlainDis v) s (Only [] s) ∧
    Answers (.fuseBlowBbramDis v) s (Only [] s) ∧ Answers (.fuseBlowHostBootDis v) s (Only [] s)) ∧
  (∀ s, s.keys.prog = some 1 → Answers (.fuseProgDone true) s (fun t => t.keys = { s.keys with
      prog := none, progFail := false, fuseSet := true,
      fuseKey := BitVec.ofNat 256 (leNat (s.keys.keyBuf.flatMap (fun w => leBytes 4 w.toNat))) } ∧
    Only [.keys, .free] s t)) ∧
  (∀ s c, s.keys.prog = some c → c ≠ 1 → Answers (.fuseProgDone true) s (fun t => t.keys = { s.keys with
      prog := none, progFail := false,
      plainDis := s.keys.plainDis || decide (c = 2), bbramDis := s.keys.bbramDis || decide (c = 4),
      hostBootDis := s.keys.hostBootDis || decide (c = 8) } ∧ Only [.keys, .free] s t)) ∧
  (∀ s c, s.keys.prog = some c → Answers (.fuseProgDone false) s (fun t => t.keys = { s.keys with
      prog := none, progFail := true, fuseSet := s.keys.fuseSet || decide (c = 1), fuseKey := t.keys.fuseKey } ∧
    (c ≠ 1 → t.keys.fuseKey = s.keys.fuseKey) ∧ Only [.keys, .free] s t))

/-- The statements above together: the battery-backed key and the fuses.
The model's own choices in it: log entries 35, 62 and 63. -/
def Obligations.KeysAndFuses : Prop := Obl.BbramKey ∧ Obl.Fuses

/-! ## Fault tolerance (14) -/

/-- Physical tile `p` of the active run sends no heartbeat; its die has the spare `k`, and a tile `q` of the run goes on. -/
abbrev Obl.heartLost (s : State) (p l k q : Nat) : Prop :=
  p < 68 ∧ inRun s p = true ∧ fenced s p = false ∧ s.pwr.state = 0 ∧ logicalOf s p = some l ∧ spareOf s (p / 17) = some k ∧
  q ∈ runTiles s ∧ q ≠ p ∧ (tileOf s q).halted = false ∧ fenced s q = false

/-- The tile is dead: fenced, in retention, recorded with kind 3, its logical tile mapped to the spare, which leaves retention. -/
abbrev Obl.dead (s t : State) (p l k : Nat) : Prop :=
  (∀ r, r = 17 * (p / 17) + k → tileOf t r =
    { tileOf s r with retention := false, mv := opMv s r, unloaded := true, testing := false }) ∧
  (∀ r, r ≠ p → r ≠ 17 * (p / 17) + k → tileOf t r = tileOf s r) ∧
  regBit t (fenceReg (p / 17)) (p % 17) = true ∧ getReg t (ro (pTil p) 0x224) = (place 32 0 2 3 ||| place 32 31 1 1) ∧
  tileOf t p = { tileOf s p with
    retention := true, mv := 450, testOk := false, testFenced := false, dead := true, phase := .faulted } ∧
  physOf t l = 17 * (p / 17) + k ∧ epochOf t l = (epochOf s l + 1) % 256 ∧
  (∃ e ∈ t.evl.log, e.code = 0x0067 ∧ e.time = s.tb) ∧ Only [.regs, .scr, .evl, .tiles, .run, .ports] s t

/-- R416 to R419, R426, R427: a tile without heartbeat is dead, and its run stops under R44, or with recovery is held for a
rollback; the rollback loads the newly mapped spare, restores DS, ports, cycle and banks of the last checkpoint and empties the
flits, and one whose golden copy is gone, or that meets an uncorrectable line in the checkpoint area, stops the run with
CKPT_FAIL, the line counted; past the last journaled record the rollback is over. -/
def Obl.DeathAndRollback : Prop :=
  (∀ s p l k q, Obl.heartLost s p l k q → s.recov.active = false → Answers (.heartbeatLoss p) s (fun t =>
    Obl.dead s t p l k ∧ t.run = { s.run with faultStop := true, cause := some 5 })) ∧
  (∀ s p l k q, Obl.heartLost s p l k q → s.recov.active = true → Answers (.heartbeatLoss p) s (fun t =>
    Obl.dead s t p l k ∧ t.run = { s.run with holds := s.run.holds ++ [.rollback] })) ∧
  (∀ s c, s.recov.last = some c → s.run.active = true → s.run.holds.contains .rollback = true → s.run.faultStop = false →
    ckptErrors s = [] → (loadSpares s).2 = true → regBit s trcCtl 0 = false →
    (c.tiles.map (fun e => physOf s e.1)).Nodup → (c.banks.map (·.1)).Nodup →
    Answers (.rollback []) s (fun t => (∀ l ∈ usedTiles s, (tileOf t (physOf s l)).unloaded = false) ∧
      (∀ e ∈ c.tiles, ∀ p, p = physOf s e.1 → (tileOf t p).st.ds = e.2.ds ∧ (tileOf t p).st.ports = e.2.ports ∧
        (tileOf t p).st.win = e.2.win ∧ (tileOf t p).cycle = c.cyc ∧ (tileOf t p).step = 0 ∧ (tileOf t p).wait = none ∧
        (tileOf t p).phase = (if c.record.isSome then .ready else .start)) ∧
      (∀ e ∈ c.banks, bankOf t e.1 = { bankOf t e.1 with
        words := e.2, prev := none, dirty := [], pend := [], repair := none }) ∧ t.ex.flits = [] ∧ t.run.record = c.record ∧
      t.run.holds = s.run.holds.filter (fun h => h != .rollback) ∧ t.recov.rolling = true ∧
      t.recov.replay = s.recov.journal ∧ t.recov.skip = s.recov.counts ∧ t.recov.undo = [] ∧
      t.recov.rollbacks = (s.recov.rollbacks + 1) % 65536 ∧
      t.evl.log.getLast? = some { time := s.tb, code := 0x006A, page := pGlb, detail := BitVec.ofNat 32 c.cyc })) ∧
  (∀ s c q, s.recov.last = some c → s.run.active = true → s.run.holds.contains .rollback = true → s.run.faultStop = false →
    q ∈ runTiles s → (tileOf s q).halted = false → fenced s q = false → ckptErrors s = [] → golden s = none →
    Answers (.rollback []) s (fun t =>
      t.recov = { s.recov with fail := 2 } ∧ t.run = { s.run with
        holds := s.run.holds.filter (fun h => h != .rollback), faultStop := true, cause := some 5 } ∧
      t.evl.log.getLast? = some { time := s.tb, code := 0x006D, page := pGlb, detail := 2 } ∧
      Only [.recov, .run, .evl, .regs, .scr] s t)) ∧
  (∀ s c q e, s.recov.last = some c → s.run.active = true → s.run.holds.contains .rollback = true → s.run.faultStop = false →
    q ∈ runTiles s → (tileOf s q).halted = false → fenced s q = false → ckptBase s ≤ 64 * e.line →
    64 * e.line < ckptBase s + ckptLen s → s.dram.ecc e.err = .uncorrectable → lineBuffered s e.line = false →
    lineErr s e.line = .none → ckptErrors s = [] → (golden s).isSome = true →
    (∀ l ∈ usedTiles s, (tileOf s (physOf s l)).unloaded = false) → Obl.settled s → Answers
      (.rollback [e]) s (fun t => t.recov = { s.recov with fail := 2 } ∧ t.run = { s.run with
        holds := s.run.holds.filter (fun h => h != .rollback), faultStop := true, cause := some 5 } ∧
      (getReg t (ddrReg (channelOf (64 * e.line)) 0x088)).toNat =
        min 0xFFFFFFFF ((getReg s (ddrReg (channelOf (64 * e.line)) 0x088)).toNat + 1) ∧
      t.evl.log.getLast? = some { time := s.tb, code := 0x006D, page := pGlb, detail := 2 } ∧
      (∀ a, a / 64 ≠ e.line → dramByte t a = dramByte s a) ∧ Only [.recov, .run, .dram, .evl, .regs, .scr] s t)) ∧
  (∀ s c, s.recov.last = some c → s.recov.rolling = true → s.recov.replay = [] → s.recov.upto ≤ curCycle s →
    trcClass s 6 = false → Answers .rollbackDone s (fun t => t.recov = { s.recov with rolling := false } ∧
      t.evl.log.getLast? = some { time := s.tb, code := 0x006B, page := pGlb, detail := BitVec.ofNat 32 s.recov.redone } ∧
      Only [.recov, .evl, .regs, .scr] s t))

/-- R201, R423 to R425, R438, R439: at a boundary that a checkpoint is due at, with every tile there and no QRD open, the checkpoint
of the next cycle is captured and dirty regions become pending, or every region of a bank that no checkpoint holds; with the copies
done it is the last one, the journal begins there, and only its area of DRAM changes, every channel having woken; CKPT_NOW brings
the next checkpoint to the next boundary of a run with recovery, the DS of a tile that stands there being taken again, and without a run RECOV_CTL takes its bit. -/
def Obl.Checkpoints : Prop :=
  (∀ s k, k = curCycle s + 1 → s.run.active = true →
    (∀ p ∈ runTiles s, (tileOf s p).phase = .close 8 ∧ (tileOf s p).cycle + 1 = k) → ckptDue s k = true →
    ckptTaken s k = false → s.recov.next = none → s.run.holds = [] → qrdsAnswered s = true →
    Answers .checkpointBoundary s (fun t => (∃ c, t.recov.next = some c ∧ c.cyc = k ∧ c.grant = s.run.grant ∧
        c.tiles = (usedTiles s).map (saveTile s) ∧ c.record = s.run.record ∧
        c.banks = (runBanks s).map (fun b => (b, (savedBank s b false).getD []))) ∧
      t.recov.early = (if s.recov.early = some k then none else s.recov.early) ∧
      (∀ b ∈ runBanks s, bankOf t b = { bankOf s b with pend := (bankOf t b).pend, dirty := [] } ∧
        ∀ r, r < 4096 → Tbl.get false (bankOf t b).pend r =
          ((savedBank s b false).isNone || Tbl.get false (bankOf s b).dirty r)) ∧
      (∀ b, b ∉ runBanks s → bankOf t b = bankOf s b) ∧ Only [.recov, .banks] s t)) ∧
  (∀ s c, s.recov.next = some c → (∀ e ∈ s.banks, ∀ x ∈ e.2.pend, x.2 = false) → (∀ d, (dieOf s d).save = []) →
    (s.run.active = false ∨ c.cyc = 0 ∨ undelivered s (c.cyc - 1) = false) → Answers .checkpointComplete s (fun t =>
      t.recov.next = none ∧ (∃ d, t.recov.last = some d ∧ d.cyc = c.cyc ∧ d.banks = c.banks ∧ d.record = c.record) ∧
      t.recov.journal = s.recov.journal.filter (fun x =>
        decide (c.cyc < x.cyc) || (c.record.isNone && decide (c.cyc ≤ x.cyc))) ∧
      (∀ ch, ch < 8 → (chanOf t ch).selfRefresh = false ∧ (chanOf t ch).rankPd = 0) ∧
      (∀ a, a < ckptBase s ∨ ckptBase s + ckptLen s ≤ a → dramByte t a = dramByte s a) ∧ Only [.recov, .dram] s t)) ∧
  (∀ s v, s.run.active = true → v.getLsbD 1 = true → s.recov.active = true → Answers (.ckptNow v) s (fun t =>
    t.recov = { s.recov with early := some (maxBegun s + 1) } ∧
    (∀ p, tileOf t p = { tileOf s p with st := { (tileOf s p).st with ckShadow :=
      if (p ∈ runTiles s ∧ (tileOf s p).phase = .close 8 ∧ (tileOf s p).cycle = maxBegun s)
        then (tileOf s p).st.ds else (tileOf s p).st.ckShadow } }) ∧
    (getReg t (ro pGlb 0x428)).toNat = min 0xFFFFFFFF ((getReg s (ro pGlb 0x428)).toNat + 1) ∧
    OnlyRegs [ro pGlb 0x428] s t ∧ Only [.recov, .tiles, .regs, .scr] s t)) ∧
  (∀ s v, s.run.active = true → v.getLsbD 1 = true → s.recov.active = false → Answers (.ckptNow v) s (Only [] s)) ∧
  (∀ s v, s.run.active = true → v.getLsbD 1 = false → Answers (.ckptNow v) s (Refused pGlb s)) ∧
  (∀ s v, s.run.active = false → Answers (.ckptNow v) s (fun t =>
    getReg t recovCtl = (getReg s recovCtl &&& ~~~1) ||| (v &&& 1) ∧ OnlyRegs [recovCtl] s t ∧ Only [.regs, .scr] s t))

/-- The statements above together: a dead tile, rollback and checkpoints.
The model's own choices in it: log entries 49, 50, 98, 99, 117 and 119. -/
def Obligations.DeathRollbackAndCheckpoints : Prop := Obl.DeathAndRollback ∧ Obl.Checkpoints

/-- Chamois scrubs a region of the committed configuration, with the reference that stands for it. -/
abbrev Obl.scrubs (s : State) (r : Region) (src : List Byte) (ref : BitVec 32) : Prop :=
  s.scr.committed = true ∧ regBit s scrCtl 0 = true ∧ s.scr.halted = false ∧ r.exists s = true ∧ r.source s = some src ∧
  ref = Tbl.get 0 s.scr.refs r.key

/-- The three copies of the configuration state agree. -/
abbrev Obl.sameState (s : State) : Prop := s.cfg.stateB = s.cfg.state ∧ s.cfg.stateC = s.cfg.state

/-- R205, R429 to R433: a region that agrees with its reference stands; one in which a bit has flipped, so that it does not, is
rewritten from its source, counted and logged; a reference that disagrees with the source is replaced after the rewrite; at a
region's end three different copies of the sequencer's state halt Chamois, and one that differs changes nothing; COMMIT starts
a pass, and its end stores the reference of every region; a copy of a voted field, of the configuration state or of a bank's map
of spares that differs is outvoted, counted and logged, and three different copies take the first and log VOTE_LOST.
The model's own choices in it: log entries 22, 51, 100 and 118. -/
def Obligations.ScrubAndVote : Prop :=
  (∀ s st p k src ref, Obl.scrubs s ⟨st, p, k⟩ src ref → st ≠ 5 → crc32c (Region.bytes s ⟨st, p, k⟩) = ref →
    Answers (.scrubRegion st p k [] 0 []) s (fun t => Only [.scr] s t ∧
      ∀ x, Tbl.get 0 t.scr.refs x = Tbl.get 0 s.scr.refs x)) ∧
  (∀ s p k src ref, Obl.scrubs s ⟨5, p, k⟩ src ref → crc32c (Region.bytes s ⟨5, p, k⟩) = ref →
    Answers (.scrubRegion 5 p k [] 0 []) s (fun t => getReg t (ro pScr 0x0A0) = getReg s (ro pScr 0x0A0) + 1 ∧
      OnlyRegs [ro pScr 0x0A0] s t ∧ Only [.scr, .regs] s t)) ∧
  (∀ s s1 st p k ups src ref, Obl.scrubs s ⟨st, p, k⟩ src ref → s1 = ups.foldl (fun x u => Region.upset x ⟨st, p, k⟩ u) s →
    (st = 4 → s.rim.frames.length = s.rim.store.length) → crc32c (Region.bytes s1 ⟨st, p, k⟩) ≠ ref → crc32c src = ref →
    Obl.settled s → (Region.fetch s ⟨st, p, k⟩).2 = true → Answers (.scrubRegion st p k ups 0 []) s (fun t =>
      Region.bytes t ⟨st, p, k⟩ = src ∧ getReg t (ro pScr 0x094) = Region.last ⟨st, p, k⟩ ∧
      (getReg t (ro pScr 0x090)).toNat = min 0xFFFFFFFF ((getReg s (ro pScr 0x090)).toNat + 1) ∧
      t.evl.log.getLast? = some { time := s.tb, code := 0x0064, page := pScr, detail := Region.last ⟨st, p, k⟩ } ∧
      Obl.sameBytes s t ∧ Only [.tiles, .ports, .rim, .img, .scr, .regs, .dram, .evl] s t)) ∧
  (∀ s st p k src ref x, Obl.scrubs s ⟨st, p, k⟩ src ref → crc32c (Region.bytes s ⟨st, p, k⟩) ≠ ref ^^^ x →
    Region.bytes s ⟨st, p, k⟩ = src → Obl.settled s → (Region.fetch s ⟨st, p, k⟩).2 = true →
    Answers (.scrubRegion st p k [] x []) s (fun t => Region.bytes t ⟨st, p, k⟩ = src ∧
      (∀ x, Tbl.get 0 t.scr.refs x = if x = Region.key ⟨st, p, k⟩ then crc32c src else Tbl.get 0 s.scr.refs x) ∧
      (getReg t (ro pScr 0x090)).toNat = min 0xFFFFFFFF ((getReg s (ro pScr 0x090)).toNat + 1) ∧
      (getReg t (ro pScr 0x098)).toNat = min 0xFFFFFFFF ((getReg s (ro pScr 0x098)).toNat + 1) ∧
      t.evl.log.getLast? = some { time := s.tb, code := 0x0065, page := pScr, detail := Region.last ⟨st, p, k⟩ } ∧
      Obl.sameBytes s t ∧ Only [.tiles, .ports, .rim, .img, .scr, .regs, .dram, .evl] s t)) ∧
  (∀ s st p k src ref x y, Obl.scrubs s ⟨st, p, k⟩ src ref → crc32c (Region.bytes s ⟨st, p, k⟩) = ref → x ≠ 0 → y ≠ 0 →
    x ≠ y → Answers (.scrubRegion st p k [] 0 [(1, x), (2, y)]) s (fun t =>
      t.scr.halted = true ∧ t.scr.committed = false ∧ t.scr.commitBusy = false ∧
      t.evl.log.getLast? = some { time := s.tb, code := 0x0061, page := pScr, detail := 0 } ∧ Only [.scr, .regs, .evl] s t)) ∧
  (∀ s st p k ups u c x, c < 3 →
    exec (.scrubRegion st p k ups u [(c, x)]) s = exec (.scrubRegion st p k ups u []) s) ∧
  (∀ s v, v.getLsbD 1 = true → Answers (.commit v) s (fun t => regBit t scrCtl 0 = v.getLsbD 0 ∧
    t.scr.commitBusy = true ∧ t.scr.halted = false ∧ t.scr.committed = s.scr.committed ∧ OnlyRegs [scrCtl] s t ∧
    Only [.regs, .scr] s t)) ∧
  (∀ s, s.scr.commitBusy = true → s.scr.halted = false → (∀ r ∈ allRegions s, r.source s = some (r.bytes s)) →
    Obl.settled s → Answers .commitDone s (fun t => t.scr.committed = true ∧ t.scr.commitBusy = false ∧
      (∀ r ∈ allRegions s, Tbl.get 0 t.scr.refs r.key = crc32c (r.bytes s)) ∧ getReg t (ro pScr 0x0A0) = 0 ∧
      Obl.sameBytes s t ∧ Only [.regs, .scr, .dram, .evl] s t)) ∧
  (∀ s a c f x, c < 3 → voteFields a = [f] → fld x f.1 f.2 ≠ 0 → Obl.sameState s →
    (∀ d, d < 3 → fld (copyOf s a d) f.1 f.2 = fld (copyOf s a 0) f.1 f.2) →
    Answers (.voteSweep [⟨a, c, x⟩] []) s (fun t =>
      (∀ d, d < 3 → fld (copyOf t a d) f.1 f.2 = fld (copyOf s a 0) f.1 f.2) ∧
      (getReg t (ro pScr 0x09C)).toNat = min 0xFFFFFFFF ((getReg s (ro pScr 0x09C)).toNat + 1) ∧
      getReg t (ro pScr 0x0A4) = voteLast a false ∧
      t.evl.log.getLast? = some { time := s.tb, code := 0x0062, page := pScr, detail := voteLast a false } ∧
      Only [.regs, .scr, .evl] s t)) ∧
  (∀ s a f x y, voteFields a = [f] → fld x f.1 f.2 ≠ 0 → fld y f.1 f.2 ≠ 0 → fld x f.1 f.2 ≠ fld y f.1 f.2 →
    a / 4096 ≠ pScr → s.run.active = false → Obl.sameState s →
    (∀ d, d < 3 → fld (copyOf s a d) f.1 f.2 = fld (copyOf s a 0) f.1 f.2) →
    Answers (.voteSweep [⟨a, 1, x⟩, ⟨a, 2, y⟩] []) s (fun t =>
      (∀ d, d < 3 → fld (copyOf t a d) f.1 f.2 = fld (copyOf s a 0) f.1 f.2) ∧
      getReg t (ro pScr 0x0A4) = voteLast a true ∧
      t.evl.log.getLast? = some { time := s.tb, code := 0x0063, page := pGlb, detail := voteLast a true } ∧
      Only [.regs, .scr, .evl] s t)) ∧
  (∀ s c x, c < 3 → fld x 0 4 ≠ 0 → Obl.sameState s → Answers (.voteSweep [⟨cfgStat, c, x⟩] []) s (fun t =>
      (getReg t (ro pScr 0x09C)).toNat = min 0xFFFFFFFF ((getReg s (ro pScr 0x09C)).toNat + 1) ∧
      getReg t (ro pScr 0x0A4) = voteLast cfgStat false ∧
      t.evl.log.getLast? = some { time := s.tb, code := 0x0062, page := pScr, detail := voteLast cfgStat false } ∧
      Only [.regs, .scr, .evl] s t)) ∧
  (∀ s b c x, b < 128 → c < 3 → x ≠ 0 → Obl.sameState s →
    (bankOf s b).map0 = (bankOf s b).map1 → (bankOf s b).map1 = (bankOf s b).map2 →
    Answers (.voteSweep [] [⟨b, c, x⟩]) s (fun t => (∀ d, bankOf t d = bankOf s d) ∧
      (getReg t (ro pScr 0x09C)).toNat = min 0xFFFFFFFF ((getReg s (ro pScr 0x09C)).toNat + 1) ∧
      getReg t (ro pScr 0x0A4) = voteLast (ro (pBnk b) 0x09C) false ∧ Only [.regs, .scr, .evl] s t))

/-! ## Chital (15) -/

/-- R229, R445, R446, R448, R453 to R455: a flush pads and ends a stream's open line, which goes to the staging memory; the oldest
staged line goes to the ring at TRC_WP, not during a retrain, upset bits counting before it is read; an enable behind good checks
starts every stream with a SYNC, and a check that fails refuses it with its reason; a disable ends every open line; TRC_RP takes
its word; a write that sets STALL_ON_FULL in a paced run, or changes a class while trace is enabled, is refused; TRC_MARK writes a MARK packet into the hub's stream, or counts it as dropped where that is full and trace does not
stall. -/
def Obl.TraceStreams : Prop :=
  (∀ s k, k < 5 → (streamOf s k).opn ≠ [] → (streamOf s k).opn.length ≤ 8 → (streamOf s k).lines = [] →
    Answers (.traceLineFlush k) s (fun t =>
      streamOf t k = { streamOf s k with opn := [], staged := (streamOf s k).staged + 1 } ∧
      stagedLine t k ((streamOf s k).rd + (streamOf s k).staged) = (streamOf s k).opn ++
        List.replicate (8 - (streamOf s k).opn.length) (place 64 56 3 k) ∧
      (∀ j, j ≠ k → streamOf t j = streamOf s j) ∧ t.trc.order = s.trc.order ++ [k] ∧
      Only [.trc, .banks, .dies, .recov, .regs, .scr, .evl] s t)) ∧
  (∀ s k, 0 < (streamOf s k).staged → ringFull s = false → s.trc.order.head? = some k → retraining s = false →
    (∀ d, (dieOf s d).tt = none) → Obl.settled s → Answers (.traceStagingDrain k []) s (fun t =>
      Obl.dramIs s t (trcBase s + s.trc.wp % trcLen s) ((stagedLine s k (streamOf s k).rd).flatMap wordBytes) ∧
      streamOf t k = { streamOf s k with
        rd := ((streamOf s k).rd + 1) % stagingLines k, staged := (streamOf s k).staged - 1 } ∧
      (∀ j, j ≠ k → streamOf t j = streamOf s j) ∧ t.trc.wp = (s.trc.wp + 64) % trcLen s ∧
      t.trc.order = s.trc.order.drop 1 ∧ Only [.dram, .trc, .regs, .scr, .evl] s t)) ∧
  (∀ s k, retraining s = true → Answers (.traceStagingDrain k []) s (Only [] s)) ∧
  (∀ s k ups, exec (.traceStagingDrain k ups) s = exec (.traceStagingDrain k []) (ups.foldl bankUpset s)) ∧
  (∀ s v, regBit s trcCtl 0 = false → v.getLsbD 0 = true → pacedRun s = false → stageOk s = true →
    (v.getLsbD 1 = true ∨ (runAdmission (writeRW s trcCtl v) false false true none).2 = 0) →
    trcBase s + trcLen s ≤ capacity s → ringClash s = false → (∀ k, k < 5 → (streamOf s k).lines = []) →
    Answers (.trcEnable v) s (fun t =>
      getReg t trcCtl = (getReg s trcCtl &&& ~~~0x1FF01FF) ||| (v &&& 0x1FF01FF) ∧
      (v.getLsbD 1 = true → OnlyRegs [trcCtl] s t) ∧
      (∀ k, k < 5 → streamOf t k = { streamOf s k with
        bank := if k < 4 then regF s (ro pTrc 0x09C) (8 * k) 8 else 0, sync := some 2, count := 0, dropped := 0 }) ∧
      Only [.trc, .regs, .scr] s t)) ∧
  (∀ s v n, regBit s trcCtl 0 = false → v.getLsbD 0 = true → pacedRun s = false → stageOk s = true →
    (n = 2 ∧ capacity s < trcBase s + trcLen s ∨ n = 3 ∧ trcBase s + trcLen s ≤ capacity s ∧ ringClash s = true) →
    Answers (.trcEnable v) s (fun t => Stuck pTrc 1 s t ∧ regF t (ro pTrc 0x084) 8 4 = n ∧
      OnlyRegs [ro pTrc 0x084, ro pTrc 0x014, ro pTrc 0x024] s t ∧ Only [.regs, .scr] s t)) ∧
  (∀ s v, regBit s trcCtl 0 = false → v.getLsbD 0 = true → v.getLsbD 1 = false → pacedRun s = false → stageOk s = true →
    trcBase s + trcLen s ≤ capacity s → ringClash s = false →
    (runAdmission (writeRW s trcCtl v) false false true none).2 ≠ 0 → Answers (.trcEnable v) s (fun t =>
      Stuck pTrc 1 s t ∧ regF t (ro pTrc 0x084) 8 4 = 4 ∧ getReg t trcCtl = getReg s trcCtl ∧ Only [.regs, .scr] s t)) ∧
  (∀ s v, regBit s trcCtl 0 = false → v.getLsbD 0 = true → pacedRun s = false → stageOk s = false →
    Answers (.trcEnable v) s (fun t => Stuck pTrc 1 s t ∧ regF t (ro pTrc 0x084) 8 4 = 1 ∧
      OnlyRegs [ro pTrc 0x084, ro pTrc 0x014, ro pTrc 0x024] s t ∧ Only [.regs, .scr] s t)) ∧
  (∀ s v, regBit s trcCtl 0 = true → v.getLsbD 0 = false → pacedRun s = false →
    (v ^^^ getReg s trcCtl) &&& 0x1FF00FC = 0 → Answers (.trcEnable v) s (fun t => regBit t trcCtl 0 = false ∧
      (∀ k, k < 5 → (streamOf t k).opn = []) ∧ ((∀ d, (dieOf s d).tt = none) →
        (∀ b r, Tbl.get false (bankOf s b).pend r = false) → OnlyRegs [trcCtl] s t) ∧
      Only [.trc, .banks, .dies, .recov, .regs, .scr, .evl] s t)) ∧
  (∀ s v, regBit s trcCtl 0 = true → v.getLsbD 0 = true → pacedRun s = false → (v ^^^ getReg s trcCtl) &&& 0x1FF00FC ≠ 0 →
    Answers (.trcEnable v) s (fun t => Stuck pTrc 1 s t ∧
      getReg t trcCtl = (getReg s trcCtl &&& ~~~0x0000103) ||| (v &&& 0x0000103) ∧ Only [.regs, .scr] s t)) ∧
  (∀ s v, pacedRun s = true → v.getLsbD 1 = true → regBit s trcCtl 1 = false →
    Answers (.trcEnable v) s (Refused pTrc s)) ∧
  (∀ s v, Answers (.trcRpWrite v) s (fun t => getReg t (ro pTrc 0x098) &&& 0xFFFFFFC0 = v &&& 0xFFFFFFC0 ∧
    OnlyRegs [ro pTrc 0x098] s t ∧ Only [.regs, .scr] s t)) ∧
  (∀ s v x, regBit s trcCtl 0 = true → (streamFull s 4 = false ∨ regBit s trcCtl 1 = true) →
    x = (streamOf s 4).emit 4 0 (fun dt => dt.toNat / 256) s.tb (curCycle s) 0x0D v.toNat [] → Answers (.trcMark v) s (fun t =>
      streamOf t 4 = { x with lines := [], staged := x.staged + x.lines.length } ∧
      t.trc.order = s.trc.order ++ List.replicate x.lines.length 4 ∧
      (∀ j, j ≠ 4 → streamOf t j = streamOf s j) ∧ Only [.trc] s t)) ∧
  (∀ s v, regBit s trcCtl 0 = true → streamFull s 4 = true → regBit s trcCtl 1 = false → (streamOf s 4).lines = [] →
    Answers (.trcMark v) s (fun t => streamOf t 4 = { streamOf s 4 with dropped := (streamOf s 4).dropped + 1 } ∧
      (∀ j, j ≠ 4 → streamOf t j = streamOf s j) ∧
      (getReg t (ro pTrc 0x0A4)).toNat = min 0xFFFFFFFF ((getReg s (ro pTrc 0x0A4)).toNat + 1) ∧
      OnlyRegs [ro pTrc 0x0A4] s t ∧ Only [.trc, .regs, .scr] s t)) ∧
  (∀ s v, regBit s trcCtl 0 = false → Answers (.trcMark v) s (Only [] s))

/-- R459: NEW makes a nonce, a free value, for one attempt; the fourth word of a token that equals the expected one unlocks
the protected regions, any other counts, and after eight nothing is taken; LOCK locks. -/
def Obl.TraceUnlock : Prop :=
  (∀ s, Answers .authNew s (fun t => reg64 t (ro pTrc 0x0C8) (ro pTrc 0x0CC) = (Config.freeWord s.freeCount).toNat ∧
    t.trc = { s.trc with nonceOk := true, token := [] } ∧ OnlyRegs [ro pTrc 0x0C8, ro pTrc 0x0CC] s t ∧
    Only [.trc, .regs, .scr, .free] s t)) ∧
  (∀ s, Answers .authLock s (fun t => t.trc = { s.trc with unlocked := false } ∧ Only [.trc] s t)) ∧
  (∀ s v, s.trc.authFails < 8 → s.trc.token.length < 3 → Answers (.authToken v) s (fun t =>
    t.trc = { s.trc with token := s.trc.token ++ [v] } ∧ Only [.trc] s t)) ∧
  (∀ s v, s.trc.authFails < 8 → s.trc.token.length = 3 → s.trc.nonceOk = true → tokenKey s = true →
    (s.trc.token ++ [v]).flatMap (fun w => leBytes 4 w.toNat) = wantToken s → Answers (.authToken v) s (fun t =>
      t.trc = { s.trc with token := [], nonceOk := false, unlocked := true } ∧ Only [.trc] s t)) ∧
  (∀ s v, s.trc.authFails < 8 → s.trc.token.length = 3 → (s.trc.nonceOk = false ∨ tokenKey s = false ∨
      (s.trc.token ++ [v]).flatMap (fun w => leBytes 4 w.toNat) ≠ wantToken s) → Answers (.authToken v) s (fun t =>
      t.trc = { s.trc with token := [], nonceOk := false, authFails := s.trc.authFails + 1 } ∧ Only [.trc] s t)) ∧
  (∀ s v, 8 ≤ s.trc.authFails → Answers (.authToken v) s (Only [] s))

/-- The statements above together: trace streams and the unlock protocol.
The model's own choices in it: log entries 9, 63, 64 and 113. -/
def Obligations.TraceStreamsAndUnlock : Prop := Obl.TraceStreams ∧ Obl.TraceUnlock

/-! ## Power, limits, references and resets (17) -/

/-- Nothing stands against leaving RUN: no run, Markhor disarmed, no job at an executor, no retrain, no recalibration, no
transition under way, no thermal trip (R490, R494). -/
abbrev Obl.quiet (s : State) : Prop :=
  s.run.active = false ∧ s.run.holds = [] ∧ mkhArmed s = false ∧ (∀ j ∈ s.saiga.jobs, j.works = false) ∧
  retraining s = false ∧ (∀ n, n < 24 → (portOf s n).state ≠ 0xA) ∧ s.pwr.state = 0 ∧ s.pwr.entering = none ∧
  s.pwr.exiting = false ∧ s.hw.thermtrip = false

/-- Entry to state `k` has begun: PWR_REQ holds it, every port that is up is asked for electrical idle, and one that is being
brought up has entered it. -/
abbrev Obl.entering (s t : State) (k : Nat) : Prop :=
  t.pwr = { s.pwr with entering := some k, reason := 0 } ∧ regF t (ro pPwr 0x100) 0 2 = k ∧
  ∀ n, n < 24 → if (portOf s n).state = 0 ∨ 8 ≤ (portOf s n).state then (portOf t n).eidleReq = true
    else (portOf t n).drive = 0

/-- R152, R225, R226, R456, R487 to R494: a request for IDLE or DOZE begins the entry when nothing stands against it, and in a run
that is not held at GRANT it is refused with REASON RUN, for DOZE with DRAM that would lose what must be kept with REASON RETAIN;
D3hot asks for DOZE; the entry gates every STEPCLK, and DOZE adds retention, self-refresh with every byte of the large configuration
kept, and L1; a request for RUN wakes, or abandons an entry, also one to IDLE that waits for the exit from DOZE; the exit restores clocks, but
not without REFCLK, from DOZE the image's tiles and DRAM, and starts every stream with a SYNC; a thermal trip prevails.
The model's own choices in it: log entries 70 and 134. -/
def Obligations.PowerStates : Prop :=
  (∀ s, Obl.quiet s → Answers .pwrReqIdle s (fun t => Obl.entering s t 1 ∧
    Only [.pwr, .regs, .scr, .evl, .ports, .trc, .banks, .dies, .recov] s t)) ∧
  (∀ s, Obl.quiet s → retainOk s = true → Answers .pwrReqDoze s (fun t =>
    Obl.entering s t 2 ∧ Only [.pwr, .regs, .scr, .evl, .ports, .trc, .banks, .dies, .recov] s t)) ∧
  (∀ s, s.dram.lpddr = false → retainOk s = true) ∧
  (∀ s, Obl.quiet s → retainOk s = false → Answers .pwrReqDoze s (fun t => Stuck pPwr 2 s t ∧
    t.pwr = { s.pwr with reason := 4 } ∧ OnlyRegs [ro pPwr 0x100, ro pPwr 0x014, ro pPwr 0x024] s t ∧
    Only [.pwr, .regs, .scr] s t)) ∧
  (∀ s, Obl.quiet s → retainOk s = true → Answers .d3hotEntry s (fun t =>
    t.hw = { s.hw with d3hot := true } ∧ t.pwr = { s.pwr with entering := some 2, reason := 0 } ∧
    Only [.hw, .pwr, .regs, .scr, .evl, .ports, .trc, .banks, .dies, .recov] s t)) ∧
  (∀ s, s.run.active = true → runMode s ≠ 1 → s.pwr.state = 0 → s.hw.thermtrip = false → Answers .pwrReqIdle s (fun t =>
    Stuck pPwr 2 s t ∧ t.pwr = { s.pwr with reason := 1 } ∧ regF t (ro pPwr 0x100) 0 2 = 1 ∧
    OnlyRegs [ro pPwr 0x100, ro pPwr 0x014, ro pPwr 0x024] s t ∧ Only [.pwr, .regs, .scr] s t)) ∧
  (∀ s, s.pwr.entering = some 1 → nothingStaged s = true → (∀ n, n < 24 → (portOf s n).drive = 0) →
    Answers .powerEntryDone s (fun t => t.pwr = { s.pwr with entering := none, state := 1 } ∧
      (∀ d, d < 4 → stepClk t d = 0) ∧ OnlyRegs [clkReg 0, clkReg 1, clkReg 2, clkReg 3] s t ∧
      Only [.pwr, .regs, .scr, .dies, .ports] s t)) ∧
  (∀ s, s.pwr.entering = some 2 → nothingStaged s = true → (∀ n, n < 24 → (portOf s n).drive = 0) →
    Answers .powerEntryDone s (fun t => t.pwr = { s.pwr with entering := none, state := 2 } ∧
      (∀ d, d < 4 → stepClk t d = 0) ∧ (∀ p, p < 68 → tileOf t p = { tileOf s p with retention := true, mv := 450 }) ∧
      (∀ c, c < 8 → (chanOf t c).selfRefresh = true ∧ (chanOf t c).wbuf = []) ∧
      (s.dram.lpddr = false → (∀ ch, Obl.buffersApart s ch) → Obl.sameBytes s t) ∧ t.hw = { s.hw with l1 := true } ∧
      Only [.pwr, .regs, .scr, .evl, .dies, .tiles, .dram, .rim, .ports, .trc, .hw] s t)) ∧
  (∀ s, s.pwr.state = 0 → s.pwr.entering = none → s.pwr.thenIdle = false → Answers .pwrReqRun s (fun t => t.pwr = { s.pwr with reason := 0 } ∧
    regF t (ro pPwr 0x100) 0 2 = 0 ∧ OnlyRegs [ro pPwr 0x100] s t ∧ Only [.pwr, .regs, .scr] s t)) ∧
  (∀ s, s.pwr.state ≠ 0 → s.pwr.entering = none → s.pwr.thenIdle = false → s.hw.thermtrip = false →
    Answers .pwrReqRun s (fun t => t.pwr = { s.pwr with reason := 0, exiting := true } ∧ regF t (ro pPwr 0x100) 0 2 = 0 ∧
    OnlyRegs [ro pPwr 0x100] s t ∧ Only [.pwr, .regs, .scr] s t)) ∧
  (∀ s, s.pwr.state = 2 → s.pwr.entering = none → s.hw.thermtrip = false → Answers .pwrReqIdle s (fun t =>
    t.pwr = { s.pwr with exiting := true, thenIdle := true } ∧ regF t (ro pPwr 0x100) 0 2 = 1 ∧
    OnlyRegs [ro pPwr 0x100] s t ∧ Only [.pwr, .regs, .scr] s t)) ∧
  (∀ s, s.pwr.state ≠ 0 → s.pwr.entering = none → s.pwr.thenIdle = true → s.hw.thermtrip = false →
    Answers .pwrReqRun s (fun t => t.pwr = { s.pwr with reason := 5, exiting := true, thenIdle := false } ∧ Stuck pPwr 2 s t ∧
    regF t (ro pPwr 0x100) 0 2 = 0 ∧ Only [.pwr, .regs, .scr] s t)) ∧
  (∀ s, s.pwr.state ≠ 0 → s.pwr.entering = none → s.pwr.thenIdle = false → s.hw.thermtrip = false →
    Answers .d0Entry s (fun t => t.hw = { s.hw with d3hot := false } ∧
    t.pwr = { s.pwr with reason := 0, exiting := true } ∧ Only [.hw, .pwr] s t)) ∧
  (∀ s, s.pwr.entering.isSome = true → s.pwr.state = 0 → s.hw.thermtrip = false → Answers .pwrReqRun s (fun t =>
    t.pwr = { s.pwr with entering := none, thenIdle := false, reason := 5 } ∧ Stuck pPwr 2 s t ∧
    Only [.pwr, .regs, .scr, .ports] s t)) ∧
  (∀ s, s.hw.thermtrip = true → Answers .pwrReqDoze s (fun t => regF t (ro pPwr 0x100) 0 2 = 2 ∧
    OnlyRegs [ro pPwr 0x100] s t ∧ Only [.regs, .scr] s t) ∧ Answers .powerExitDone s (Only [] s)) ∧
  (∀ s, s.pwr.exiting = true → s.pwr.thenIdle = false → s.pwr.state = 2 → s.cfg.resValid = true → s.hw.thermtrip = false →
    (∀ k, k < 5 → (streamOf s k).lines = []) → Answers .powerExitDone s (fun t =>
      t.pwr = { s.pwr with state := 0, exiting := false } ∧
      (∀ p ∈ runTiles s, fenced s p = false → tileOf t p = { tileOf s p with retention := false, mv := opMv s p }) ∧
      (∀ p, p ∉ runTiles s → tileOf t p = tileOf s p) ∧ (∀ c, c < 8 → (chanOf t c).selfRefresh = false) ∧
      t.hw = { s.hw with l1 := false } ∧ t.rim = { s.rim with calibrated := true } ∧ Obl.sameBytes s t ∧
      (∀ k, k < 5 → (streamOf t k).sync = some 1) ∧
      Only [.pwr, .regs, .scr, .dies, .ports, .trc, .tiles, .dram, .hw, .rim] s t)) ∧
  (∀ s, s.pwr.exiting = true → s.pwr.thenIdle = false → s.pwr.state = 1 → s.hw.thermtrip = false →
    (∀ k, k < 5 → (streamOf s k).lines = []) → Answers .powerExitDone s (fun t =>
    t.pwr = { s.pwr with state := 0, exiting := false } ∧
    (∀ d f, d < 4 → (dieOf s d).pllTarget = some f → stepClk s d = 0 →
      stepClk t d = if s.hw.refLost = true then 0 else min f (clkCeil s d)) ∧
    (∀ d, d < 4 → ((dieOf s d).pllTarget = none ∨ stepClk s d ≠ 0) → stepClk t d = stepClk s d) ∧
    (∀ k, k < 5 → (streamOf t k).sync = some 1) ∧
    OnlyRegs [clkReg 0, clkReg 1, clkReg 2, clkReg 3] s t ∧ Only [.pwr, .regs, .scr, .dies, .ports, .trc] s t))

/-- Port `n` has lost its reference: it waits at SIGNAL, or it is DISABLED. -/
abbrev Obl.portLost (t : State) (n : Nat) : Prop := (portOf t n).state ≤ 1

/-- R487, R495, R496: a sensor at TJ_WARN makes the device hot with its sticky bit, cooling ends that; at 110 °C the regulators
go off, with RST_CAUSE 4, and every transition ends; a write of TJ_WARN at or below a reading makes it hot; without REFCLK every STEPCLK stands and every port is down, a LANE_REFCLK takes the ports it serves,
PCIE_REFCLK nothing else. -/
def Obligations.LimitsAndReferences : Prop :=
  (∀ s j x, j < 5 → 8 * (tjWarn s : Int) ≤ x.toInt → Answers (.thermWarn j x) s (fun t =>
    getReg t (tjReg j) = BitVec.ofNat 32 x.toNat ∧ t.pwr = { s.pwr with hot := true } ∧ Stuck pPwr 3 s t ∧
    OnlyRegs [tjReg j, ro pPwr 0x014, ro pPwr 0x024] s t ∧ Only [.pwr, .regs, .scr] s t)) ∧
  (∀ s j x, j < 5 → x.toInt < 8 * (tjWarn s : Int) → Answers (.thermWarn j x) s (fun t =>
    getReg t (tjReg j) = BitVec.ofNat 32 x.toNat ∧ OnlyRegs [tjReg j] s t ∧ Only [.regs, .scr] s t)) ∧
  (∀ s, (∀ j, j < 5 → tjNow s j < 8 * ((tjWarn s : Int) - 5)) → Answers .thermalRestore s (fun t =>
    t.pwr = { s.pwr with hot := false } ∧ Only [.pwr] s t)) ∧
  (∀ s j x, j < 5 → 880 ≤ x.toInt → s.hw.thermtrip = false → Answers (.thermtrip j x) s (fun t =>
    t.hw = { s.hw with thermtrip := true, regulators := false, pwrgd := false } ∧ getReg t rstCause = 4 ∧
    getReg t (tjReg j) = BitVec.ofNat 32 x.toNat ∧ (∀ n, n < 24 → (portOf t n).drive = 0) ∧
    t.pwr = { s.pwr with entering := none, exiting := false, thenIdle := false,
                         hot := s.pwr.hot || decide (8 * (tjWarn s : Int) ≤ x.toInt) })) ∧
  (∀ s v j, endpointUp s = true → j < 5 → 8 * ((clampTo 60 100 (fld v 0 8)).toNat : Int) ≤ tjNow s j →
    Answers (.registerWrite (ro pPwr 0x140) 4 v) s (fun t => tjWarn t = (clampTo 60 100 (fld v 0 8)).toNat ∧
      t.pwr = { s.pwr with hot := true } ∧ Stuck pPwr 3 s t ∧
      OnlyRegs [ro pPwr 0x140, ro pPwr 0x014, ro pPwr 0x024] s t ∧ Only [.pwr, .regs, .scr] s t)) ∧
  (∀ s, s.hw.refLost = false → Answers .refLoss s (fun t => t.hw = { s.hw with refclk := false, refLost := true } ∧
    (∀ d, d < 4 → stepClk t d = 0) ∧ ∀ n, n < 24 → Obl.portLost t n)) ∧
  (∀ s k, k < 4 → s.hw.laneRef.getLsbD k = true → s.run.active = false → s.run.holds = [] → Answers (.laneRefclkLoss k) s (fun t =>
    t.hw = { s.hw with laneRef := s.hw.laneRef &&& ~~~(place 4 k 1 1) } ∧
    (∀ n, n < 24 → refOf n = k → Obl.portLost t n) ∧ (∀ n, refOf n ≠ k → portOf t n = portOf s n) ∧
    Only [.hw, .ports, .regs, .scr, .evl] s t)) ∧
  (∀ s k, k < 4 → Answers (.laneRefclkReturn k) s (fun t =>
    t.hw = { s.hw with laneRef := s.hw.laneRef ||| place 4 k 1 1 } ∧ Only [.hw] s t)) ∧
  (∀ s, Answers .pcieRefclkLoss s (fun t => t.hw = { s.hw with pcieRef := false } ∧ Only [.hw] s t))

/-- What every reset leaves: registers at their reset values but RST_CAUSE, nothing in flight, the fuses, the boot store and the
VBAT domain as they were, as what stands outside the device (R498). -/
abbrev Obl.fresh (s t : State) (cause : Nat) : Prop :=
  getReg t rstCause = BitVec.ofNat 32 cause ∧ (∀ a, a ≠ rstCause → getReg t a = resetOf a) ∧ t.run = Run.reset ∧
  (∀ p, tileOf t p = Tile.reset) ∧ t.saiga.jobs = [] ∧ t.mkh = Mkh.reset ∧ t.evl = { log := [], last := none } ∧
  t.cfg = { Cfg.reset with staged := s.cfg.staged } ∧ (s.cfg.staged = false → t.rim = Rim.reset) ∧ t.hw.store = s.hw.store ∧
  t.hw.vio = s.hw.vio ∧ t.hw.trst = s.hw.trst ∧ t.hw.laneRef = s.hw.laneRef ∧ t.hw.pcieRef = s.hw.pcieRef ∧
  t.keys.fuseKey = s.keys.fuseKey ∧
  t.keys.fuseSet = s.keys.fuseSet ∧ t.keys.bbKey = s.keys.bbKey ∧ t.keys.bbSet = s.keys.bbSet ∧ t.pending = s.pending

/-- R212, R344, R482, R498 to R500: PORST_N resets everything with RST_CAUSE 1 and the timebase at 0; SYSRST_N and RST_CTL keep the
timebase, and DRAM in self-refresh with every accepted write; PERST_N resets the PCI page and begins a Function Level Reset; of resets that overlap the wider prevails; release
samples the straps, and start-up goes on to the loader's WAIT_SRC. -/
def Obl.Resets : Prop :=
  (∀ s, Answers .porstN s (fun t => Obl.fresh s t 1 ∧ t.tb = 0 ∧ t.hw.boot = .held ∧ t.hw.pwrgd = false)) ∧
  (∀ s, s.hw.thermtrip = false → s.hw.porst = false → (∀ ch, Obl.buffersApart s ch) → Answers .sysrstN s (fun t =>
    Obl.fresh s t 2 ∧ t.tb = s.tb ∧ t.hw.boot = .held ∧ t.hw.pwrgd = s.hw.pwrgd ∧ Obl.sameBytes s t ∧
    ∀ c, c < 8 → (chanOf t c).selfRefresh = true)) ∧
  (∀ s v, s.hw.thermtrip = false → fld v 16 16 = 0x5A5A → v.getLsbD 0 = true → s.hw.boot ≠ .held → s.tap.scanned = false →
    (∀ ch, Obl.buffersApart s ch) → Answers (.rstCtlSoft v) s (fun t => Obl.fresh s t 3 ∧ t.tb = s.tb ∧
      t.hw.boot = (if s.hw.boot = .released then .released else .locked) ∧ t.hw.straps = s.hw.straps ∧ Obl.sameBytes s t)) ∧
  (∀ s v, s.hw.thermtrip = false → fld v 16 16 = 0x5A5A → v.getLsbD 0 = true → s.hw.boot ≠ .held → s.tap.scanned = true →
    Answers (.rstCtlSoft v) s (fun t => getReg t rstCause = 3 ∧ t.cfg.state = s.cfg.state ∧ t.hw.boot = s.hw.boot ∧
      t.tap.scanned = true)) ∧
  (∀ s v, s.hw.thermtrip = true → Answers .sysrstN s (Only [] s) ∧ Answers (.rstCtlSoft v) s (Only [] s)) ∧
  (∀ s, s.hw.porst = true → Answers .sysrstN s (Only [] s)) ∧
  (∀ s v, s.hw.boot = .held → Answers (.rstCtlSoft v) s (Only [] s)) ∧
  (∀ s v, (fld v 16 16 ≠ 0x5A5A ∨ v.getLsbD 0 = false) → Answers (.rstCtlSoft v) s (Only [] s)) ∧
  (∀ s, Answers .perstN s (fun t => (∀ a, a / 4096 = pPci → getReg t a = resetOf a) ∧ t.saiga.flr = true ∧
    (∃ a, t.saiga.abort = some a ∧ a.target = 3) ∧ (mkhArmed s = true → t.mkh.state = 0))) ∧
  (∀ s, s.saiga.jobs = [] → s.run.active = false → Answers .perstN s (fun t => t.saiga.jobs = [] ∧
    Only [.saiga, .regs, .scr, .mkh, .rim, .trc] s t)) ∧
  (∀ s pins, s.hw.boot = .held → Answers (.resetRelease pins) s (fun t =>
    t.hw = { s.hw with straps := pins, porst := false, boot := if s.hw.pwrgd = true then .locked else .released } ∧
    t.tb = (if s.hw.porst = true then 0 else s.tb) ∧ Only [.hw, .tb, .regs, .scr] s t ∧ OnlyRegs [rstCause] s t)) ∧
  (∀ s pins, s.hw.boot ≠ .held → Answers (.resetRelease pins) s (Only [] s)) ∧
  (∀ s, s.hw.boot = .released → s.hw.regulators = true → Answers .startupPllLock s (fun t =>
    t.hw = { s.hw with boot := .locked, pwrgd := true } ∧ Only [.hw] s t)) ∧
  (∀ s, s.hw.boot = .locked → s.cfg.state = 0 → s.tap.scanned = false → Answers .loaderWaitSrc s (fun t =>
    t.hw = { s.hw with boot := .up } ∧ t.cfg = s.cfg.goTo 1 ∧ Only [.hw, .cfg] s t)) ∧
  (∀ s, s.tap.scanned = true → Answers .loaderWaitSrc s (Only [] s))

/-! ## The test access port (18) -/

/-- EXTEST, HIGHZ or CLAMP came into force: the loader stops where it is, and DRAM contents are lost. -/
abbrev Obl.scan (s t : State) (tap : Tap) : Prop :=
  t.tap = tap ∧ t.dram = s.dram.lose 0 (2 ^ 41) ∧ Only [.tap, .dram] s t

/-- R23, R517, R518: each instruction stands in the instruction register, IDCODE with the identity in its register and BYPASS
with a 0 in its; EXTEST and SAMPLE/PRELOAD capture the pins; EXTEST, HIGHZ and CLAMP end DRAM retention and hold the loader, and
decode as BYPASS while the loader is in START or READY; TRST_N low keeps the port in reset. -/
def Obl.TestPort : Prop :=
  (∀ s pins cells, s.cfg.state ≠ 5 → s.cfg.state ≠ 6 → s.hw.trst = false → Answers (.extest pins cells) s (fun t =>
    Obl.scan s t { s.tap with ir := 0x00, capture := pins, cells := cells, scanned := true })) ∧
  (∀ s, s.cfg.state ≠ 5 → s.cfg.state ≠ 6 → s.hw.trst = false → Answers .highz s (fun t =>
    Obl.scan s t { s.tap with ir := 0x03, bypass := false, scanned := true })) ∧
  (∀ s, s.cfg.state ≠ 5 → s.cfg.state ≠ 6 → s.hw.trst = false → Answers .clamp s (fun t =>
    Obl.scan s t { s.tap with ir := 0x04, bypass := false, scanned := true })) ∧
  (∀ s pins cells, (s.cfg.state = 5 ∨ s.cfg.state = 6) → s.hw.trst = false →
    Answers (.extest pins cells) s (fun t => t.tap = { s.tap with ir := 0xFF, bypass := false } ∧ Only [.tap] s t) ∧
    Answers .highz s (fun t => t.tap = { s.tap with ir := 0xFF, bypass := false } ∧ Only [.tap] s t) ∧
    Answers .clamp s (fun t => t.tap = { s.tap with ir := 0xFF, bypass := false } ∧ Only [.tap] s t)) ∧
  (∀ s pins cells, s.hw.trst = false → Answers (.samplePreload pins cells) s (fun t =>
    t.tap = { s.tap with ir := 0x01, capture := pins, cells := cells } ∧ Only [.tap] s t)) ∧
  (∀ s, Answers .idcode s (fun t => t.tap = { s.tap with ir := 0x02, idcode := identity s } ∧ Only [.tap] s t)) ∧
  (∀ s, s.hw.stepping = .a0 → identity s = 0x064165A7) ∧ (∀ s, s.hw.stepping = .b0 → identity s = 0x164165A7) ∧
  (∀ s, s.hw.trst = false → Answers .bypass s (fun t =>
    t.tap = { s.tap with ir := 0xFF, bypass := false } ∧ Only [.tap] s t)) ∧
  (∀ s, Answers .testLogicReset s (fun t => t.tap = { s.tap with ir := 0x02, idcode := identity s } ∧ Only [.tap] s t)) ∧
  (∀ s pins cells c, s.hw.trst = true → (c = .extest pins cells ∨ c = .highz ∨ c = .clamp ∨ c = .bypass ∨
    c = .samplePreload pins cells) → Answers c s (fun t =>
    t.tap = { s.tap with ir := 0x02, idcode := identity s } ∧ Only [.tap] s t))

/-- The statements above together: resets and the test port.
The model's own choices in it: log entries 60, 68, 69, 131 and 136. -/
def Obligations.ResetsAndTestPort : Prop := Obl.Resets ∧ Obl.TestPort

/-! ## Whole rules, and the machine as a whole -/

/-- R315: a read of TB_LO answers the low half of the timebase and latches the high half into TB_HI, where the next read finds
it; software writes neither; both are 0 at reset. -/
def Obligations.TimebaseReadLatchesTheHighHalf : Prop :=
  (∀ s, endpointUp s = true → Answers (.tbLo false) s (fun t => Obl.reads [.regs, .scr] s t (BitVec.ofNat 64 (s.tb.toNat % 2 ^ 32)) ∧
    getReg t (ro pTim 0x084) = BitVec.ofNat 32 (s.tb.toNat / 2 ^ 32) ∧ OnlyRegs [ro pTim 0x084] s t ∧
    Answers (.rcRead (ro pTim 0x084) 4) t (fun u => Obl.reads [] t u (BitVec.ofNat 64 (s.tb.toNat / 2 ^ 32))))) ∧
  (∀ s o v, o = 0x080 ∨ o = 0x084 → Answers (.registerWrite (ro pTim o) 4 v) s (Only [] s)) ∧
  State.reset.tb = 0 ∧ getReg State.reset (ro pTim 0x084) = 0

/-- R215: within its limits WM takes the written watermarks, and the next drain decision uses them: a buffer below HIGH stays,
one at HIGH or above drains to LOW; outside the limits the write is discarded. -/
def Obligations.WatermarksWithinTheirLimits : Prop :=
  (∀ s v, 8 ≤ fld v 0 6 → fld v 8 6 + 8 ≤ fld v 0 6 → Answers (.wmWrite v) s (fun t =>
    regF t (ddrCommon 0x08C) 0 6 = fld v 0 6 ∧ regF t (ddrCommon 0x08C) 8 6 = fld v 8 6 ∧
    OnlyRegs [ddrCommon 0x08C] s t ∧ Only [.regs, .scr] s t ∧
    (∀ ch es, (chanOf t ch).wbuf.length < fld v 0 6 → es = [] → Answers (.writeDrain ch false es) t (Only [] t)) ∧
    (∀ ch es, fld v 0 6 ≤ (chanOf t ch).wbuf.length → (∀ r ∈ (chanOf t ch).readQ ++ (chanOf t ch).wbuf, r.aged = false) →
      Answers (.writeDrain ch false es) t (fun u => (chanOf u ch).wbuf.length = fld v 8 6)))) ∧
  (∀ s v, (fld v 0 6 < 8 ∨ fld v 0 6 < fld v 8 6 + 8) → Answers (.wmWrite v) s (Refused (pDdr 8) s))

/-- R268: a write of word 0 of a pin is refused; a write of DELAY sets the pin's target in every rim state, and its tap at
once unless the rim is RUNNING. -/
def Obligations.PinWordsTakeOnlyTheDelay : Prop :=
  (∀ s pin v, pin < 192 → regBit s (ro pRim 0x048) 0 = true → getReg s (ro pRim 0x040) = BitVec.ofNat 32 (16 * pin) →
    Answers (.indDataWrite pRim v) s (Refused pRim s)) ∧
  (∀ s pin v, pin < 192 → regBit s (ro pRim 0x048) 0 = true → getReg s (ro pRim 0x040) = BitVec.ofNat 32 (16 * pin + 4) →
    Answers (.indDataWrite pRim v) s (fun t => (delayOf t pin).target = fld v 0 10 ∧
      (delayOf t pin).tap = (if s.rim.state = .running then (delayOf s pin).tap else fld v 0 10) ∧
      (∀ k, k ≠ pin → delayOf t k = delayOf s k) ∧ t.rim = { s.rim with delay := t.rim.delay } ∧ Only [.rim] s t)) ∧
  (∀ s pin v, pin < 192 → Answers (.delayWrite pin v) s (fun t => (delayOf t pin).target = fld v 0 10 ∧
    (delayOf t pin).tap = (if s.rim.state = .running then (delayOf s pin).tap else fld v 0 10) ∧
    (∀ k, k ≠ pin → delayOf t k = delayOf s k) ∧ t.rim = { s.rim with delay := t.rim.delay } ∧ Only [.rim] s t))

/-- R351: a CQ doorbell write of an enabled queue sets CQ_HEAD; a value that goes backwards or beyond the released
completions is discarded, sets CQ_HEAD_BAD and logs it; a read answers CQ_HEAD and changes nothing.  (A queue that is not
enabled takes no doorbell: it sets DISABLED.) -/
def Obligations.CompletionDoorbell : Prop :=
  (∀ s q v, q < 8 → sqEn s q = true → (fld v 0 16 + 65536 - (queueOf s q).cqHead) % 65536 ≤
      ((queueOf s q).cqTail + 65536 - (queueOf s q).cqHead) % 65536 → Answers (.cqDoorbell q v) s (fun t =>
    Obl.queueIs s t q { queueOf s q with cqHead := fld v 0 16 } s.saiga.jobs ∧ Only [.saiga] s t)) ∧
  (∀ s q v, q < 8 → sqEn s q = true → ((queueOf s q).cqTail + 65536 - (queueOf s q).cqHead) % 65536 <
      (fld v 0 16 + 65536 - (queueOf s q).cqHead) % 65536 → Answers (.cqDoorbell q v) s (fun t =>
    getReg t (sqReg q 0x24) = getReg s (sqReg q 0x24) ||| 4 ∧
    t.evl.log.getLast? = some
      { time := s.tb, code := 0x0082, page := pJob, detail := place 32 0 3 q ||| place 32 16 16 (fld v 0 16) } ∧
    OnlyRegs [sqReg q 0x24, ro pJob 0x030, ro pEvl 0x094, ro pEvl 0x098] s t ∧ Only [.regs, .scr, .evl] s t)) ∧
  (∀ s q v, q < 8 → sqEn s q = false → Answers (.cqDoorbell q v) s (fun t =>
    getReg t (sqReg q 0x24) = getReg s (sqReg q 0x24) ||| 8 ∧ OnlyRegs [sqReg q 0x24] s t ∧ Only [.regs, .scr] s t)) ∧
  (∀ s q, endpointUp s = true → q < 8 → Answers (.rcRead (bar4 + 0x1000 * q + 4) 4) s (fun t =>
    Obl.reads [] s t (BitVec.ofNat 64 ((queueOf s q).cqHead % 2 ^ 16))))

/-- A step runs the command at the front of the queue on the rest of the queue.  On an empty queue a device out of reset,
with its reference, spends one HUBCLK period, 256 counts of the timebase: the flags set in it are old at its end, jobs in contexts
may become ready, the rim's clocks may run, and with none of these nothing else changes (the model's choice, assumptions 16, 95
and 111).
The model's own choices in it: log entries 16, 95 and 111. -/
def Obligations.StepRunsTheFrontCommand : Prop :=
  (∀ c s rest, s.pending = c :: rest → step s = exec c { s with pending := rest }) ∧
  (∀ s, s.pending = [] → s.hw.refLost = false → s.hw.boot = .up → rimClks s = 0 → s.saiga.fresh = [] →
    (∀ j ∈ s.saiga.jobs, j.phase ≠ .inContext) → step s = .next { s with tb := s.tb + 256 }) ∧
  (∀ s, s.pending = [] → s.hw.refLost = false → s.hw.boot = .up → ∃ t, step s = .next t ∧ t.tb = s.tb + 256 ∧
    t.saiga.fresh = [] ∧ (s.rim.want = none → t.trc = s.trc ∧ ∀ a, getReg t a = getReg s a) ∧
    Only [.tb, .rim, .free, .saiga, .trc, .regs, .scr] s t)

/-- R375: in every state that meets it, a step that answers a next state leaves the interrupt vectors settled: the conditions
taken are those that hold, and a pending vector is a masked one. -/
def Obligations.StepsKeepTheVectorsSettled : Prop := ∀ s t : State, s.Settled → step s = .next t → t.Settled

/-- Right after reset the vectors are settled, the memories are in canonical form, nothing waits, the timebase is 0 (R313),
and the DRAM reservations, watermarks and idle times hold the values of R235 and R236.
The model's own choices in it: log entries 4, 5 and 81. -/
def Obligations.ResetState : Prop :=
  State.reset.Settled ∧ Memory.wf State.reset = true ∧ State.reset.pending = [] ∧ State.reset.tb = 0 ∧
  getReg State.reset (ddrCommon 0x080) = 0x55050A00 ∧ getReg State.reset (ddrCommon 0x08C) = 0x1030 ∧
  getReg State.reset (ddrCommon 0x094) = 50 ∧ getReg State.reset (ddrCommon 0x098) = 200 ∧
  getReg State.reset (ddrCommon 0x09C) = 0x1804

end Statements
end

