-- ==== Sys2Proof/Laws/Tbl.lean ====
section
/-!
SUPPORT. The laws of sparse tables: a read after a write, and the canonical form kept by every write.
-/
namespace Sys2Proof.Machine

variable {α : Type}

theorem Tbl.get_put_same (d v : α) (t : Tbl α) (k : Nat) : Tbl.get d (Tbl.put k v t) k = v := by
  induction t with
  | nil => simp [Tbl.put, Tbl.get]
  | cons e t ih =>
    obtain ⟨k', v'⟩ := e
    simp only [Tbl.put]
    split
    · simp [Tbl.get]
    · split
      · simp [Tbl.get]
      · simp [Tbl.get, *]

theorem Tbl.get_put_ne (d v : α) (t : Tbl α) {k j : Nat} (h : j ≠ k) :
    Tbl.get d (Tbl.put k v t) j = Tbl.get d t j := by
  induction t with
  | nil => simp [Tbl.put, Tbl.get, h]
  | cons e t ih =>
    obtain ⟨k', v'⟩ := e
    simp only [Tbl.put]
    split
    · simp [Tbl.get, h]
    · split
      · subst_vars; simp [Tbl.get, h]
      · simp [Tbl.get, ih]

theorem Tbl.get_del_same (d : α) (t : Tbl α) (k : Nat) : Tbl.get d (Tbl.del k t) k = d := by
  induction t with
  | nil => rfl
  | cons e t ih =>
    obtain ⟨k', v'⟩ := e
    simp only [Tbl.del]
    split
    · exact ih
    · simp [Tbl.get, *]

theorem Tbl.get_del_ne (d : α) (t : Tbl α) {k j : Nat} (h : j ≠ k) : Tbl.get d (Tbl.del k t) j = Tbl.get d t j := by
  induction t with
  | nil => rfl
  | cons e t ih =>
    obtain ⟨k', v'⟩ := e
    simp only [Tbl.del]
    split
    · subst_vars; simp [Tbl.get, h, ih]
    · simp [Tbl.get, ih]

@[simp] theorem Tbl.get_set_same [DecidableEq α] (d v : α) (t : Tbl α) (k : Nat) : Tbl.get d (Tbl.set d t k v) k = v := by
  unfold Tbl.set
  split
  · rw [Tbl.get_del_same]; exact Eq.symm ‹_›
  · exact Tbl.get_put_same d v t k

theorem Tbl.get_set_ne [DecidableEq α] (d v : α) (t : Tbl α) {k j : Nat} (h : j ≠ k) :
    Tbl.get d (Tbl.set d t k v) j = Tbl.get d t j := by
  unfold Tbl.set
  split
  · exact Tbl.get_del_ne d t h
  · exact Tbl.get_put_ne d v t h

/-- Reading any key after a write. -/
theorem Tbl.get_set [DecidableEq α] (d v : α) (t : Tbl α) (k j : Nat) :
    Tbl.get d (Tbl.set d t k v) j = if j = k then v else Tbl.get d t j := by
  split
  · subst_vars; exact Tbl.get_set_same d v t _
  · exact Tbl.get_set_ne d v t ‹_›

/-! ### The canonical form -/

theorem Tbl.wfFrom_le [DecidableEq α] (d : Nat → α) {lo lo' : Nat} (t : Tbl α) (hl : lo' ≤ lo)
    (h : Tbl.wfFrom d lo t = true) : Tbl.wfFrom d lo' t = true := by
  cases t with
  | nil => rfl
  | cons e t =>
    obtain ⟨k, v⟩ := e
    simp only [Tbl.wfFrom, Bool.and_eq_true, decide_eq_true_eq] at h ⊢
    exact ⟨⟨Nat.le_trans hl h.1.1, h.1.2⟩, h.2⟩

theorem Tbl.wfFrom_put [DecidableEq α] (d : Nat → α) {lo k : Nat} {v : α} (t : Tbl α) (hk : lo ≤ k) (hv : v ≠ d k)
    (h : Tbl.wfFrom d lo t = true) : Tbl.wfFrom d lo (Tbl.put k v t) = true := by
  induction t generalizing lo with
  | nil => simp [Tbl.put, Tbl.wfFrom, hk, hv]
  | cons e t ih =>
    obtain ⟨k', v'⟩ := e
    simp only [Tbl.wfFrom, Bool.and_eq_true, decide_eq_true_eq] at h
    simp only [Tbl.put]
    split
    · simp only [Tbl.wfFrom, Bool.and_eq_true, decide_eq_true_eq]
      exact ⟨⟨hk, hv⟩, ⟨by omega, h.1.2⟩, h.2⟩
    · split
      · subst_vars
        simp only [Tbl.wfFrom, Bool.and_eq_true, decide_eq_true_eq]
        exact ⟨⟨hk, hv⟩, h.2⟩
      · simp only [Tbl.wfFrom, Bool.and_eq_true, decide_eq_true_eq]
        exact ⟨h.1, ih (by omega) h.2⟩

theorem Tbl.wfFrom_del [DecidableEq α] (d : Nat → α) {lo : Nat} (k : Nat) (t : Tbl α)
    (h : Tbl.wfFrom d lo t = true) : Tbl.wfFrom d lo (Tbl.del k t) = true := by
  induction t generalizing lo with
  | nil => rfl
  | cons e t ih =>
    obtain ⟨k', v'⟩ := e
    simp only [Tbl.wfFrom, Bool.and_eq_true, decide_eq_true_eq] at h
    simp only [Tbl.del]
    split
    · exact Tbl.wfFrom_le d _ (by omega : lo ≤ k' + 1) (ih h.2)
    · simp only [Tbl.wfFrom, Bool.and_eq_true, decide_eq_true_eq]
      exact ⟨h.1, ih h.2⟩

/-- A write keeps the canonical form. -/
theorem Tbl.wf_set [DecidableEq α] (d : Nat → α) (t : Tbl α) (k : Nat) (v : α) (h : Tbl.wf d t = true) :
    Tbl.wf d (Tbl.set (d k) t k v) = true := by
  unfold Tbl.set
  split
  · exact Tbl.wfFrom_del d k t h
  · exact Tbl.wfFrom_put d t (Nat.zero_le k) ‹_› h

theorem Tbl.wf_nil [DecidableEq α] (d : Nat → α) : Tbl.wf d ([] : Tbl α) = true := rfl

end Sys2Proof.Machine
end

