-- ==== Sys2Proof/Laws/State.lean ====
section
/-!
SUPPORT. What each named update of the state leaves alone, field by field and place by place, and what it puts where it
writes.  A proof cites these and never unfolds a record update.
-/
namespace Sys2Proof.Machine

variable (s : State)

/-! ### `setReg` -/

@[simp] theorem setReg_hw (a : Nat) (v : Reg) : (setReg s a v).hw = s.hw := rfl
@[simp] theorem setReg_hold (a : Nat) (v : Reg) : (setReg s a v).hold = s.hold := rfl
@[simp] theorem setReg_bus (a : Nat) (v : Reg) : (setReg s a v).bus = s.bus := rfl
@[simp] theorem setReg_tb (a : Nat) (v : Reg) : (setReg s a v).tb = s.tb := rfl
@[simp] theorem setReg_tiles (a : Nat) (v : Reg) : (setReg s a v).tiles = s.tiles := rfl
@[simp] theorem setReg_dies (a : Nat) (v : Reg) : (setReg s a v).dies = s.dies := rfl
@[simp] theorem setReg_ex (a : Nat) (v : Reg) : (setReg s a v).ex = s.ex := rfl
@[simp] theorem setReg_run (a : Nat) (v : Reg) : (setReg s a v).run = s.run := rfl
@[simp] theorem setReg_img (a : Nat) (v : Reg) : (setReg s a v).img = s.img := rfl
@[simp] theorem setReg_banks (a : Nat) (v : Reg) : (setReg s a v).banks = s.banks := rfl
@[simp] theorem setReg_dram (a : Nat) (v : Reg) : (setReg s a v).dram = s.dram := rfl
@[simp] theorem setReg_aq (a : Nat) (v : Reg) : (setReg s a v).aq = s.aq := rfl
@[simp] theorem setReg_rim (a : Nat) (v : Reg) : (setReg s a v).rim = s.rim := rfl
@[simp] theorem setReg_ports (a : Nat) (v : Reg) : (setReg s a v).ports = s.ports := rfl
@[simp] theorem setReg_mkh (a : Nat) (v : Reg) : (setReg s a v).mkh = s.mkh := rfl
@[simp] theorem setReg_saiga (a : Nat) (v : Reg) : (setReg s a v).saiga = s.saiga := rfl
@[simp] theorem setReg_msg (a : Nat) (v : Reg) : (setReg s a v).msg = s.msg := rfl
@[simp] theorem setReg_evl (a : Nat) (v : Reg) : (setReg s a v).evl = s.evl := rfl
@[simp] theorem setReg_cfg (a : Nat) (v : Reg) : (setReg s a v).cfg = s.cfg := rfl
@[simp] theorem setReg_keys (a : Nat) (v : Reg) : (setReg s a v).keys = s.keys := rfl
@[simp] theorem setReg_recov (a : Nat) (v : Reg) : (setReg s a v).recov = s.recov := rfl
@[simp] theorem setReg_trc (a : Nat) (v : Reg) : (setReg s a v).trc = s.trc := rfl
@[simp] theorem setReg_pwr (a : Nat) (v : Reg) : (setReg s a v).pwr = s.pwr := rfl
@[simp] theorem setReg_tap (a : Nat) (v : Reg) : (setReg s a v).tap = s.tap := rfl
@[simp] theorem setReg_host (a : Nat) (v : Reg) : (setReg s a v).host = s.host := rfl
@[simp] theorem setReg_freeCount (a : Nat) (v : Reg) : (setReg s a v).freeCount = s.freeCount := rfl
@[simp] theorem setReg_pending (a : Nat) (v : Reg) : (setReg s a v).pending = s.pending := rfl
@[simp] theorem tileOf_setReg (a : Nat) (v : Reg) (j : Nat) : tileOf (setReg s a v) j = tileOf s j := rfl
@[simp] theorem dieOf_setReg (a : Nat) (v : Reg) (j : Nat) : dieOf (setReg s a v) j = dieOf s j := rfl
@[simp] theorem bankOf_setReg (a : Nat) (v : Reg) (j : Nat) : bankOf (setReg s a v) j = bankOf s j := rfl
@[simp] theorem chanOf_setReg (a : Nat) (v : Reg) (j : Nat) : chanOf (setReg s a v) j = chanOf s j := rfl
@[simp] theorem portOf_setReg (a : Nat) (v : Reg) (j : Nat) : portOf (setReg s a v) j = portOf s j := rfl
@[simp] theorem mchanOf_setReg (a : Nat) (v : Reg) (j : Nat) : mchanOf (setReg s a v) j = mchanOf s j := rfl
@[simp] theorem queueOf_setReg (a : Nat) (v : Reg) (j : Nat) : queueOf (setReg s a v) j = queueOf s j := rfl
@[simp] theorem fifoOf_setReg (a : Nat) (v : Reg) (j : Nat) : fifoOf (setReg s a v) j = fifoOf s j := rfl
@[simp] theorem inqOf_setReg (a : Nat) (v : Reg) (j : Nat) : inqOf (setReg s a v) j = inqOf s j := rfl
@[simp] theorem outqOf_setReg (a : Nat) (v : Reg) (j : Nat) : outqOf (setReg s a v) j = outqOf s j := rfl
@[simp] theorem streamOf_setReg (a : Nat) (v : Reg) (j : Nat) : streamOf (setReg s a v) j = streamOf s j := rfl

/-! ### `setRegF` -/

@[simp] theorem setRegF_hw (a lo len v : Nat) : (setRegF s a lo len v).hw = s.hw := rfl
@[simp] theorem setRegF_hold (a lo len v : Nat) : (setRegF s a lo len v).hold = s.hold := rfl
@[simp] theorem setRegF_bus (a lo len v : Nat) : (setRegF s a lo len v).bus = s.bus := rfl
@[simp] theorem setRegF_tb (a lo len v : Nat) : (setRegF s a lo len v).tb = s.tb := rfl
@[simp] theorem setRegF_tiles (a lo len v : Nat) : (setRegF s a lo len v).tiles = s.tiles := rfl
@[simp] theorem setRegF_dies (a lo len v : Nat) : (setRegF s a lo len v).dies = s.dies := rfl
@[simp] theorem setRegF_ex (a lo len v : Nat) : (setRegF s a lo len v).ex = s.ex := rfl
@[simp] theorem setRegF_run (a lo len v : Nat) : (setRegF s a lo len v).run = s.run := rfl
@[simp] theorem setRegF_img (a lo len v : Nat) : (setRegF s a lo len v).img = s.img := rfl
@[simp] theorem setRegF_banks (a lo len v : Nat) : (setRegF s a lo len v).banks = s.banks := rfl
@[simp] theorem setRegF_dram (a lo len v : Nat) : (setRegF s a lo len v).dram = s.dram := rfl
@[simp] theorem setRegF_aq (a lo len v : Nat) : (setRegF s a lo len v).aq = s.aq := rfl
@[simp] theorem setRegF_rim (a lo len v : Nat) : (setRegF s a lo len v).rim = s.rim := rfl
@[simp] theorem setRegF_ports (a lo len v : Nat) : (setRegF s a lo len v).ports = s.ports := rfl
@[simp] theorem setRegF_mkh (a lo len v : Nat) : (setRegF s a lo len v).mkh = s.mkh := rfl
@[simp] theorem setRegF_saiga (a lo len v : Nat) : (setRegF s a lo len v).saiga = s.saiga := rfl
@[simp] theorem setRegF_msg (a lo len v : Nat) : (setRegF s a lo len v).msg = s.msg := rfl
@[simp] theorem setRegF_evl (a lo len v : Nat) : (setRegF s a lo len v).evl = s.evl := rfl
@[simp] theorem setRegF_cfg (a lo len v : Nat) : (setRegF s a lo len v).cfg = s.cfg := rfl
@[simp] theorem setRegF_keys (a lo len v : Nat) : (setRegF s a lo len v).keys = s.keys := rfl
@[simp] theorem setRegF_recov (a lo len v : Nat) : (setRegF s a lo len v).recov = s.recov := rfl
@[simp] theorem setRegF_trc (a lo len v : Nat) : (setRegF s a lo len v).trc = s.trc := rfl
@[simp] theorem setRegF_pwr (a lo len v : Nat) : (setRegF s a lo len v).pwr = s.pwr := rfl
@[simp] theorem setRegF_tap (a lo len v : Nat) : (setRegF s a lo len v).tap = s.tap := rfl
@[simp] theorem setRegF_host (a lo len v : Nat) : (setRegF s a lo len v).host = s.host := rfl
@[simp] theorem setRegF_freeCount (a lo len v : Nat) : (setRegF s a lo len v).freeCount = s.freeCount := rfl
@[simp] theorem setRegF_pending (a lo len v : Nat) : (setRegF s a lo len v).pending = s.pending := rfl
@[simp] theorem tileOf_setRegF (a lo len v : Nat) (j : Nat) : tileOf (setRegF s a lo len v) j = tileOf s j := rfl
@[simp] theorem dieOf_setRegF (a lo len v : Nat) (j : Nat) : dieOf (setRegF s a lo len v) j = dieOf s j := rfl
@[simp] theorem bankOf_setRegF (a lo len v : Nat) (j : Nat) : bankOf (setRegF s a lo len v) j = bankOf s j := rfl
@[simp] theorem chanOf_setRegF (a lo len v : Nat) (j : Nat) : chanOf (setRegF s a lo len v) j = chanOf s j := rfl
@[simp] theorem portOf_setRegF (a lo len v : Nat) (j : Nat) : portOf (setRegF s a lo len v) j = portOf s j := rfl
@[simp] theorem mchanOf_setRegF (a lo len v : Nat) (j : Nat) : mchanOf (setRegF s a lo len v) j = mchanOf s j := rfl
@[simp] theorem queueOf_setRegF (a lo len v : Nat) (j : Nat) : queueOf (setRegF s a lo len v) j = queueOf s j := rfl
@[simp] theorem fifoOf_setRegF (a lo len v : Nat) (j : Nat) : fifoOf (setRegF s a lo len v) j = fifoOf s j := rfl
@[simp] theorem inqOf_setRegF (a lo len v : Nat) (j : Nat) : inqOf (setRegF s a lo len v) j = inqOf s j := rfl
@[simp] theorem outqOf_setRegF (a lo len v : Nat) (j : Nat) : outqOf (setRegF s a lo len v) j = outqOf s j := rfl
@[simp] theorem streamOf_setRegF (a lo len v : Nat) (j : Nat) : streamOf (setRegF s a lo len v) j = streamOf s j := rfl

/-! ### `writeRW` -/

@[simp] theorem writeRW_hw (a : Nat) (v : Reg) : (writeRW s a v).hw = s.hw := rfl
@[simp] theorem writeRW_hold (a : Nat) (v : Reg) : (writeRW s a v).hold = s.hold := rfl
@[simp] theorem writeRW_bus (a : Nat) (v : Reg) : (writeRW s a v).bus = s.bus := rfl
@[simp] theorem writeRW_tb (a : Nat) (v : Reg) : (writeRW s a v).tb = s.tb := rfl
@[simp] theorem writeRW_tiles (a : Nat) (v : Reg) : (writeRW s a v).tiles = s.tiles := rfl
@[simp] theorem writeRW_dies (a : Nat) (v : Reg) : (writeRW s a v).dies = s.dies := rfl
@[simp] theorem writeRW_ex (a : Nat) (v : Reg) : (writeRW s a v).ex = s.ex := rfl
@[simp] theorem writeRW_run (a : Nat) (v : Reg) : (writeRW s a v).run = s.run := rfl
@[simp] theorem writeRW_img (a : Nat) (v : Reg) : (writeRW s a v).img = s.img := rfl
@[simp] theorem writeRW_banks (a : Nat) (v : Reg) : (writeRW s a v).banks = s.banks := rfl
@[simp] theorem writeRW_dram (a : Nat) (v : Reg) : (writeRW s a v).dram = s.dram := rfl
@[simp] theorem writeRW_aq (a : Nat) (v : Reg) : (writeRW s a v).aq = s.aq := rfl
@[simp] theorem writeRW_rim (a : Nat) (v : Reg) : (writeRW s a v).rim = s.rim := rfl
@[simp] theorem writeRW_ports (a : Nat) (v : Reg) : (writeRW s a v).ports = s.ports := rfl
@[simp] theorem writeRW_mkh (a : Nat) (v : Reg) : (writeRW s a v).mkh = s.mkh := rfl
@[simp] theorem writeRW_saiga (a : Nat) (v : Reg) : (writeRW s a v).saiga = s.saiga := rfl
@[simp] theorem writeRW_msg (a : Nat) (v : Reg) : (writeRW s a v).msg = s.msg := rfl
@[simp] theorem writeRW_evl (a : Nat) (v : Reg) : (writeRW s a v).evl = s.evl := rfl
@[simp] theorem writeRW_cfg (a : Nat) (v : Reg) : (writeRW s a v).cfg = s.cfg := rfl
@[simp] theorem writeRW_keys (a : Nat) (v : Reg) : (writeRW s a v).keys = s.keys := rfl
@[simp] theorem writeRW_recov (a : Nat) (v : Reg) : (writeRW s a v).recov = s.recov := rfl
@[simp] theorem writeRW_trc (a : Nat) (v : Reg) : (writeRW s a v).trc = s.trc := rfl
@[simp] theorem writeRW_pwr (a : Nat) (v : Reg) : (writeRW s a v).pwr = s.pwr := rfl
@[simp] theorem writeRW_tap (a : Nat) (v : Reg) : (writeRW s a v).tap = s.tap := rfl
@[simp] theorem writeRW_host (a : Nat) (v : Reg) : (writeRW s a v).host = s.host := rfl
@[simp] theorem writeRW_freeCount (a : Nat) (v : Reg) : (writeRW s a v).freeCount = s.freeCount := rfl
@[simp] theorem writeRW_pending (a : Nat) (v : Reg) : (writeRW s a v).pending = s.pending := rfl
@[simp] theorem tileOf_writeRW (a : Nat) (v : Reg) (j : Nat) : tileOf (writeRW s a v) j = tileOf s j := rfl
@[simp] theorem dieOf_writeRW (a : Nat) (v : Reg) (j : Nat) : dieOf (writeRW s a v) j = dieOf s j := rfl
@[simp] theorem bankOf_writeRW (a : Nat) (v : Reg) (j : Nat) : bankOf (writeRW s a v) j = bankOf s j := rfl
@[simp] theorem chanOf_writeRW (a : Nat) (v : Reg) (j : Nat) : chanOf (writeRW s a v) j = chanOf s j := rfl
@[simp] theorem portOf_writeRW (a : Nat) (v : Reg) (j : Nat) : portOf (writeRW s a v) j = portOf s j := rfl
@[simp] theorem mchanOf_writeRW (a : Nat) (v : Reg) (j : Nat) : mchanOf (writeRW s a v) j = mchanOf s j := rfl
@[simp] theorem queueOf_writeRW (a : Nat) (v : Reg) (j : Nat) : queueOf (writeRW s a v) j = queueOf s j := rfl
@[simp] theorem fifoOf_writeRW (a : Nat) (v : Reg) (j : Nat) : fifoOf (writeRW s a v) j = fifoOf s j := rfl
@[simp] theorem inqOf_writeRW (a : Nat) (v : Reg) (j : Nat) : inqOf (writeRW s a v) j = inqOf s j := rfl
@[simp] theorem outqOf_writeRW (a : Nat) (v : Reg) (j : Nat) : outqOf (writeRW s a v) j = outqOf s j := rfl
@[simp] theorem streamOf_writeRW (a : Nat) (v : Reg) (j : Nat) : streamOf (writeRW s a v) j = streamOf s j := rfl

/-! ### `orReg` -/

@[simp] theorem orReg_hw (a : Nat) (v : Reg) : (orReg s a v).hw = s.hw := rfl
@[simp] theorem orReg_hold (a : Nat) (v : Reg) : (orReg s a v).hold = s.hold := rfl
@[simp] theorem orReg_bus (a : Nat) (v : Reg) : (orReg s a v).bus = s.bus := rfl
@[simp] theorem orReg_tb (a : Nat) (v : Reg) : (orReg s a v).tb = s.tb := rfl
@[simp] theorem orReg_tiles (a : Nat) (v : Reg) : (orReg s a v).tiles = s.tiles := rfl
@[simp] theorem orReg_dies (a : Nat) (v : Reg) : (orReg s a v).dies = s.dies := rfl
@[simp] theorem orReg_ex (a : Nat) (v : Reg) : (orReg s a v).ex = s.ex := rfl
@[simp] theorem orReg_run (a : Nat) (v : Reg) : (orReg s a v).run = s.run := rfl
@[simp] theorem orReg_img (a : Nat) (v : Reg) : (orReg s a v).img = s.img := rfl
@[simp] theorem orReg_banks (a : Nat) (v : Reg) : (orReg s a v).banks = s.banks := rfl
@[simp] theorem orReg_dram (a : Nat) (v : Reg) : (orReg s a v).dram = s.dram := rfl
@[simp] theorem orReg_aq (a : Nat) (v : Reg) : (orReg s a v).aq = s.aq := rfl
@[simp] theorem orReg_rim (a : Nat) (v : Reg) : (orReg s a v).rim = s.rim := rfl
@[simp] theorem orReg_ports (a : Nat) (v : Reg) : (orReg s a v).ports = s.ports := rfl
@[simp] theorem orReg_mkh (a : Nat) (v : Reg) : (orReg s a v).mkh = s.mkh := rfl
@[simp] theorem orReg_saiga (a : Nat) (v : Reg) : (orReg s a v).saiga = s.saiga := rfl
@[simp] theorem orReg_msg (a : Nat) (v : Reg) : (orReg s a v).msg = s.msg := rfl
@[simp] theorem orReg_evl (a : Nat) (v : Reg) : (orReg s a v).evl = s.evl := rfl
@[simp] theorem orReg_cfg (a : Nat) (v : Reg) : (orReg s a v).cfg = s.cfg := rfl
@[simp] theorem orReg_keys (a : Nat) (v : Reg) : (orReg s a v).keys = s.keys := rfl
@[simp] theorem orReg_recov (a : Nat) (v : Reg) : (orReg s a v).recov = s.recov := rfl
@[simp] theorem orReg_trc (a : Nat) (v : Reg) : (orReg s a v).trc = s.trc := rfl
@[simp] theorem orReg_pwr (a : Nat) (v : Reg) : (orReg s a v).pwr = s.pwr := rfl
@[simp] theorem orReg_tap (a : Nat) (v : Reg) : (orReg s a v).tap = s.tap := rfl
@[simp] theorem orReg_host (a : Nat) (v : Reg) : (orReg s a v).host = s.host := rfl
@[simp] theorem orReg_freeCount (a : Nat) (v : Reg) : (orReg s a v).freeCount = s.freeCount := rfl
@[simp] theorem orReg_pending (a : Nat) (v : Reg) : (orReg s a v).pending = s.pending := rfl
@[simp] theorem tileOf_orReg (a : Nat) (v : Reg) (j : Nat) : tileOf (orReg s a v) j = tileOf s j := rfl
@[simp] theorem dieOf_orReg (a : Nat) (v : Reg) (j : Nat) : dieOf (orReg s a v) j = dieOf s j := rfl
@[simp] theorem bankOf_orReg (a : Nat) (v : Reg) (j : Nat) : bankOf (orReg s a v) j = bankOf s j := rfl
@[simp] theorem chanOf_orReg (a : Nat) (v : Reg) (j : Nat) : chanOf (orReg s a v) j = chanOf s j := rfl
@[simp] theorem portOf_orReg (a : Nat) (v : Reg) (j : Nat) : portOf (orReg s a v) j = portOf s j := rfl
@[simp] theorem mchanOf_orReg (a : Nat) (v : Reg) (j : Nat) : mchanOf (orReg s a v) j = mchanOf s j := rfl
@[simp] theorem queueOf_orReg (a : Nat) (v : Reg) (j : Nat) : queueOf (orReg s a v) j = queueOf s j := rfl
@[simp] theorem fifoOf_orReg (a : Nat) (v : Reg) (j : Nat) : fifoOf (orReg s a v) j = fifoOf s j := rfl
@[simp] theorem inqOf_orReg (a : Nat) (v : Reg) (j : Nat) : inqOf (orReg s a v) j = inqOf s j := rfl
@[simp] theorem outqOf_orReg (a : Nat) (v : Reg) (j : Nat) : outqOf (orReg s a v) j = outqOf s j := rfl
@[simp] theorem streamOf_orReg (a : Nat) (v : Reg) (j : Nat) : streamOf (orReg s a v) j = streamOf s j := rfl

/-! ### `bump` -/

@[simp] theorem bump_hw (a n : Nat) : (bump s a n).hw = s.hw := rfl
@[simp] theorem bump_hold (a n : Nat) : (bump s a n).hold = s.hold := rfl
@[simp] theorem bump_bus (a n : Nat) : (bump s a n).bus = s.bus := rfl
@[simp] theorem bump_tb (a n : Nat) : (bump s a n).tb = s.tb := rfl
@[simp] theorem bump_tiles (a n : Nat) : (bump s a n).tiles = s.tiles := rfl
@[simp] theorem bump_dies (a n : Nat) : (bump s a n).dies = s.dies := rfl
@[simp] theorem bump_ex (a n : Nat) : (bump s a n).ex = s.ex := rfl
@[simp] theorem bump_run (a n : Nat) : (bump s a n).run = s.run := rfl
@[simp] theorem bump_img (a n : Nat) : (bump s a n).img = s.img := rfl
@[simp] theorem bump_banks (a n : Nat) : (bump s a n).banks = s.banks := rfl
@[simp] theorem bump_dram (a n : Nat) : (bump s a n).dram = s.dram := rfl
@[simp] theorem bump_aq (a n : Nat) : (bump s a n).aq = s.aq := rfl
@[simp] theorem bump_rim (a n : Nat) : (bump s a n).rim = s.rim := rfl
@[simp] theorem bump_ports (a n : Nat) : (bump s a n).ports = s.ports := rfl
@[simp] theorem bump_mkh (a n : Nat) : (bump s a n).mkh = s.mkh := rfl
@[simp] theorem bump_saiga (a n : Nat) : (bump s a n).saiga = s.saiga := rfl
@[simp] theorem bump_msg (a n : Nat) : (bump s a n).msg = s.msg := rfl
@[simp] theorem bump_evl (a n : Nat) : (bump s a n).evl = s.evl := rfl
@[simp] theorem bump_cfg (a n : Nat) : (bump s a n).cfg = s.cfg := rfl
@[simp] theorem bump_keys (a n : Nat) : (bump s a n).keys = s.keys := rfl
@[simp] theorem bump_recov (a n : Nat) : (bump s a n).recov = s.recov := rfl
@[simp] theorem bump_trc (a n : Nat) : (bump s a n).trc = s.trc := rfl
@[simp] theorem bump_pwr (a n : Nat) : (bump s a n).pwr = s.pwr := rfl
@[simp] theorem bump_tap (a n : Nat) : (bump s a n).tap = s.tap := rfl
@[simp] theorem bump_host (a n : Nat) : (bump s a n).host = s.host := rfl
@[simp] theorem bump_freeCount (a n : Nat) : (bump s a n).freeCount = s.freeCount := rfl
@[simp] theorem bump_pending (a n : Nat) : (bump s a n).pending = s.pending := rfl
@[simp] theorem tileOf_bump (a n : Nat) (j : Nat) : tileOf (bump s a n) j = tileOf s j := rfl
@[simp] theorem dieOf_bump (a n : Nat) (j : Nat) : dieOf (bump s a n) j = dieOf s j := rfl
@[simp] theorem bankOf_bump (a n : Nat) (j : Nat) : bankOf (bump s a n) j = bankOf s j := rfl
@[simp] theorem chanOf_bump (a n : Nat) (j : Nat) : chanOf (bump s a n) j = chanOf s j := rfl
@[simp] theorem portOf_bump (a n : Nat) (j : Nat) : portOf (bump s a n) j = portOf s j := rfl
@[simp] theorem mchanOf_bump (a n : Nat) (j : Nat) : mchanOf (bump s a n) j = mchanOf s j := rfl
@[simp] theorem queueOf_bump (a n : Nat) (j : Nat) : queueOf (bump s a n) j = queueOf s j := rfl
@[simp] theorem fifoOf_bump (a n : Nat) (j : Nat) : fifoOf (bump s a n) j = fifoOf s j := rfl
@[simp] theorem inqOf_bump (a n : Nat) (j : Nat) : inqOf (bump s a n) j = inqOf s j := rfl
@[simp] theorem outqOf_bump (a n : Nat) (j : Nat) : outqOf (bump s a n) j = outqOf s j := rfl
@[simp] theorem streamOf_bump (a n : Nat) (j : Nat) : streamOf (bump s a n) j = streamOf s j := rfl

/-! ### `setReg64` -/

@[simp] theorem setReg64_hw (lo hi v : Nat) : (setReg64 s lo hi v).hw = s.hw := rfl
@[simp] theorem setReg64_hold (lo hi v : Nat) : (setReg64 s lo hi v).hold = s.hold := rfl
@[simp] theorem setReg64_bus (lo hi v : Nat) : (setReg64 s lo hi v).bus = s.bus := rfl
@[simp] theorem setReg64_tb (lo hi v : Nat) : (setReg64 s lo hi v).tb = s.tb := rfl
@[simp] theorem setReg64_tiles (lo hi v : Nat) : (setReg64 s lo hi v).tiles = s.tiles := rfl
@[simp] theorem setReg64_dies (lo hi v : Nat) : (setReg64 s lo hi v).dies = s.dies := rfl
@[simp] theorem setReg64_ex (lo hi v : Nat) : (setReg64 s lo hi v).ex = s.ex := rfl
@[simp] theorem setReg64_run (lo hi v : Nat) : (setReg64 s lo hi v).run = s.run := rfl
@[simp] theorem setReg64_img (lo hi v : Nat) : (setReg64 s lo hi v).img = s.img := rfl
@[simp] theorem setReg64_banks (lo hi v : Nat) : (setReg64 s lo hi v).banks = s.banks := rfl
@[simp] theorem setReg64_dram (lo hi v : Nat) : (setReg64 s lo hi v).dram = s.dram := rfl
@[simp] theorem setReg64_aq (lo hi v : Nat) : (setReg64 s lo hi v).aq = s.aq := rfl
@[simp] theorem setReg64_rim (lo hi v : Nat) : (setReg64 s lo hi v).rim = s.rim := rfl
@[simp] theorem setReg64_ports (lo hi v : Nat) : (setReg64 s lo hi v).ports = s.ports := rfl
@[simp] theorem setReg64_mkh (lo hi v : Nat) : (setReg64 s lo hi v).mkh = s.mkh := rfl
@[simp] theorem setReg64_saiga (lo hi v : Nat) : (setReg64 s lo hi v).saiga = s.saiga := rfl
@[simp] theorem setReg64_msg (lo hi v : Nat) : (setReg64 s lo hi v).msg = s.msg := rfl
@[simp] theorem setReg64_evl (lo hi v : Nat) : (setReg64 s lo hi v).evl = s.evl := rfl
@[simp] theorem setReg64_cfg (lo hi v : Nat) : (setReg64 s lo hi v).cfg = s.cfg := rfl
@[simp] theorem setReg64_keys (lo hi v : Nat) : (setReg64 s lo hi v).keys = s.keys := rfl
@[simp] theorem setReg64_recov (lo hi v : Nat) : (setReg64 s lo hi v).recov = s.recov := rfl
@[simp] theorem setReg64_trc (lo hi v : Nat) : (setReg64 s lo hi v).trc = s.trc := rfl
@[simp] theorem setReg64_pwr (lo hi v : Nat) : (setReg64 s lo hi v).pwr = s.pwr := rfl
@[simp] theorem setReg64_tap (lo hi v : Nat) : (setReg64 s lo hi v).tap = s.tap := rfl
@[simp] theorem setReg64_host (lo hi v : Nat) : (setReg64 s lo hi v).host = s.host := rfl
@[simp] theorem setReg64_freeCount (lo hi v : Nat) : (setReg64 s lo hi v).freeCount = s.freeCount := rfl
@[simp] theorem setReg64_pending (lo hi v : Nat) : (setReg64 s lo hi v).pending = s.pending := rfl
@[simp] theorem tileOf_setReg64 (lo hi v : Nat) (j : Nat) : tileOf (setReg64 s lo hi v) j = tileOf s j := rfl
@[simp] theorem dieOf_setReg64 (lo hi v : Nat) (j : Nat) : dieOf (setReg64 s lo hi v) j = dieOf s j := rfl
@[simp] theorem bankOf_setReg64 (lo hi v : Nat) (j : Nat) : bankOf (setReg64 s lo hi v) j = bankOf s j := rfl
@[simp] theorem chanOf_setReg64 (lo hi v : Nat) (j : Nat) : chanOf (setReg64 s lo hi v) j = chanOf s j := rfl
@[simp] theorem portOf_setReg64 (lo hi v : Nat) (j : Nat) : portOf (setReg64 s lo hi v) j = portOf s j := rfl
@[simp] theorem mchanOf_setReg64 (lo hi v : Nat) (j : Nat) : mchanOf (setReg64 s lo hi v) j = mchanOf s j := rfl
@[simp] theorem queueOf_setReg64 (lo hi v : Nat) (j : Nat) : queueOf (setReg64 s lo hi v) j = queueOf s j := rfl
@[simp] theorem fifoOf_setReg64 (lo hi v : Nat) (j : Nat) : fifoOf (setReg64 s lo hi v) j = fifoOf s j := rfl
@[simp] theorem inqOf_setReg64 (lo hi v : Nat) (j : Nat) : inqOf (setReg64 s lo hi v) j = inqOf s j := rfl
@[simp] theorem outqOf_setReg64 (lo hi v : Nat) (j : Nat) : outqOf (setReg64 s lo hi v) j = outqOf s j := rfl
@[simp] theorem streamOf_setReg64 (lo hi v : Nat) (j : Nat) : streamOf (setReg64 s lo hi v) j = streamOf s j := rfl

/-! ### `stick` -/

@[simp] theorem stick_hw (pg b : Nat) : (stick s pg b).hw = s.hw := rfl
@[simp] theorem stick_hold (pg b : Nat) : (stick s pg b).hold = s.hold := rfl
@[simp] theorem stick_bus (pg b : Nat) : (stick s pg b).bus = s.bus := rfl
@[simp] theorem stick_tb (pg b : Nat) : (stick s pg b).tb = s.tb := rfl
@[simp] theorem stick_tiles (pg b : Nat) : (stick s pg b).tiles = s.tiles := rfl
@[simp] theorem stick_dies (pg b : Nat) : (stick s pg b).dies = s.dies := rfl
@[simp] theorem stick_ex (pg b : Nat) : (stick s pg b).ex = s.ex := rfl
@[simp] theorem stick_run (pg b : Nat) : (stick s pg b).run = s.run := rfl
@[simp] theorem stick_img (pg b : Nat) : (stick s pg b).img = s.img := rfl
@[simp] theorem stick_banks (pg b : Nat) : (stick s pg b).banks = s.banks := rfl
@[simp] theorem stick_dram (pg b : Nat) : (stick s pg b).dram = s.dram := rfl
@[simp] theorem stick_aq (pg b : Nat) : (stick s pg b).aq = s.aq := rfl
@[simp] theorem stick_rim (pg b : Nat) : (stick s pg b).rim = s.rim := rfl
@[simp] theorem stick_ports (pg b : Nat) : (stick s pg b).ports = s.ports := rfl
@[simp] theorem stick_mkh (pg b : Nat) : (stick s pg b).mkh = s.mkh := rfl
@[simp] theorem stick_saiga (pg b : Nat) : (stick s pg b).saiga = s.saiga := rfl
@[simp] theorem stick_msg (pg b : Nat) : (stick s pg b).msg = s.msg := rfl
@[simp] theorem stick_evl (pg b : Nat) : (stick s pg b).evl = s.evl := rfl
@[simp] theorem stick_cfg (pg b : Nat) : (stick s pg b).cfg = s.cfg := rfl
@[simp] theorem stick_keys (pg b : Nat) : (stick s pg b).keys = s.keys := rfl
@[simp] theorem stick_recov (pg b : Nat) : (stick s pg b).recov = s.recov := rfl
@[simp] theorem stick_trc (pg b : Nat) : (stick s pg b).trc = s.trc := rfl
@[simp] theorem stick_pwr (pg b : Nat) : (stick s pg b).pwr = s.pwr := rfl
@[simp] theorem stick_tap (pg b : Nat) : (stick s pg b).tap = s.tap := rfl
@[simp] theorem stick_host (pg b : Nat) : (stick s pg b).host = s.host := rfl
@[simp] theorem stick_freeCount (pg b : Nat) : (stick s pg b).freeCount = s.freeCount := rfl
@[simp] theorem stick_pending (pg b : Nat) : (stick s pg b).pending = s.pending := rfl
@[simp] theorem tileOf_stick (pg b : Nat) (j : Nat) : tileOf (stick s pg b) j = tileOf s j := rfl
@[simp] theorem dieOf_stick (pg b : Nat) (j : Nat) : dieOf (stick s pg b) j = dieOf s j := rfl
@[simp] theorem bankOf_stick (pg b : Nat) (j : Nat) : bankOf (stick s pg b) j = bankOf s j := rfl
@[simp] theorem chanOf_stick (pg b : Nat) (j : Nat) : chanOf (stick s pg b) j = chanOf s j := rfl
@[simp] theorem portOf_stick (pg b : Nat) (j : Nat) : portOf (stick s pg b) j = portOf s j := rfl
@[simp] theorem mchanOf_stick (pg b : Nat) (j : Nat) : mchanOf (stick s pg b) j = mchanOf s j := rfl
@[simp] theorem queueOf_stick (pg b : Nat) (j : Nat) : queueOf (stick s pg b) j = queueOf s j := rfl
@[simp] theorem fifoOf_stick (pg b : Nat) (j : Nat) : fifoOf (stick s pg b) j = fifoOf s j := rfl
@[simp] theorem inqOf_stick (pg b : Nat) (j : Nat) : inqOf (stick s pg b) j = inqOf s j := rfl
@[simp] theorem outqOf_stick (pg b : Nat) (j : Nat) : outqOf (stick s pg b) j = outqOf s j := rfl
@[simp] theorem streamOf_stick (pg b : Nat) (j : Nat) : streamOf (stick s pg b) j = streamOf s j := rfl

/-! ### `refuse` -/

@[simp] theorem refuse_hw (pg : Nat) : (refuse s pg).hw = s.hw := rfl
@[simp] theorem refuse_hold (pg : Nat) : (refuse s pg).hold = s.hold := rfl
@[simp] theorem refuse_bus (pg : Nat) : (refuse s pg).bus = s.bus := rfl
@[simp] theorem refuse_tb (pg : Nat) : (refuse s pg).tb = s.tb := rfl
@[simp] theorem refuse_tiles (pg : Nat) : (refuse s pg).tiles = s.tiles := rfl
@[simp] theorem refuse_dies (pg : Nat) : (refuse s pg).dies = s.dies := rfl
@[simp] theorem refuse_ex (pg : Nat) : (refuse s pg).ex = s.ex := rfl
@[simp] theorem refuse_run (pg : Nat) : (refuse s pg).run = s.run := rfl
@[simp] theorem refuse_img (pg : Nat) : (refuse s pg).img = s.img := rfl
@[simp] theorem refuse_banks (pg : Nat) : (refuse s pg).banks = s.banks := rfl
@[simp] theorem refuse_dram (pg : Nat) : (refuse s pg).dram = s.dram := rfl
@[simp] theorem refuse_aq (pg : Nat) : (refuse s pg).aq = s.aq := rfl
@[simp] theorem refuse_rim (pg : Nat) : (refuse s pg).rim = s.rim := rfl
@[simp] theorem refuse_ports (pg : Nat) : (refuse s pg).ports = s.ports := rfl
@[simp] theorem refuse_mkh (pg : Nat) : (refuse s pg).mkh = s.mkh := rfl
@[simp] theorem refuse_saiga (pg : Nat) : (refuse s pg).saiga = s.saiga := rfl
@[simp] theorem refuse_msg (pg : Nat) : (refuse s pg).msg = s.msg := rfl
@[simp] theorem refuse_evl (pg : Nat) : (refuse s pg).evl = s.evl := rfl
@[simp] theorem refuse_cfg (pg : Nat) : (refuse s pg).cfg = s.cfg := rfl
@[simp] theorem refuse_keys (pg : Nat) : (refuse s pg).keys = s.keys := rfl
@[simp] theorem refuse_recov (pg : Nat) : (refuse s pg).recov = s.recov := rfl
@[simp] theorem refuse_trc (pg : Nat) : (refuse s pg).trc = s.trc := rfl
@[simp] theorem refuse_pwr (pg : Nat) : (refuse s pg).pwr = s.pwr := rfl
@[simp] theorem refuse_tap (pg : Nat) : (refuse s pg).tap = s.tap := rfl
@[simp] theorem refuse_host (pg : Nat) : (refuse s pg).host = s.host := rfl
@[simp] theorem refuse_freeCount (pg : Nat) : (refuse s pg).freeCount = s.freeCount := rfl
@[simp] theorem refuse_pending (pg : Nat) : (refuse s pg).pending = s.pending := rfl
@[simp] theorem tileOf_refuse (pg : Nat) (j : Nat) : tileOf (refuse s pg) j = tileOf s j := rfl
@[simp] theorem dieOf_refuse (pg : Nat) (j : Nat) : dieOf (refuse s pg) j = dieOf s j := rfl
@[simp] theorem bankOf_refuse (pg : Nat) (j : Nat) : bankOf (refuse s pg) j = bankOf s j := rfl
@[simp] theorem chanOf_refuse (pg : Nat) (j : Nat) : chanOf (refuse s pg) j = chanOf s j := rfl
@[simp] theorem portOf_refuse (pg : Nat) (j : Nat) : portOf (refuse s pg) j = portOf s j := rfl
@[simp] theorem mchanOf_refuse (pg : Nat) (j : Nat) : mchanOf (refuse s pg) j = mchanOf s j := rfl
@[simp] theorem queueOf_refuse (pg : Nat) (j : Nat) : queueOf (refuse s pg) j = queueOf s j := rfl
@[simp] theorem fifoOf_refuse (pg : Nat) (j : Nat) : fifoOf (refuse s pg) j = fifoOf s j := rfl
@[simp] theorem inqOf_refuse (pg : Nat) (j : Nat) : inqOf (refuse s pg) j = inqOf s j := rfl
@[simp] theorem outqOf_refuse (pg : Nat) (j : Nat) : outqOf (refuse s pg) j = outqOf s j := rfl
@[simp] theorem streamOf_refuse (pg : Nat) (j : Nat) : streamOf (refuse s pg) j = streamOf s j := rfl

/-! ### `blkErr` -/

@[simp] theorem blkErr_hw (pg code n : Nat) : (blkErr s pg code n).hw = s.hw := rfl
@[simp] theorem blkErr_hold (pg code n : Nat) : (blkErr s pg code n).hold = s.hold := rfl
@[simp] theorem blkErr_bus (pg code n : Nat) : (blkErr s pg code n).bus = s.bus := rfl
@[simp] theorem blkErr_tb (pg code n : Nat) : (blkErr s pg code n).tb = s.tb := rfl
@[simp] theorem blkErr_tiles (pg code n : Nat) : (blkErr s pg code n).tiles = s.tiles := rfl
@[simp] theorem blkErr_dies (pg code n : Nat) : (blkErr s pg code n).dies = s.dies := rfl
@[simp] theorem blkErr_ex (pg code n : Nat) : (blkErr s pg code n).ex = s.ex := rfl
@[simp] theorem blkErr_run (pg code n : Nat) : (blkErr s pg code n).run = s.run := rfl
@[simp] theorem blkErr_img (pg code n : Nat) : (blkErr s pg code n).img = s.img := rfl
@[simp] theorem blkErr_banks (pg code n : Nat) : (blkErr s pg code n).banks = s.banks := rfl
@[simp] theorem blkErr_dram (pg code n : Nat) : (blkErr s pg code n).dram = s.dram := rfl
@[simp] theorem blkErr_aq (pg code n : Nat) : (blkErr s pg code n).aq = s.aq := rfl
@[simp] theorem blkErr_rim (pg code n : Nat) : (blkErr s pg code n).rim = s.rim := rfl
@[simp] theorem blkErr_ports (pg code n : Nat) : (blkErr s pg code n).ports = s.ports := rfl
@[simp] theorem blkErr_mkh (pg code n : Nat) : (blkErr s pg code n).mkh = s.mkh := rfl
@[simp] theorem blkErr_saiga (pg code n : Nat) : (blkErr s pg code n).saiga = s.saiga := rfl
@[simp] theorem blkErr_msg (pg code n : Nat) : (blkErr s pg code n).msg = s.msg := rfl
@[simp] theorem blkErr_evl (pg code n : Nat) : (blkErr s pg code n).evl = s.evl := rfl
@[simp] theorem blkErr_cfg (pg code n : Nat) : (blkErr s pg code n).cfg = s.cfg := rfl
@[simp] theorem blkErr_keys (pg code n : Nat) : (blkErr s pg code n).keys = s.keys := rfl
@[simp] theorem blkErr_recov (pg code n : Nat) : (blkErr s pg code n).recov = s.recov := rfl
@[simp] theorem blkErr_trc (pg code n : Nat) : (blkErr s pg code n).trc = s.trc := rfl
@[simp] theorem blkErr_pwr (pg code n : Nat) : (blkErr s pg code n).pwr = s.pwr := rfl
@[simp] theorem blkErr_tap (pg code n : Nat) : (blkErr s pg code n).tap = s.tap := rfl
@[simp] theorem blkErr_host (pg code n : Nat) : (blkErr s pg code n).host = s.host := rfl
@[simp] theorem blkErr_freeCount (pg code n : Nat) : (blkErr s pg code n).freeCount = s.freeCount := rfl
@[simp] theorem blkErr_pending (pg code n : Nat) : (blkErr s pg code n).pending = s.pending := rfl
@[simp] theorem tileOf_blkErr (pg code n : Nat) (j : Nat) : tileOf (blkErr s pg code n) j = tileOf s j := rfl
@[simp] theorem dieOf_blkErr (pg code n : Nat) (j : Nat) : dieOf (blkErr s pg code n) j = dieOf s j := rfl
@[simp] theorem bankOf_blkErr (pg code n : Nat) (j : Nat) : bankOf (blkErr s pg code n) j = bankOf s j := rfl
@[simp] theorem chanOf_blkErr (pg code n : Nat) (j : Nat) : chanOf (blkErr s pg code n) j = chanOf s j := rfl
@[simp] theorem portOf_blkErr (pg code n : Nat) (j : Nat) : portOf (blkErr s pg code n) j = portOf s j := rfl
@[simp] theorem mchanOf_blkErr (pg code n : Nat) (j : Nat) : mchanOf (blkErr s pg code n) j = mchanOf s j := rfl
@[simp] theorem queueOf_blkErr (pg code n : Nat) (j : Nat) : queueOf (blkErr s pg code n) j = queueOf s j := rfl
@[simp] theorem fifoOf_blkErr (pg code n : Nat) (j : Nat) : fifoOf (blkErr s pg code n) j = fifoOf s j := rfl
@[simp] theorem inqOf_blkErr (pg code n : Nat) (j : Nat) : inqOf (blkErr s pg code n) j = inqOf s j := rfl
@[simp] theorem outqOf_blkErr (pg code n : Nat) (j : Nat) : outqOf (blkErr s pg code n) j = outqOf s j := rfl
@[simp] theorem streamOf_blkErr (pg code n : Nat) (j : Nat) : streamOf (blkErr s pg code n) j = streamOf s j := rfl

/-! ### `putTile` -/

@[simp] theorem putTile_hw (p : Nat) (x : Tile) : (putTile s p x).hw = s.hw := rfl
@[simp] theorem putTile_regs (p : Nat) (x : Tile) : (putTile s p x).regs = s.regs := rfl
@[simp] theorem putTile_hold (p : Nat) (x : Tile) : (putTile s p x).hold = s.hold := rfl
@[simp] theorem putTile_bus (p : Nat) (x : Tile) : (putTile s p x).bus = s.bus := rfl
@[simp] theorem putTile_tb (p : Nat) (x : Tile) : (putTile s p x).tb = s.tb := rfl
@[simp] theorem putTile_dies (p : Nat) (x : Tile) : (putTile s p x).dies = s.dies := rfl
@[simp] theorem putTile_ex (p : Nat) (x : Tile) : (putTile s p x).ex = s.ex := rfl
@[simp] theorem putTile_run (p : Nat) (x : Tile) : (putTile s p x).run = s.run := rfl
@[simp] theorem putTile_img (p : Nat) (x : Tile) : (putTile s p x).img = s.img := rfl
@[simp] theorem putTile_banks (p : Nat) (x : Tile) : (putTile s p x).banks = s.banks := rfl
@[simp] theorem putTile_dram (p : Nat) (x : Tile) : (putTile s p x).dram = s.dram := rfl
@[simp] theorem putTile_aq (p : Nat) (x : Tile) : (putTile s p x).aq = s.aq := rfl
@[simp] theorem putTile_rim (p : Nat) (x : Tile) : (putTile s p x).rim = s.rim := rfl
@[simp] theorem putTile_ports (p : Nat) (x : Tile) : (putTile s p x).ports = s.ports := rfl
@[simp] theorem putTile_mkh (p : Nat) (x : Tile) : (putTile s p x).mkh = s.mkh := rfl
@[simp] theorem putTile_saiga (p : Nat) (x : Tile) : (putTile s p x).saiga = s.saiga := rfl
@[simp] theorem putTile_msg (p : Nat) (x : Tile) : (putTile s p x).msg = s.msg := rfl
@[simp] theorem putTile_evl (p : Nat) (x : Tile) : (putTile s p x).evl = s.evl := rfl
@[simp] theorem putTile_cfg (p : Nat) (x : Tile) : (putTile s p x).cfg = s.cfg := rfl
@[simp] theorem putTile_keys (p : Nat) (x : Tile) : (putTile s p x).keys = s.keys := rfl
@[simp] theorem putTile_scr (p : Nat) (x : Tile) : (putTile s p x).scr = s.scr := rfl
@[simp] theorem putTile_recov (p : Nat) (x : Tile) : (putTile s p x).recov = s.recov := rfl
@[simp] theorem putTile_trc (p : Nat) (x : Tile) : (putTile s p x).trc = s.trc := rfl
@[simp] theorem putTile_pwr (p : Nat) (x : Tile) : (putTile s p x).pwr = s.pwr := rfl
@[simp] theorem putTile_tap (p : Nat) (x : Tile) : (putTile s p x).tap = s.tap := rfl
@[simp] theorem putTile_host (p : Nat) (x : Tile) : (putTile s p x).host = s.host := rfl
@[simp] theorem putTile_freeCount (p : Nat) (x : Tile) : (putTile s p x).freeCount = s.freeCount := rfl
@[simp] theorem putTile_pending (p : Nat) (x : Tile) : (putTile s p x).pending = s.pending := rfl
@[simp] theorem getReg_putTile (p : Nat) (x : Tile) (j : Nat) : getReg (putTile s p x) j = getReg s j := rfl
@[simp] theorem dieOf_putTile (p : Nat) (x : Tile) (j : Nat) : dieOf (putTile s p x) j = dieOf s j := rfl
@[simp] theorem bankOf_putTile (p : Nat) (x : Tile) (j : Nat) : bankOf (putTile s p x) j = bankOf s j := rfl
@[simp] theorem chanOf_putTile (p : Nat) (x : Tile) (j : Nat) : chanOf (putTile s p x) j = chanOf s j := rfl
@[simp] theorem portOf_putTile (p : Nat) (x : Tile) (j : Nat) : portOf (putTile s p x) j = portOf s j := rfl
@[simp] theorem mchanOf_putTile (p : Nat) (x : Tile) (j : Nat) : mchanOf (putTile s p x) j = mchanOf s j := rfl
@[simp] theorem queueOf_putTile (p : Nat) (x : Tile) (j : Nat) : queueOf (putTile s p x) j = queueOf s j := rfl
@[simp] theorem fifoOf_putTile (p : Nat) (x : Tile) (j : Nat) : fifoOf (putTile s p x) j = fifoOf s j := rfl
@[simp] theorem inqOf_putTile (p : Nat) (x : Tile) (j : Nat) : inqOf (putTile s p x) j = inqOf s j := rfl
@[simp] theorem outqOf_putTile (p : Nat) (x : Tile) (j : Nat) : outqOf (putTile s p x) j = outqOf s j := rfl
@[simp] theorem streamOf_putTile (p : Nat) (x : Tile) (j : Nat) : streamOf (putTile s p x) j = streamOf s j := rfl

/-! ### `putDie` -/

@[simp] theorem putDie_hw (d : Nat) (x : Die) : (putDie s d x).hw = s.hw := rfl
@[simp] theorem putDie_regs (d : Nat) (x : Die) : (putDie s d x).regs = s.regs := rfl
@[simp] theorem putDie_hold (d : Nat) (x : Die) : (putDie s d x).hold = s.hold := rfl
@[simp] theorem putDie_bus (d : Nat) (x : Die) : (putDie s d x).bus = s.bus := rfl
@[simp] theorem putDie_tb (d : Nat) (x : Die) : (putDie s d x).tb = s.tb := rfl
@[simp] theorem putDie_tiles (d : Nat) (x : Die) : (putDie s d x).tiles = s.tiles := rfl
@[simp] theorem putDie_ex (d : Nat) (x : Die) : (putDie s d x).ex = s.ex := rfl
@[simp] theorem putDie_run (d : Nat) (x : Die) : (putDie s d x).run = s.run := rfl
@[simp] theorem putDie_img (d : Nat) (x : Die) : (putDie s d x).img = s.img := rfl
@[simp] theorem putDie_banks (d : Nat) (x : Die) : (putDie s d x).banks = s.banks := rfl
@[simp] theorem putDie_dram (d : Nat) (x : Die) : (putDie s d x).dram = s.dram := rfl
@[simp] theorem putDie_aq (d : Nat) (x : Die) : (putDie s d x).aq = s.aq := rfl
@[simp] theorem putDie_rim (d : Nat) (x : Die) : (putDie s d x).rim = s.rim := rfl
@[simp] theorem putDie_ports (d : Nat) (x : Die) : (putDie s d x).ports = s.ports := rfl
@[simp] theorem putDie_mkh (d : Nat) (x : Die) : (putDie s d x).mkh = s.mkh := rfl
@[simp] theorem putDie_saiga (d : Nat) (x : Die) : (putDie s d x).saiga = s.saiga := rfl
@[simp] theorem putDie_msg (d : Nat) (x : Die) : (putDie s d x).msg = s.msg := rfl
@[simp] theorem putDie_evl (d : Nat) (x : Die) : (putDie s d x).evl = s.evl := rfl
@[simp] theorem putDie_cfg (d : Nat) (x : Die) : (putDie s d x).cfg = s.cfg := rfl
@[simp] theorem putDie_keys (d : Nat) (x : Die) : (putDie s d x).keys = s.keys := rfl
@[simp] theorem putDie_scr (d : Nat) (x : Die) : (putDie s d x).scr = s.scr := rfl
@[simp] theorem putDie_recov (d : Nat) (x : Die) : (putDie s d x).recov = s.recov := rfl
@[simp] theorem putDie_trc (d : Nat) (x : Die) : (putDie s d x).trc = s.trc := rfl
@[simp] theorem putDie_pwr (d : Nat) (x : Die) : (putDie s d x).pwr = s.pwr := rfl
@[simp] theorem putDie_tap (d : Nat) (x : Die) : (putDie s d x).tap = s.tap := rfl
@[simp] theorem putDie_host (d : Nat) (x : Die) : (putDie s d x).host = s.host := rfl
@[simp] theorem putDie_freeCount (d : Nat) (x : Die) : (putDie s d x).freeCount = s.freeCount := rfl
@[simp] theorem putDie_pending (d : Nat) (x : Die) : (putDie s d x).pending = s.pending := rfl
@[simp] theorem getReg_putDie (d : Nat) (x : Die) (j : Nat) : getReg (putDie s d x) j = getReg s j := rfl
@[simp] theorem tileOf_putDie (d : Nat) (x : Die) (j : Nat) : tileOf (putDie s d x) j = tileOf s j := rfl
@[simp] theorem bankOf_putDie (d : Nat) (x : Die) (j : Nat) : bankOf (putDie s d x) j = bankOf s j := rfl
@[simp] theorem chanOf_putDie (d : Nat) (x : Die) (j : Nat) : chanOf (putDie s d x) j = chanOf s j := rfl
@[simp] theorem portOf_putDie (d : Nat) (x : Die) (j : Nat) : portOf (putDie s d x) j = portOf s j := rfl
@[simp] theorem mchanOf_putDie (d : Nat) (x : Die) (j : Nat) : mchanOf (putDie s d x) j = mchanOf s j := rfl
@[simp] theorem queueOf_putDie (d : Nat) (x : Die) (j : Nat) : queueOf (putDie s d x) j = queueOf s j := rfl
@[simp] theorem fifoOf_putDie (d : Nat) (x : Die) (j : Nat) : fifoOf (putDie s d x) j = fifoOf s j := rfl
@[simp] theorem inqOf_putDie (d : Nat) (x : Die) (j : Nat) : inqOf (putDie s d x) j = inqOf s j := rfl
@[simp] theorem outqOf_putDie (d : Nat) (x : Die) (j : Nat) : outqOf (putDie s d x) j = outqOf s j := rfl
@[simp] theorem streamOf_putDie (d : Nat) (x : Die) (j : Nat) : streamOf (putDie s d x) j = streamOf s j := rfl

/-! ### `putBank` -/

@[simp] theorem putBank_hw (b : Nat) (x : Bank) : (putBank s b x).hw = s.hw := rfl
@[simp] theorem putBank_regs (b : Nat) (x : Bank) : (putBank s b x).regs = s.regs := rfl
@[simp] theorem putBank_hold (b : Nat) (x : Bank) : (putBank s b x).hold = s.hold := rfl
@[simp] theorem putBank_bus (b : Nat) (x : Bank) : (putBank s b x).bus = s.bus := rfl
@[simp] theorem putBank_tb (b : Nat) (x : Bank) : (putBank s b x).tb = s.tb := rfl
@[simp] theorem putBank_tiles (b : Nat) (x : Bank) : (putBank s b x).tiles = s.tiles := rfl
@[simp] theorem putBank_dies (b : Nat) (x : Bank) : (putBank s b x).dies = s.dies := rfl
@[simp] theorem putBank_ex (b : Nat) (x : Bank) : (putBank s b x).ex = s.ex := rfl
@[simp] theorem putBank_run (b : Nat) (x : Bank) : (putBank s b x).run = s.run := rfl
@[simp] theorem putBank_img (b : Nat) (x : Bank) : (putBank s b x).img = s.img := rfl
@[simp] theorem putBank_dram (b : Nat) (x : Bank) : (putBank s b x).dram = s.dram := rfl
@[simp] theorem putBank_aq (b : Nat) (x : Bank) : (putBank s b x).aq = s.aq := rfl
@[simp] theorem putBank_rim (b : Nat) (x : Bank) : (putBank s b x).rim = s.rim := rfl
@[simp] theorem putBank_ports (b : Nat) (x : Bank) : (putBank s b x).ports = s.ports := rfl
@[simp] theorem putBank_mkh (b : Nat) (x : Bank) : (putBank s b x).mkh = s.mkh := rfl
@[simp] theorem putBank_saiga (b : Nat) (x : Bank) : (putBank s b x).saiga = s.saiga := rfl
@[simp] theorem putBank_msg (b : Nat) (x : Bank) : (putBank s b x).msg = s.msg := rfl
@[simp] theorem putBank_evl (b : Nat) (x : Bank) : (putBank s b x).evl = s.evl := rfl
@[simp] theorem putBank_cfg (b : Nat) (x : Bank) : (putBank s b x).cfg = s.cfg := rfl
@[simp] theorem putBank_keys (b : Nat) (x : Bank) : (putBank s b x).keys = s.keys := rfl
@[simp] theorem putBank_scr (b : Nat) (x : Bank) : (putBank s b x).scr = s.scr := rfl
@[simp] theorem putBank_recov (b : Nat) (x : Bank) : (putBank s b x).recov = s.recov := rfl
@[simp] theorem putBank_trc (b : Nat) (x : Bank) : (putBank s b x).trc = s.trc := rfl
@[simp] theorem putBank_pwr (b : Nat) (x : Bank) : (putBank s b x).pwr = s.pwr := rfl
@[simp] theorem putBank_tap (b : Nat) (x : Bank) : (putBank s b x).tap = s.tap := rfl
@[simp] theorem putBank_host (b : Nat) (x : Bank) : (putBank s b x).host = s.host := rfl
@[simp] theorem putBank_freeCount (b : Nat) (x : Bank) : (putBank s b x).freeCount = s.freeCount := rfl
@[simp] theorem putBank_pending (b : Nat) (x : Bank) : (putBank s b x).pending = s.pending := rfl
@[simp] theorem getReg_putBank (b : Nat) (x : Bank) (j : Nat) : getReg (putBank s b x) j = getReg s j := rfl
@[simp] theorem tileOf_putBank (b : Nat) (x : Bank) (j : Nat) : tileOf (putBank s b x) j = tileOf s j := rfl
@[simp] theorem dieOf_putBank (b : Nat) (x : Bank) (j : Nat) : dieOf (putBank s b x) j = dieOf s j := rfl
@[simp] theorem chanOf_putBank (b : Nat) (x : Bank) (j : Nat) : chanOf (putBank s b x) j = chanOf s j := rfl
@[simp] theorem portOf_putBank (b : Nat) (x : Bank) (j : Nat) : portOf (putBank s b x) j = portOf s j := rfl
@[simp] theorem mchanOf_putBank (b : Nat) (x : Bank) (j : Nat) : mchanOf (putBank s b x) j = mchanOf s j := rfl
@[simp] theorem queueOf_putBank (b : Nat) (x : Bank) (j : Nat) : queueOf (putBank s b x) j = queueOf s j := rfl
@[simp] theorem fifoOf_putBank (b : Nat) (x : Bank) (j : Nat) : fifoOf (putBank s b x) j = fifoOf s j := rfl
@[simp] theorem inqOf_putBank (b : Nat) (x : Bank) (j : Nat) : inqOf (putBank s b x) j = inqOf s j := rfl
@[simp] theorem outqOf_putBank (b : Nat) (x : Bank) (j : Nat) : outqOf (putBank s b x) j = outqOf s j := rfl
@[simp] theorem streamOf_putBank (b : Nat) (x : Bank) (j : Nat) : streamOf (putBank s b x) j = streamOf s j := rfl

/-! ### `putChan` -/

@[simp] theorem putChan_hw (c : Nat) (x : Chan) : (putChan s c x).hw = s.hw := rfl
@[simp] theorem putChan_regs (c : Nat) (x : Chan) : (putChan s c x).regs = s.regs := rfl
@[simp] theorem putChan_hold (c : Nat) (x : Chan) : (putChan s c x).hold = s.hold := rfl
@[simp] theorem putChan_bus (c : Nat) (x : Chan) : (putChan s c x).bus = s.bus := rfl
@[simp] theorem putChan_tb (c : Nat) (x : Chan) : (putChan s c x).tb = s.tb := rfl
@[simp] theorem putChan_tiles (c : Nat) (x : Chan) : (putChan s c x).tiles = s.tiles := rfl
@[simp] theorem putChan_dies (c : Nat) (x : Chan) : (putChan s c x).dies = s.dies := rfl
@[simp] theorem putChan_ex (c : Nat) (x : Chan) : (putChan s c x).ex = s.ex := rfl
@[simp] theorem putChan_run (c : Nat) (x : Chan) : (putChan s c x).run = s.run := rfl
@[simp] theorem putChan_img (c : Nat) (x : Chan) : (putChan s c x).img = s.img := rfl
@[simp] theorem putChan_banks (c : Nat) (x : Chan) : (putChan s c x).banks = s.banks := rfl
@[simp] theorem putChan_aq (c : Nat) (x : Chan) : (putChan s c x).aq = s.aq := rfl
@[simp] theorem putChan_rim (c : Nat) (x : Chan) : (putChan s c x).rim = s.rim := rfl
@[simp] theorem putChan_ports (c : Nat) (x : Chan) : (putChan s c x).ports = s.ports := rfl
@[simp] theorem putChan_mkh (c : Nat) (x : Chan) : (putChan s c x).mkh = s.mkh := rfl
@[simp] theorem putChan_saiga (c : Nat) (x : Chan) : (putChan s c x).saiga = s.saiga := rfl
@[simp] theorem putChan_msg (c : Nat) (x : Chan) : (putChan s c x).msg = s.msg := rfl
@[simp] theorem putChan_evl (c : Nat) (x : Chan) : (putChan s c x).evl = s.evl := rfl
@[simp] theorem putChan_cfg (c : Nat) (x : Chan) : (putChan s c x).cfg = s.cfg := rfl
@[simp] theorem putChan_keys (c : Nat) (x : Chan) : (putChan s c x).keys = s.keys := rfl
@[simp] theorem putChan_scr (c : Nat) (x : Chan) : (putChan s c x).scr = s.scr := rfl
@[simp] theorem putChan_recov (c : Nat) (x : Chan) : (putChan s c x).recov = s.recov := rfl
@[simp] theorem putChan_trc (c : Nat) (x : Chan) : (putChan s c x).trc = s.trc := rfl
@[simp] theorem putChan_pwr (c : Nat) (x : Chan) : (putChan s c x).pwr = s.pwr := rfl
@[simp] theorem putChan_tap (c : Nat) (x : Chan) : (putChan s c x).tap = s.tap := rfl
@[simp] theorem putChan_host (c : Nat) (x : Chan) : (putChan s c x).host = s.host := rfl
@[simp] theorem putChan_freeCount (c : Nat) (x : Chan) : (putChan s c x).freeCount = s.freeCount := rfl
@[simp] theorem putChan_pending (c : Nat) (x : Chan) : (putChan s c x).pending = s.pending := rfl
@[simp] theorem getReg_putChan (c : Nat) (x : Chan) (j : Nat) : getReg (putChan s c x) j = getReg s j := rfl
@[simp] theorem tileOf_putChan (c : Nat) (x : Chan) (j : Nat) : tileOf (putChan s c x) j = tileOf s j := rfl
@[simp] theorem dieOf_putChan (c : Nat) (x : Chan) (j : Nat) : dieOf (putChan s c x) j = dieOf s j := rfl
@[simp] theorem bankOf_putChan (c : Nat) (x : Chan) (j : Nat) : bankOf (putChan s c x) j = bankOf s j := rfl
@[simp] theorem portOf_putChan (c : Nat) (x : Chan) (j : Nat) : portOf (putChan s c x) j = portOf s j := rfl
@[simp] theorem mchanOf_putChan (c : Nat) (x : Chan) (j : Nat) : mchanOf (putChan s c x) j = mchanOf s j := rfl
@[simp] theorem queueOf_putChan (c : Nat) (x : Chan) (j : Nat) : queueOf (putChan s c x) j = queueOf s j := rfl
@[simp] theorem fifoOf_putChan (c : Nat) (x : Chan) (j : Nat) : fifoOf (putChan s c x) j = fifoOf s j := rfl
@[simp] theorem inqOf_putChan (c : Nat) (x : Chan) (j : Nat) : inqOf (putChan s c x) j = inqOf s j := rfl
@[simp] theorem outqOf_putChan (c : Nat) (x : Chan) (j : Nat) : outqOf (putChan s c x) j = outqOf s j := rfl
@[simp] theorem streamOf_putChan (c : Nat) (x : Chan) (j : Nat) : streamOf (putChan s c x) j = streamOf s j := rfl

/-! ### `putPort` -/

@[simp] theorem putPort_hw (n : Nat) (x : Port) : (putPort s n x).hw = s.hw := rfl
@[simp] theorem putPort_regs (n : Nat) (x : Port) : (putPort s n x).regs = s.regs := rfl
@[simp] theorem putPort_hold (n : Nat) (x : Port) : (putPort s n x).hold = s.hold := rfl
@[simp] theorem putPort_bus (n : Nat) (x : Port) : (putPort s n x).bus = s.bus := rfl
@[simp] theorem putPort_tb (n : Nat) (x : Port) : (putPort s n x).tb = s.tb := rfl
@[simp] theorem putPort_tiles (n : Nat) (x : Port) : (putPort s n x).tiles = s.tiles := rfl
@[simp] theorem putPort_dies (n : Nat) (x : Port) : (putPort s n x).dies = s.dies := rfl
@[simp] theorem putPort_ex (n : Nat) (x : Port) : (putPort s n x).ex = s.ex := rfl
@[simp] theorem putPort_run (n : Nat) (x : Port) : (putPort s n x).run = s.run := rfl
@[simp] theorem putPort_img (n : Nat) (x : Port) : (putPort s n x).img = s.img := rfl
@[simp] theorem putPort_banks (n : Nat) (x : Port) : (putPort s n x).banks = s.banks := rfl
@[simp] theorem putPort_dram (n : Nat) (x : Port) : (putPort s n x).dram = s.dram := rfl
@[simp] theorem putPort_aq (n : Nat) (x : Port) : (putPort s n x).aq = s.aq := rfl
@[simp] theorem putPort_rim (n : Nat) (x : Port) : (putPort s n x).rim = s.rim := rfl
@[simp] theorem putPort_mkh (n : Nat) (x : Port) : (putPort s n x).mkh = s.mkh := rfl
@[simp] theorem putPort_saiga (n : Nat) (x : Port) : (putPort s n x).saiga = s.saiga := rfl
@[simp] theorem putPort_msg (n : Nat) (x : Port) : (putPort s n x).msg = s.msg := rfl
@[simp] theorem putPort_evl (n : Nat) (x : Port) : (putPort s n x).evl = s.evl := rfl
@[simp] theorem putPort_cfg (n : Nat) (x : Port) : (putPort s n x).cfg = s.cfg := rfl
@[simp] theorem putPort_keys (n : Nat) (x : Port) : (putPort s n x).keys = s.keys := rfl
@[simp] theorem putPort_scr (n : Nat) (x : Port) : (putPort s n x).scr = s.scr := rfl
@[simp] theorem putPort_recov (n : Nat) (x : Port) : (putPort s n x).recov = s.recov := rfl
@[simp] theorem putPort_trc (n : Nat) (x : Port) : (putPort s n x).trc = s.trc := rfl
@[simp] theorem putPort_pwr (n : Nat) (x : Port) : (putPort s n x).pwr = s.pwr := rfl
@[simp] theorem putPort_tap (n : Nat) (x : Port) : (putPort s n x).tap = s.tap := rfl
@[simp] theorem putPort_host (n : Nat) (x : Port) : (putPort s n x).host = s.host := rfl
@[simp] theorem putPort_freeCount (n : Nat) (x : Port) : (putPort s n x).freeCount = s.freeCount := rfl
@[simp] theorem putPort_pending (n : Nat) (x : Port) : (putPort s n x).pending = s.pending := rfl
@[simp] theorem getReg_putPort (n : Nat) (x : Port) (j : Nat) : getReg (putPort s n x) j = getReg s j := rfl
@[simp] theorem tileOf_putPort (n : Nat) (x : Port) (j : Nat) : tileOf (putPort s n x) j = tileOf s j := rfl
@[simp] theorem dieOf_putPort (n : Nat) (x : Port) (j : Nat) : dieOf (putPort s n x) j = dieOf s j := rfl
@[simp] theorem bankOf_putPort (n : Nat) (x : Port) (j : Nat) : bankOf (putPort s n x) j = bankOf s j := rfl
@[simp] theorem chanOf_putPort (n : Nat) (x : Port) (j : Nat) : chanOf (putPort s n x) j = chanOf s j := rfl
@[simp] theorem mchanOf_putPort (n : Nat) (x : Port) (j : Nat) : mchanOf (putPort s n x) j = mchanOf s j := rfl
@[simp] theorem queueOf_putPort (n : Nat) (x : Port) (j : Nat) : queueOf (putPort s n x) j = queueOf s j := rfl
@[simp] theorem fifoOf_putPort (n : Nat) (x : Port) (j : Nat) : fifoOf (putPort s n x) j = fifoOf s j := rfl
@[simp] theorem inqOf_putPort (n : Nat) (x : Port) (j : Nat) : inqOf (putPort s n x) j = inqOf s j := rfl
@[simp] theorem outqOf_putPort (n : Nat) (x : Port) (j : Nat) : outqOf (putPort s n x) j = outqOf s j := rfl
@[simp] theorem streamOf_putPort (n : Nat) (x : Port) (j : Nat) : streamOf (putPort s n x) j = streamOf s j := rfl

/-! ### `putMchan` -/

@[simp] theorem putMchan_hw (c : Nat) (x : MChan) : (putMchan s c x).hw = s.hw := rfl
@[simp] theorem putMchan_regs (c : Nat) (x : MChan) : (putMchan s c x).regs = s.regs := rfl
@[simp] theorem putMchan_hold (c : Nat) (x : MChan) : (putMchan s c x).hold = s.hold := rfl
@[simp] theorem putMchan_bus (c : Nat) (x : MChan) : (putMchan s c x).bus = s.bus := rfl
@[simp] theorem putMchan_tb (c : Nat) (x : MChan) : (putMchan s c x).tb = s.tb := rfl
@[simp] theorem putMchan_tiles (c : Nat) (x : MChan) : (putMchan s c x).tiles = s.tiles := rfl
@[simp] theorem putMchan_dies (c : Nat) (x : MChan) : (putMchan s c x).dies = s.dies := rfl
@[simp] theorem putMchan_ex (c : Nat) (x : MChan) : (putMchan s c x).ex = s.ex := rfl
@[simp] theorem putMchan_run (c : Nat) (x : MChan) : (putMchan s c x).run = s.run := rfl
@[simp] theorem putMchan_img (c : Nat) (x : MChan) : (putMchan s c x).img = s.img := rfl
@[simp] theorem putMchan_banks (c : Nat) (x : MChan) : (putMchan s c x).banks = s.banks := rfl
@[simp] theorem putMchan_dram (c : Nat) (x : MChan) : (putMchan s c x).dram = s.dram := rfl
@[simp] theorem putMchan_aq (c : Nat) (x : MChan) : (putMchan s c x).aq = s.aq := rfl
@[simp] theorem putMchan_rim (c : Nat) (x : MChan) : (putMchan s c x).rim = s.rim := rfl
@[simp] theorem putMchan_ports (c : Nat) (x : MChan) : (putMchan s c x).ports = s.ports := rfl
@[simp] theorem putMchan_saiga (c : Nat) (x : MChan) : (putMchan s c x).saiga = s.saiga := rfl
@[simp] theorem putMchan_msg (c : Nat) (x : MChan) : (putMchan s c x).msg = s.msg := rfl
@[simp] theorem putMchan_evl (c : Nat) (x : MChan) : (putMchan s c x).evl = s.evl := rfl
@[simp] theorem putMchan_cfg (c : Nat) (x : MChan) : (putMchan s c x).cfg = s.cfg := rfl
@[simp] theorem putMchan_keys (c : Nat) (x : MChan) : (putMchan s c x).keys = s.keys := rfl
@[simp] theorem putMchan_scr (c : Nat) (x : MChan) : (putMchan s c x).scr = s.scr := rfl
@[simp] theorem putMchan_recov (c : Nat) (x : MChan) : (putMchan s c x).recov = s.recov := rfl
@[simp] theorem putMchan_trc (c : Nat) (x : MChan) : (putMchan s c x).trc = s.trc := rfl
@[simp] theorem putMchan_pwr (c : Nat) (x : MChan) : (putMchan s c x).pwr = s.pwr := rfl
@[simp] theorem putMchan_tap (c : Nat) (x : MChan) : (putMchan s c x).tap = s.tap := rfl
@[simp] theorem putMchan_host (c : Nat) (x : MChan) : (putMchan s c x).host = s.host := rfl
@[simp] theorem putMchan_freeCount (c : Nat) (x : MChan) : (putMchan s c x).freeCount = s.freeCount := rfl
@[simp] theorem putMchan_pending (c : Nat) (x : MChan) : (putMchan s c x).pending = s.pending := rfl
@[simp] theorem getReg_putMchan (c : Nat) (x : MChan) (j : Nat) : getReg (putMchan s c x) j = getReg s j := rfl
@[simp] theorem tileOf_putMchan (c : Nat) (x : MChan) (j : Nat) : tileOf (putMchan s c x) j = tileOf s j := rfl
@[simp] theorem dieOf_putMchan (c : Nat) (x : MChan) (j : Nat) : dieOf (putMchan s c x) j = dieOf s j := rfl
@[simp] theorem bankOf_putMchan (c : Nat) (x : MChan) (j : Nat) : bankOf (putMchan s c x) j = bankOf s j := rfl
@[simp] theorem chanOf_putMchan (c : Nat) (x : MChan) (j : Nat) : chanOf (putMchan s c x) j = chanOf s j := rfl
@[simp] theorem portOf_putMchan (c : Nat) (x : MChan) (j : Nat) : portOf (putMchan s c x) j = portOf s j := rfl
@[simp] theorem queueOf_putMchan (c : Nat) (x : MChan) (j : Nat) : queueOf (putMchan s c x) j = queueOf s j := rfl
@[simp] theorem fifoOf_putMchan (c : Nat) (x : MChan) (j : Nat) : fifoOf (putMchan s c x) j = fifoOf s j := rfl
@[simp] theorem inqOf_putMchan (c : Nat) (x : MChan) (j : Nat) : inqOf (putMchan s c x) j = inqOf s j := rfl
@[simp] theorem outqOf_putMchan (c : Nat) (x : MChan) (j : Nat) : outqOf (putMchan s c x) j = outqOf s j := rfl
@[simp] theorem streamOf_putMchan (c : Nat) (x : MChan) (j : Nat) : streamOf (putMchan s c x) j = streamOf s j := rfl

/-! ### `putQueue` -/

@[simp] theorem putQueue_hw (q : Nat) (x : SQueue) : (putQueue s q x).hw = s.hw := rfl
@[simp] theorem putQueue_regs (q : Nat) (x : SQueue) : (putQueue s q x).regs = s.regs := rfl
@[simp] theorem putQueue_hold (q : Nat) (x : SQueue) : (putQueue s q x).hold = s.hold := rfl
@[simp] theorem putQueue_bus (q : Nat) (x : SQueue) : (putQueue s q x).bus = s.bus := rfl
@[simp] theorem putQueue_tb (q : Nat) (x : SQueue) : (putQueue s q x).tb = s.tb := rfl
@[simp] theorem putQueue_tiles (q : Nat) (x : SQueue) : (putQueue s q x).tiles = s.tiles := rfl
@[simp] theorem putQueue_dies (q : Nat) (x : SQueue) : (putQueue s q x).dies = s.dies := rfl
@[simp] theorem putQueue_ex (q : Nat) (x : SQueue) : (putQueue s q x).ex = s.ex := rfl
@[simp] theorem putQueue_run (q : Nat) (x : SQueue) : (putQueue s q x).run = s.run := rfl
@[simp] theorem putQueue_img (q : Nat) (x : SQueue) : (putQueue s q x).img = s.img := rfl
@[simp] theorem putQueue_banks (q : Nat) (x : SQueue) : (putQueue s q x).banks = s.banks := rfl
@[simp] theorem putQueue_dram (q : Nat) (x : SQueue) : (putQueue s q x).dram = s.dram := rfl
@[simp] theorem putQueue_aq (q : Nat) (x : SQueue) : (putQueue s q x).aq = s.aq := rfl
@[simp] theorem putQueue_rim (q : Nat) (x : SQueue) : (putQueue s q x).rim = s.rim := rfl
@[simp] theorem putQueue_ports (q : Nat) (x : SQueue) : (putQueue s q x).ports = s.ports := rfl
@[simp] theorem putQueue_mkh (q : Nat) (x : SQueue) : (putQueue s q x).mkh = s.mkh := rfl
@[simp] theorem putQueue_msg (q : Nat) (x : SQueue) : (putQueue s q x).msg = s.msg := rfl
@[simp] theorem putQueue_evl (q : Nat) (x : SQueue) : (putQueue s q x).evl = s.evl := rfl
@[simp] theorem putQueue_cfg (q : Nat) (x : SQueue) : (putQueue s q x).cfg = s.cfg := rfl
@[simp] theorem putQueue_keys (q : Nat) (x : SQueue) : (putQueue s q x).keys = s.keys := rfl
@[simp] theorem putQueue_scr (q : Nat) (x : SQueue) : (putQueue s q x).scr = s.scr := rfl
@[simp] theorem putQueue_recov (q : Nat) (x : SQueue) : (putQueue s q x).recov = s.recov := rfl
@[simp] theorem putQueue_trc (q : Nat) (x : SQueue) : (putQueue s q x).trc = s.trc := rfl
@[simp] theorem putQueue_pwr (q : Nat) (x : SQueue) : (putQueue s q x).pwr = s.pwr := rfl
@[simp] theorem putQueue_tap (q : Nat) (x : SQueue) : (putQueue s q x).tap = s.tap := rfl
@[simp] theorem putQueue_host (q : Nat) (x : SQueue) : (putQueue s q x).host = s.host := rfl
@[simp] theorem putQueue_freeCount (q : Nat) (x : SQueue) : (putQueue s q x).freeCount = s.freeCount := rfl
@[simp] theorem putQueue_pending (q : Nat) (x : SQueue) : (putQueue s q x).pending = s.pending := rfl
@[simp] theorem getReg_putQueue (q : Nat) (x : SQueue) (j : Nat) : getReg (putQueue s q x) j = getReg s j := rfl
@[simp] theorem tileOf_putQueue (q : Nat) (x : SQueue) (j : Nat) : tileOf (putQueue s q x) j = tileOf s j := rfl
@[simp] theorem dieOf_putQueue (q : Nat) (x : SQueue) (j : Nat) : dieOf (putQueue s q x) j = dieOf s j := rfl
@[simp] theorem bankOf_putQueue (q : Nat) (x : SQueue) (j : Nat) : bankOf (putQueue s q x) j = bankOf s j := rfl
@[simp] theorem chanOf_putQueue (q : Nat) (x : SQueue) (j : Nat) : chanOf (putQueue s q x) j = chanOf s j := rfl
@[simp] theorem portOf_putQueue (q : Nat) (x : SQueue) (j : Nat) : portOf (putQueue s q x) j = portOf s j := rfl
@[simp] theorem mchanOf_putQueue (q : Nat) (x : SQueue) (j : Nat) : mchanOf (putQueue s q x) j = mchanOf s j := rfl
@[simp] theorem fifoOf_putQueue (q : Nat) (x : SQueue) (j : Nat) : fifoOf (putQueue s q x) j = fifoOf s j := rfl
@[simp] theorem inqOf_putQueue (q : Nat) (x : SQueue) (j : Nat) : inqOf (putQueue s q x) j = inqOf s j := rfl
@[simp] theorem outqOf_putQueue (q : Nat) (x : SQueue) (j : Nat) : outqOf (putQueue s q x) j = outqOf s j := rfl
@[simp] theorem streamOf_putQueue (q : Nat) (x : SQueue) (j : Nat) : streamOf (putQueue s q x) j = streamOf s j := rfl

/-! ### `putFifo` -/

@[simp] theorem putFifo_hw (f : Nat) (x : MsgFifo) : (putFifo s f x).hw = s.hw := rfl
@[simp] theorem putFifo_regs (f : Nat) (x : MsgFifo) : (putFifo s f x).regs = s.regs := rfl
@[simp] theorem putFifo_hold (f : Nat) (x : MsgFifo) : (putFifo s f x).hold = s.hold := rfl
@[simp] theorem putFifo_bus (f : Nat) (x : MsgFifo) : (putFifo s f x).bus = s.bus := rfl
@[simp] theorem putFifo_tb (f : Nat) (x : MsgFifo) : (putFifo s f x).tb = s.tb := rfl
@[simp] theorem putFifo_tiles (f : Nat) (x : MsgFifo) : (putFifo s f x).tiles = s.tiles := rfl
@[simp] theorem putFifo_dies (f : Nat) (x : MsgFifo) : (putFifo s f x).dies = s.dies := rfl
@[simp] theorem putFifo_ex (f : Nat) (x : MsgFifo) : (putFifo s f x).ex = s.ex := rfl
@[simp] theorem putFifo_run (f : Nat) (x : MsgFifo) : (putFifo s f x).run = s.run := rfl
@[simp] theorem putFifo_img (f : Nat) (x : MsgFifo) : (putFifo s f x).img = s.img := rfl
@[simp] theorem putFifo_banks (f : Nat) (x : MsgFifo) : (putFifo s f x).banks = s.banks := rfl
@[simp] theorem putFifo_dram (f : Nat) (x : MsgFifo) : (putFifo s f x).dram = s.dram := rfl
@[simp] theorem putFifo_aq (f : Nat) (x : MsgFifo) : (putFifo s f x).aq = s.aq := rfl
@[simp] theorem putFifo_rim (f : Nat) (x : MsgFifo) : (putFifo s f x).rim = s.rim := rfl
@[simp] theorem putFifo_ports (f : Nat) (x : MsgFifo) : (putFifo s f x).ports = s.ports := rfl
@[simp] theorem putFifo_mkh (f : Nat) (x : MsgFifo) : (putFifo s f x).mkh = s.mkh := rfl
@[simp] theorem putFifo_saiga (f : Nat) (x : MsgFifo) : (putFifo s f x).saiga = s.saiga := rfl
@[simp] theorem putFifo_evl (f : Nat) (x : MsgFifo) : (putFifo s f x).evl = s.evl := rfl
@[simp] theorem putFifo_cfg (f : Nat) (x : MsgFifo) : (putFifo s f x).cfg = s.cfg := rfl
@[simp] theorem putFifo_keys (f : Nat) (x : MsgFifo) : (putFifo s f x).keys = s.keys := rfl
@[simp] theorem putFifo_scr (f : Nat) (x : MsgFifo) : (putFifo s f x).scr = s.scr := rfl
@[simp] theorem putFifo_recov (f : Nat) (x : MsgFifo) : (putFifo s f x).recov = s.recov := rfl
@[simp] theorem putFifo_trc (f : Nat) (x : MsgFifo) : (putFifo s f x).trc = s.trc := rfl
@[simp] theorem putFifo_pwr (f : Nat) (x : MsgFifo) : (putFifo s f x).pwr = s.pwr := rfl
@[simp] theorem putFifo_tap (f : Nat) (x : MsgFifo) : (putFifo s f x).tap = s.tap := rfl
@[simp] theorem putFifo_host (f : Nat) (x : MsgFifo) : (putFifo s f x).host = s.host := rfl
@[simp] theorem putFifo_freeCount (f : Nat) (x : MsgFifo) : (putFifo s f x).freeCount = s.freeCount := rfl
@[simp] theorem putFifo_pending (f : Nat) (x : MsgFifo) : (putFifo s f x).pending = s.pending := rfl
@[simp] theorem getReg_putFifo (f : Nat) (x : MsgFifo) (j : Nat) : getReg (putFifo s f x) j = getReg s j := rfl
@[simp] theorem tileOf_putFifo (f : Nat) (x : MsgFifo) (j : Nat) : tileOf (putFifo s f x) j = tileOf s j := rfl
@[simp] theorem dieOf_putFifo (f : Nat) (x : MsgFifo) (j : Nat) : dieOf (putFifo s f x) j = dieOf s j := rfl
@[simp] theorem bankOf_putFifo (f : Nat) (x : MsgFifo) (j : Nat) : bankOf (putFifo s f x) j = bankOf s j := rfl
@[simp] theorem chanOf_putFifo (f : Nat) (x : MsgFifo) (j : Nat) : chanOf (putFifo s f x) j = chanOf s j := rfl
@[simp] theorem portOf_putFifo (f : Nat) (x : MsgFifo) (j : Nat) : portOf (putFifo s f x) j = portOf s j := rfl
@[simp] theorem mchanOf_putFifo (f : Nat) (x : MsgFifo) (j : Nat) : mchanOf (putFifo s f x) j = mchanOf s j := rfl
@[simp] theorem queueOf_putFifo (f : Nat) (x : MsgFifo) (j : Nat) : queueOf (putFifo s f x) j = queueOf s j := rfl
@[simp] theorem inqOf_putFifo (f : Nat) (x : MsgFifo) (j : Nat) : inqOf (putFifo s f x) j = inqOf s j := rfl
@[simp] theorem outqOf_putFifo (f : Nat) (x : MsgFifo) (j : Nat) : outqOf (putFifo s f x) j = outqOf s j := rfl
@[simp] theorem streamOf_putFifo (f : Nat) (x : MsgFifo) (j : Nat) : streamOf (putFifo s f x) j = streamOf s j := rfl

/-! ### `putOutq` -/

@[simp] theorem putOutq_hw (q : Nat) (l : List OEntry) : (putOutq s q l).hw = s.hw := rfl
@[simp] theorem putOutq_regs (q : Nat) (l : List OEntry) : (putOutq s q l).regs = s.regs := rfl
@[simp] theorem putOutq_hold (q : Nat) (l : List OEntry) : (putOutq s q l).hold = s.hold := rfl
@[simp] theorem putOutq_bus (q : Nat) (l : List OEntry) : (putOutq s q l).bus = s.bus := rfl
@[simp] theorem putOutq_tb (q : Nat) (l : List OEntry) : (putOutq s q l).tb = s.tb := rfl
@[simp] theorem putOutq_tiles (q : Nat) (l : List OEntry) : (putOutq s q l).tiles = s.tiles := rfl
@[simp] theorem putOutq_dies (q : Nat) (l : List OEntry) : (putOutq s q l).dies = s.dies := rfl
@[simp] theorem putOutq_ex (q : Nat) (l : List OEntry) : (putOutq s q l).ex = s.ex := rfl
@[simp] theorem putOutq_run (q : Nat) (l : List OEntry) : (putOutq s q l).run = s.run := rfl
@[simp] theorem putOutq_img (q : Nat) (l : List OEntry) : (putOutq s q l).img = s.img := rfl
@[simp] theorem putOutq_banks (q : Nat) (l : List OEntry) : (putOutq s q l).banks = s.banks := rfl
@[simp] theorem putOutq_dram (q : Nat) (l : List OEntry) : (putOutq s q l).dram = s.dram := rfl
@[simp] theorem putOutq_rim (q : Nat) (l : List OEntry) : (putOutq s q l).rim = s.rim := rfl
@[simp] theorem putOutq_ports (q : Nat) (l : List OEntry) : (putOutq s q l).ports = s.ports := rfl
@[simp] theorem putOutq_mkh (q : Nat) (l : List OEntry) : (putOutq s q l).mkh = s.mkh := rfl
@[simp] theorem putOutq_saiga (q : Nat) (l : List OEntry) : (putOutq s q l).saiga = s.saiga := rfl
@[simp] theorem putOutq_msg (q : Nat) (l : List OEntry) : (putOutq s q l).msg = s.msg := rfl
@[simp] theorem putOutq_evl (q : Nat) (l : List OEntry) : (putOutq s q l).evl = s.evl := rfl
@[simp] theorem putOutq_cfg (q : Nat) (l : List OEntry) : (putOutq s q l).cfg = s.cfg := rfl
@[simp] theorem putOutq_keys (q : Nat) (l : List OEntry) : (putOutq s q l).keys = s.keys := rfl
@[simp] theorem putOutq_scr (q : Nat) (l : List OEntry) : (putOutq s q l).scr = s.scr := rfl
@[simp] theorem putOutq_recov (q : Nat) (l : List OEntry) : (putOutq s q l).recov = s.recov := rfl
@[simp] theorem putOutq_trc (q : Nat) (l : List OEntry) : (putOutq s q l).trc = s.trc := rfl
@[simp] theorem putOutq_pwr (q : Nat) (l : List OEntry) : (putOutq s q l).pwr = s.pwr := rfl
@[simp] theorem putOutq_tap (q : Nat) (l : List OEntry) : (putOutq s q l).tap = s.tap := rfl
@[simp] theorem putOutq_host (q : Nat) (l : List OEntry) : (putOutq s q l).host = s.host := rfl
@[simp] theorem putOutq_freeCount (q : Nat) (l : List OEntry) : (putOutq s q l).freeCount = s.freeCount := rfl
@[simp] theorem putOutq_pending (q : Nat) (l : List OEntry) : (putOutq s q l).pending = s.pending := rfl
@[simp] theorem getReg_putOutq (q : Nat) (l : List OEntry) (j : Nat) : getReg (putOutq s q l) j = getReg s j := rfl
@[simp] theorem tileOf_putOutq (q : Nat) (l : List OEntry) (j : Nat) : tileOf (putOutq s q l) j = tileOf s j := rfl
@[simp] theorem dieOf_putOutq (q : Nat) (l : List OEntry) (j : Nat) : dieOf (putOutq s q l) j = dieOf s j := rfl
@[simp] theorem bankOf_putOutq (q : Nat) (l : List OEntry) (j : Nat) : bankOf (putOutq s q l) j = bankOf s j := rfl
@[simp] theorem chanOf_putOutq (q : Nat) (l : List OEntry) (j : Nat) : chanOf (putOutq s q l) j = chanOf s j := rfl
@[simp] theorem portOf_putOutq (q : Nat) (l : List OEntry) (j : Nat) : portOf (putOutq s q l) j = portOf s j := rfl
@[simp] theorem mchanOf_putOutq (q : Nat) (l : List OEntry) (j : Nat) : mchanOf (putOutq s q l) j = mchanOf s j := rfl
@[simp] theorem queueOf_putOutq (q : Nat) (l : List OEntry) (j : Nat) : queueOf (putOutq s q l) j = queueOf s j := rfl
@[simp] theorem fifoOf_putOutq (q : Nat) (l : List OEntry) (j : Nat) : fifoOf (putOutq s q l) j = fifoOf s j := rfl
@[simp] theorem streamOf_putOutq (q : Nat) (l : List OEntry) (j : Nat) : streamOf (putOutq s q l) j = streamOf s j := rfl

/-! ### `modJob` -/

@[simp] theorem modJob_hw (q seq : Nat) (f : Job → Job) : (modJob s q seq f).hw = s.hw := rfl
@[simp] theorem modJob_regs (q seq : Nat) (f : Job → Job) : (modJob s q seq f).regs = s.regs := rfl
@[simp] theorem modJob_hold (q seq : Nat) (f : Job → Job) : (modJob s q seq f).hold = s.hold := rfl
@[simp] theorem modJob_bus (q seq : Nat) (f : Job → Job) : (modJob s q seq f).bus = s.bus := rfl
@[simp] theorem modJob_tb (q seq : Nat) (f : Job → Job) : (modJob s q seq f).tb = s.tb := rfl
@[simp] theorem modJob_tiles (q seq : Nat) (f : Job → Job) : (modJob s q seq f).tiles = s.tiles := rfl
@[simp] theorem modJob_dies (q seq : Nat) (f : Job → Job) : (modJob s q seq f).dies = s.dies := rfl
@[simp] theorem modJob_ex (q seq : Nat) (f : Job → Job) : (modJob s q seq f).ex = s.ex := rfl
@[simp] theorem modJob_run (q seq : Nat) (f : Job → Job) : (modJob s q seq f).run = s.run := rfl
@[simp] theorem modJob_img (q seq : Nat) (f : Job → Job) : (modJob s q seq f).img = s.img := rfl
@[simp] theorem modJob_banks (q seq : Nat) (f : Job → Job) : (modJob s q seq f).banks = s.banks := rfl
@[simp] theorem modJob_dram (q seq : Nat) (f : Job → Job) : (modJob s q seq f).dram = s.dram := rfl
@[simp] theorem modJob_aq (q seq : Nat) (f : Job → Job) : (modJob s q seq f).aq = s.aq := rfl
@[simp] theorem modJob_rim (q seq : Nat) (f : Job → Job) : (modJob s q seq f).rim = s.rim := rfl
@[simp] theorem modJob_ports (q seq : Nat) (f : Job → Job) : (modJob s q seq f).ports = s.ports := rfl
@[simp] theorem modJob_mkh (q seq : Nat) (f : Job → Job) : (modJob s q seq f).mkh = s.mkh := rfl
@[simp] theorem modJob_msg (q seq : Nat) (f : Job → Job) : (modJob s q seq f).msg = s.msg := rfl
@[simp] theorem modJob_evl (q seq : Nat) (f : Job → Job) : (modJob s q seq f).evl = s.evl := rfl
@[simp] theorem modJob_cfg (q seq : Nat) (f : Job → Job) : (modJob s q seq f).cfg = s.cfg := rfl
@[simp] theorem modJob_keys (q seq : Nat) (f : Job → Job) : (modJob s q seq f).keys = s.keys := rfl
@[simp] theorem modJob_scr (q seq : Nat) (f : Job → Job) : (modJob s q seq f).scr = s.scr := rfl
@[simp] theorem modJob_recov (q seq : Nat) (f : Job → Job) : (modJob s q seq f).recov = s.recov := rfl
@[simp] theorem modJob_trc (q seq : Nat) (f : Job → Job) : (modJob s q seq f).trc = s.trc := rfl
@[simp] theorem modJob_pwr (q seq : Nat) (f : Job → Job) : (modJob s q seq f).pwr = s.pwr := rfl
@[simp] theorem modJob_tap (q seq : Nat) (f : Job → Job) : (modJob s q seq f).tap = s.tap := rfl
@[simp] theorem modJob_host (q seq : Nat) (f : Job → Job) : (modJob s q seq f).host = s.host := rfl
@[simp] theorem modJob_freeCount (q seq : Nat) (f : Job → Job) : (modJob s q seq f).freeCount = s.freeCount := rfl
@[simp] theorem modJob_pending (q seq : Nat) (f : Job → Job) : (modJob s q seq f).pending = s.pending := rfl
@[simp] theorem getReg_modJob (q seq : Nat) (f : Job → Job) (j : Nat) : getReg (modJob s q seq f) j = getReg s j := rfl
@[simp] theorem tileOf_modJob (q seq : Nat) (f : Job → Job) (j : Nat) : tileOf (modJob s q seq f) j = tileOf s j := rfl
@[simp] theorem dieOf_modJob (q seq : Nat) (f : Job → Job) (j : Nat) : dieOf (modJob s q seq f) j = dieOf s j := rfl
@[simp] theorem bankOf_modJob (q seq : Nat) (f : Job → Job) (j : Nat) : bankOf (modJob s q seq f) j = bankOf s j := rfl
@[simp] theorem chanOf_modJob (q seq : Nat) (f : Job → Job) (j : Nat) : chanOf (modJob s q seq f) j = chanOf s j := rfl
@[simp] theorem portOf_modJob (q seq : Nat) (f : Job → Job) (j : Nat) : portOf (modJob s q seq f) j = portOf s j := rfl
@[simp] theorem mchanOf_modJob (q seq : Nat) (f : Job → Job) (j : Nat) : mchanOf (modJob s q seq f) j = mchanOf s j := rfl
@[simp] theorem fifoOf_modJob (q seq : Nat) (f : Job → Job) (j : Nat) : fifoOf (modJob s q seq f) j = fifoOf s j := rfl
@[simp] theorem inqOf_modJob (q seq : Nat) (f : Job → Job) (j : Nat) : inqOf (modJob s q seq f) j = inqOf s j := rfl
@[simp] theorem outqOf_modJob (q seq : Nat) (f : Job → Job) (j : Nat) : outqOf (modJob s q seq f) j = outqOf s j := rfl
@[simp] theorem streamOf_modJob (q seq : Nat) (f : Job → Job) (j : Nat) : streamOf (modJob s q seq f) j = streamOf s j := rfl

/-! ### `finishJob` -/

@[simp] theorem finishJob_hw (q seq st : Nat) (r d : Word) : (finishJob s q seq st r d).hw = s.hw := rfl
@[simp] theorem finishJob_regs (q seq st : Nat) (r d : Word) : (finishJob s q seq st r d).regs = s.regs := rfl
@[simp] theorem finishJob_hold (q seq st : Nat) (r d : Word) : (finishJob s q seq st r d).hold = s.hold := rfl
@[simp] theorem finishJob_bus (q seq st : Nat) (r d : Word) : (finishJob s q seq st r d).bus = s.bus := rfl
@[simp] theorem finishJob_tb (q seq st : Nat) (r d : Word) : (finishJob s q seq st r d).tb = s.tb := rfl
@[simp] theorem finishJob_tiles (q seq st : Nat) (r d : Word) : (finishJob s q seq st r d).tiles = s.tiles := rfl
@[simp] theorem finishJob_dies (q seq st : Nat) (r d : Word) : (finishJob s q seq st r d).dies = s.dies := rfl
@[simp] theorem finishJob_ex (q seq st : Nat) (r d : Word) : (finishJob s q seq st r d).ex = s.ex := rfl
@[simp] theorem finishJob_run (q seq st : Nat) (r d : Word) : (finishJob s q seq st r d).run = s.run := rfl
@[simp] theorem finishJob_img (q seq st : Nat) (r d : Word) : (finishJob s q seq st r d).img = s.img := rfl
@[simp] theorem finishJob_banks (q seq st : Nat) (r d : Word) : (finishJob s q seq st r d).banks = s.banks := rfl
@[simp] theorem finishJob_dram (q seq st : Nat) (r d : Word) : (finishJob s q seq st r d).dram = s.dram := rfl
@[simp] theorem finishJob_aq (q seq st : Nat) (r d : Word) : (finishJob s q seq st r d).aq = s.aq := rfl
@[simp] theorem finishJob_rim (q seq st : Nat) (r d : Word) : (finishJob s q seq st r d).rim = s.rim := rfl
@[simp] theorem finishJob_ports (q seq st : Nat) (r d : Word) : (finishJob s q seq st r d).ports = s.ports := rfl
@[simp] theorem finishJob_mkh (q seq st : Nat) (r d : Word) : (finishJob s q seq st r d).mkh = s.mkh := rfl
@[simp] theorem finishJob_msg (q seq st : Nat) (r d : Word) : (finishJob s q seq st r d).msg = s.msg := rfl
@[simp] theorem finishJob_evl (q seq st : Nat) (r d : Word) : (finishJob s q seq st r d).evl = s.evl := rfl
@[simp] theorem finishJob_cfg (q seq st : Nat) (r d : Word) : (finishJob s q seq st r d).cfg = s.cfg := rfl
@[simp] theorem finishJob_keys (q seq st : Nat) (r d : Word) : (finishJob s q seq st r d).keys = s.keys := rfl
@[simp] theorem finishJob_scr (q seq st : Nat) (r d : Word) : (finishJob s q seq st r d).scr = s.scr := rfl
@[simp] theorem finishJob_recov (q seq st : Nat) (r d : Word) : (finishJob s q seq st r d).recov = s.recov := rfl
@[simp] theorem finishJob_trc (q seq st : Nat) (r d : Word) : (finishJob s q seq st r d).trc = s.trc := rfl
@[simp] theorem finishJob_pwr (q seq st : Nat) (r d : Word) : (finishJob s q seq st r d).pwr = s.pwr := rfl
@[simp] theorem finishJob_tap (q seq st : Nat) (r d : Word) : (finishJob s q seq st r d).tap = s.tap := rfl
@[simp] theorem finishJob_host (q seq st : Nat) (r d : Word) : (finishJob s q seq st r d).host = s.host := rfl
@[simp] theorem finishJob_freeCount (q seq st : Nat) (r d : Word) : (finishJob s q seq st r d).freeCount = s.freeCount := rfl
@[simp] theorem finishJob_pending (q seq st : Nat) (r d : Word) : (finishJob s q seq st r d).pending = s.pending := rfl
@[simp] theorem getReg_finishJob (q seq st : Nat) (r d : Word) (j : Nat) : getReg (finishJob s q seq st r d) j = getReg s j := rfl
@[simp] theorem tileOf_finishJob (q seq st : Nat) (r d : Word) (j : Nat) : tileOf (finishJob s q seq st r d) j = tileOf s j := rfl
@[simp] theorem dieOf_finishJob (q seq st : Nat) (r d : Word) (j : Nat) : dieOf (finishJob s q seq st r d) j = dieOf s j := rfl
@[simp] theorem bankOf_finishJob (q seq st : Nat) (r d : Word) (j : Nat) : bankOf (finishJob s q seq st r d) j = bankOf s j := rfl
@[simp] theorem chanOf_finishJob (q seq st : Nat) (r d : Word) (j : Nat) : chanOf (finishJob s q seq st r d) j = chanOf s j := rfl
@[simp] theorem portOf_finishJob (q seq st : Nat) (r d : Word) (j : Nat) : portOf (finishJob s q seq st r d) j = portOf s j := rfl
@[simp] theorem mchanOf_finishJob (q seq st : Nat) (r d : Word) (j : Nat) : mchanOf (finishJob s q seq st r d) j = mchanOf s j := rfl
@[simp] theorem fifoOf_finishJob (q seq st : Nat) (r d : Word) (j : Nat) : fifoOf (finishJob s q seq st r d) j = fifoOf s j := rfl
@[simp] theorem inqOf_finishJob (q seq st : Nat) (r d : Word) (j : Nat) : inqOf (finishJob s q seq st r d) j = inqOf s j := rfl
@[simp] theorem outqOf_finishJob (q seq st : Nat) (r d : Word) (j : Nat) : outqOf (finishJob s q seq st r d) j = outqOf s j := rfl
@[simp] theorem streamOf_finishJob (q seq st : Nat) (r d : Word) (j : Nat) : streamOf (finishJob s q seq st r d) j = streamOf s j := rfl

/-! ### `raiseVector` -/

@[simp] theorem raiseVector_hw (v : Nat) : (raiseVector s v).hw = s.hw := by unfold raiseVector; split <;> rfl
@[simp] theorem raiseVector_regs (v : Nat) : (raiseVector s v).regs = s.regs := by unfold raiseVector; split <;> rfl
@[simp] theorem raiseVector_hold (v : Nat) : (raiseVector s v).hold = s.hold := by unfold raiseVector; split <;> rfl
@[simp] theorem raiseVector_bus (v : Nat) : (raiseVector s v).bus = s.bus := by unfold raiseVector; split <;> rfl
@[simp] theorem raiseVector_tb (v : Nat) : (raiseVector s v).tb = s.tb := by unfold raiseVector; split <;> rfl
@[simp] theorem raiseVector_tiles (v : Nat) : (raiseVector s v).tiles = s.tiles := by unfold raiseVector; split <;> rfl
@[simp] theorem raiseVector_dies (v : Nat) : (raiseVector s v).dies = s.dies := by unfold raiseVector; split <;> rfl
@[simp] theorem raiseVector_ex (v : Nat) : (raiseVector s v).ex = s.ex := by unfold raiseVector; split <;> rfl
@[simp] theorem raiseVector_run (v : Nat) : (raiseVector s v).run = s.run := by unfold raiseVector; split <;> rfl
@[simp] theorem raiseVector_img (v : Nat) : (raiseVector s v).img = s.img := by unfold raiseVector; split <;> rfl
@[simp] theorem raiseVector_banks (v : Nat) : (raiseVector s v).banks = s.banks := by unfold raiseVector; split <;> rfl
@[simp] theorem raiseVector_dram (v : Nat) : (raiseVector s v).dram = s.dram := by unfold raiseVector; split <;> rfl
@[simp] theorem raiseVector_aq (v : Nat) : (raiseVector s v).aq = s.aq := by unfold raiseVector; split <;> rfl
@[simp] theorem raiseVector_rim (v : Nat) : (raiseVector s v).rim = s.rim := by unfold raiseVector; split <;> rfl
@[simp] theorem raiseVector_ports (v : Nat) : (raiseVector s v).ports = s.ports := by unfold raiseVector; split <;> rfl
@[simp] theorem raiseVector_mkh (v : Nat) : (raiseVector s v).mkh = s.mkh := by unfold raiseVector; split <;> rfl
@[simp] theorem raiseVector_msg (v : Nat) : (raiseVector s v).msg = s.msg := by unfold raiseVector; split <;> rfl
@[simp] theorem raiseVector_evl (v : Nat) : (raiseVector s v).evl = s.evl := by unfold raiseVector; split <;> rfl
@[simp] theorem raiseVector_cfg (v : Nat) : (raiseVector s v).cfg = s.cfg := by unfold raiseVector; split <;> rfl
@[simp] theorem raiseVector_keys (v : Nat) : (raiseVector s v).keys = s.keys := by unfold raiseVector; split <;> rfl
@[simp] theorem raiseVector_scr (v : Nat) : (raiseVector s v).scr = s.scr := by unfold raiseVector; split <;> rfl
@[simp] theorem raiseVector_recov (v : Nat) : (raiseVector s v).recov = s.recov := by unfold raiseVector; split <;> rfl
@[simp] theorem raiseVector_trc (v : Nat) : (raiseVector s v).trc = s.trc := by unfold raiseVector; split <;> rfl
@[simp] theorem raiseVector_pwr (v : Nat) : (raiseVector s v).pwr = s.pwr := by unfold raiseVector; split <;> rfl
@[simp] theorem raiseVector_tap (v : Nat) : (raiseVector s v).tap = s.tap := by unfold raiseVector; split <;> rfl
@[simp] theorem raiseVector_host (v : Nat) : (raiseVector s v).host = s.host := by unfold raiseVector; split <;> rfl
@[simp] theorem raiseVector_freeCount (v : Nat) : (raiseVector s v).freeCount = s.freeCount := by unfold raiseVector; split <;> rfl
@[simp] theorem raiseVector_pending (v : Nat) : (raiseVector s v).pending = s.pending := by unfold raiseVector; split <;> rfl
@[simp] theorem getReg_raiseVector (v : Nat) (j : Nat) : getReg (raiseVector s v) j = getReg s j := by simp [getReg]
@[simp] theorem tileOf_raiseVector (v : Nat) (j : Nat) : tileOf (raiseVector s v) j = tileOf s j := by simp [tileOf]
@[simp] theorem dieOf_raiseVector (v : Nat) (j : Nat) : dieOf (raiseVector s v) j = dieOf s j := by simp [dieOf]
@[simp] theorem bankOf_raiseVector (v : Nat) (j : Nat) : bankOf (raiseVector s v) j = bankOf s j := by simp [bankOf]
@[simp] theorem chanOf_raiseVector (v : Nat) (j : Nat) : chanOf (raiseVector s v) j = chanOf s j := by simp [chanOf]
@[simp] theorem portOf_raiseVector (v : Nat) (j : Nat) : portOf (raiseVector s v) j = portOf s j := by simp [portOf]
@[simp] theorem mchanOf_raiseVector (v : Nat) (j : Nat) : mchanOf (raiseVector s v) j = mchanOf s j := by simp [mchanOf]
@[simp] theorem fifoOf_raiseVector (v : Nat) (j : Nat) : fifoOf (raiseVector s v) j = fifoOf s j := by simp [fifoOf]
@[simp] theorem inqOf_raiseVector (v : Nat) (j : Nat) : inqOf (raiseVector s v) j = inqOf s j := by simp [inqOf]
@[simp] theorem outqOf_raiseVector (v : Nat) (j : Nat) : outqOf (raiseVector s v) j = outqOf s j := by simp [outqOf]
@[simp] theorem streamOf_raiseVector (v : Nat) (j : Nat) : streamOf (raiseVector s v) j = streamOf s j := by simp [streamOf]

/-! ### `logEvent` -/

@[simp] theorem logEvent_hw (pg code : Nat) (d : Reg) : (logEvent s pg code d).hw = s.hw := by unfold logEvent; split <;> split <;> rfl
@[simp] theorem logEvent_hold (pg code : Nat) (d : Reg) : (logEvent s pg code d).hold = s.hold := by unfold logEvent; split <;> split <;> rfl
@[simp] theorem logEvent_bus (pg code : Nat) (d : Reg) : (logEvent s pg code d).bus = s.bus := by unfold logEvent; split <;> split <;> rfl
@[simp] theorem logEvent_tb (pg code : Nat) (d : Reg) : (logEvent s pg code d).tb = s.tb := by unfold logEvent; split <;> split <;> rfl
@[simp] theorem logEvent_tiles (pg code : Nat) (d : Reg) : (logEvent s pg code d).tiles = s.tiles := by unfold logEvent; split <;> split <;> rfl
@[simp] theorem logEvent_dies (pg code : Nat) (d : Reg) : (logEvent s pg code d).dies = s.dies := by unfold logEvent; split <;> split <;> rfl
@[simp] theorem logEvent_ex (pg code : Nat) (d : Reg) : (logEvent s pg code d).ex = s.ex := by unfold logEvent; split <;> split <;> rfl
@[simp] theorem logEvent_run (pg code : Nat) (d : Reg) : (logEvent s pg code d).run = s.run := by unfold logEvent; split <;> split <;> rfl
@[simp] theorem logEvent_img (pg code : Nat) (d : Reg) : (logEvent s pg code d).img = s.img := by unfold logEvent; split <;> split <;> rfl
@[simp] theorem logEvent_banks (pg code : Nat) (d : Reg) : (logEvent s pg code d).banks = s.banks := by unfold logEvent; split <;> split <;> rfl
@[simp] theorem logEvent_dram (pg code : Nat) (d : Reg) : (logEvent s pg code d).dram = s.dram := by unfold logEvent; split <;> split <;> rfl
@[simp] theorem logEvent_aq (pg code : Nat) (d : Reg) : (logEvent s pg code d).aq = s.aq := by unfold logEvent; split <;> split <;> rfl
@[simp] theorem logEvent_rim (pg code : Nat) (d : Reg) : (logEvent s pg code d).rim = s.rim := by unfold logEvent; split <;> split <;> rfl
@[simp] theorem logEvent_ports (pg code : Nat) (d : Reg) : (logEvent s pg code d).ports = s.ports := by unfold logEvent; split <;> split <;> rfl
@[simp] theorem logEvent_mkh (pg code : Nat) (d : Reg) : (logEvent s pg code d).mkh = s.mkh := by unfold logEvent; split <;> split <;> rfl
@[simp] theorem logEvent_saiga (pg code : Nat) (d : Reg) : (logEvent s pg code d).saiga = s.saiga := by unfold logEvent; split <;> split <;> rfl
@[simp] theorem logEvent_msg (pg code : Nat) (d : Reg) : (logEvent s pg code d).msg = s.msg := by unfold logEvent; split <;> split <;> rfl
@[simp] theorem logEvent_cfg (pg code : Nat) (d : Reg) : (logEvent s pg code d).cfg = s.cfg := by unfold logEvent; split <;> split <;> rfl
@[simp] theorem logEvent_keys (pg code : Nat) (d : Reg) : (logEvent s pg code d).keys = s.keys := by unfold logEvent; split <;> split <;> rfl
@[simp] theorem logEvent_recov (pg code : Nat) (d : Reg) : (logEvent s pg code d).recov = s.recov := by unfold logEvent; split <;> split <;> rfl
@[simp] theorem logEvent_trc (pg code : Nat) (d : Reg) : (logEvent s pg code d).trc = s.trc := by unfold logEvent; split <;> split <;> rfl
@[simp] theorem logEvent_pwr (pg code : Nat) (d : Reg) : (logEvent s pg code d).pwr = s.pwr := by unfold logEvent; split <;> split <;> rfl
@[simp] theorem logEvent_tap (pg code : Nat) (d : Reg) : (logEvent s pg code d).tap = s.tap := by unfold logEvent; split <;> split <;> rfl
@[simp] theorem logEvent_host (pg code : Nat) (d : Reg) : (logEvent s pg code d).host = s.host := by unfold logEvent; split <;> split <;> rfl
@[simp] theorem logEvent_freeCount (pg code : Nat) (d : Reg) : (logEvent s pg code d).freeCount = s.freeCount := by unfold logEvent; split <;> split <;> rfl
@[simp] theorem logEvent_pending (pg code : Nat) (d : Reg) : (logEvent s pg code d).pending = s.pending := by unfold logEvent; split <;> split <;> rfl
@[simp] theorem tileOf_logEvent (pg code : Nat) (d : Reg) (j : Nat) : tileOf (logEvent s pg code d) j = tileOf s j := by simp [tileOf]
@[simp] theorem dieOf_logEvent (pg code : Nat) (d : Reg) (j : Nat) : dieOf (logEvent s pg code d) j = dieOf s j := by simp [dieOf]
@[simp] theorem bankOf_logEvent (pg code : Nat) (d : Reg) (j : Nat) : bankOf (logEvent s pg code d) j = bankOf s j := by simp [bankOf]
@[simp] theorem chanOf_logEvent (pg code : Nat) (d : Reg) (j : Nat) : chanOf (logEvent s pg code d) j = chanOf s j := by simp [chanOf]
@[simp] theorem portOf_logEvent (pg code : Nat) (d : Reg) (j : Nat) : portOf (logEvent s pg code d) j = portOf s j := by simp [portOf]
@[simp] theorem mchanOf_logEvent (pg code : Nat) (d : Reg) (j : Nat) : mchanOf (logEvent s pg code d) j = mchanOf s j := by simp [mchanOf]
@[simp] theorem queueOf_logEvent (pg code : Nat) (d : Reg) (j : Nat) : queueOf (logEvent s pg code d) j = queueOf s j := by simp [queueOf]
@[simp] theorem fifoOf_logEvent (pg code : Nat) (d : Reg) (j : Nat) : fifoOf (logEvent s pg code d) j = fifoOf s j := by simp [fifoOf]
@[simp] theorem inqOf_logEvent (pg code : Nat) (d : Reg) (j : Nat) : inqOf (logEvent s pg code d) j = inqOf s j := by simp [inqOf]
@[simp] theorem outqOf_logEvent (pg code : Nat) (d : Reg) (j : Nat) : outqOf (logEvent s pg code d) j = outqOf s j := by simp [outqOf]
@[simp] theorem streamOf_logEvent (pg code : Nat) (d : Reg) (j : Nat) : streamOf (logEvent s pg code d) j = streamOf s j := by simp [streamOf]

/-! ### What an update puts where it writes -/

theorem getReg_setReg (a : Nat) (v : Reg) (b : Nat) : getReg (setReg s a v) b = if b = a then v else getReg s b := by
  unfold getReg setReg
  by_cases h : b = a
  · subst h; simp
  · simp [h]
    have : ∀ d e : Reg, Tbl.get d (Tbl.set e s.regs a v) b = Tbl.get d s.regs b := by
      intro d e
      unfold Tbl.set
      split
      · exact Tbl.get_del_ne d _ h
      · exact Tbl.get_put_ne d v _ h
    exact this _ _

@[simp] theorem getReg_setReg_same (a : Nat) (v : Reg) : getReg (setReg s a v) a = v := by simp [getReg_setReg]

theorem getReg_setReg_ne (a : Nat) (v : Reg) {b : Nat} (h : b ≠ a) : getReg (setReg s a v) b = getReg s b := by
  simp [getReg_setReg, h]

theorem tileOf_putTile (p : Nat) (x : Tile) (j : Nat) : tileOf (putTile s p x) j = if j = p then x else tileOf s j :=
  Tbl.get_set _ _ _ _ _
@[simp] theorem tileOf_putTile_same (p : Nat) (x : Tile) : tileOf (putTile s p x) p = x := by simp [tileOf_putTile]

theorem dieOf_putDie (d : Nat) (x : Die) (j : Nat) : dieOf (putDie s d x) j = if j = d then x else dieOf s j :=
  Tbl.get_set _ _ _ _ _
@[simp] theorem dieOf_putDie_same (d : Nat) (x : Die) : dieOf (putDie s d x) d = x := by simp [dieOf_putDie]

theorem bankOf_putBank (b : Nat) (x : Bank) (j : Nat) : bankOf (putBank s b x) j = if j = b then x else bankOf s j :=
  Tbl.get_set _ _ _ _ _
@[simp] theorem bankOf_putBank_same (b : Nat) (x : Bank) : bankOf (putBank s b x) b = x := by simp [bankOf_putBank]

theorem chanOf_putChan (c : Nat) (x : Chan) (j : Nat) : chanOf (putChan s c x) j = if j = c then x else chanOf s j :=
  Tbl.get_set _ _ _ _ _
@[simp] theorem chanOf_putChan_same (c : Nat) (x : Chan) : chanOf (putChan s c x) c = x := by simp [chanOf_putChan]

theorem portOf_putPort (n : Nat) (x : Port) (j : Nat) : portOf (putPort s n x) j = if j = n then x else portOf s j :=
  Tbl.get_set _ _ _ _ _
@[simp] theorem portOf_putPort_same (n : Nat) (x : Port) : portOf (putPort s n x) n = x := by simp [portOf_putPort]

theorem mchanOf_putMchan (c : Nat) (x : MChan) (j : Nat) : mchanOf (putMchan s c x) j = if j = c then x else mchanOf s j :=
  Tbl.get_set _ _ _ _ _
@[simp] theorem mchanOf_putMchan_same (c : Nat) (x : MChan) : mchanOf (putMchan s c x) c = x := by simp [mchanOf_putMchan]

theorem queueOf_putQueue (q : Nat) (x : SQueue) (j : Nat) : queueOf (putQueue s q x) j = if j = q then x else queueOf s j :=
  Tbl.get_set _ _ _ _ _
@[simp] theorem queueOf_putQueue_same (q : Nat) (x : SQueue) : queueOf (putQueue s q x) q = x := by simp [queueOf_putQueue]

theorem fifoOf_putFifo (f : Nat) (x : MsgFifo) (j : Nat) : fifoOf (putFifo s f x) j = if j = f then x else fifoOf s j :=
  Tbl.get_set _ _ _ _ _
@[simp] theorem fifoOf_putFifo_same (f : Nat) (x : MsgFifo) : fifoOf (putFifo s f x) f = x := by simp [fifoOf_putFifo]

theorem outqOf_putOutq (q : Nat) (x : List OEntry) (j : Nat) : outqOf (putOutq s q x) j = if j = q then x else outqOf s j :=
  Tbl.get_set _ _ _ _ _
@[simp] theorem outqOf_putOutq_same (q : Nat) (x : List OEntry) : outqOf (putOutq s q x) q = x := by simp [outqOf_putOutq]

@[simp] theorem putChan_dram_bytes (c : Nat) (x : Chan) : (putChan s c x).dram.bytes = s.dram.bytes := rfl
@[simp] theorem putChan_dram_lost (c : Nat) (x : Chan) : (putChan s c x).dram.lost = s.dram.lost := rfl
@[simp] theorem putChan_dram_rewritten (c : Nat) (x : Chan) : (putChan s c x).dram.rewritten = s.dram.rewritten := rfl
@[simp] theorem putChan_dram_losses (c : Nat) (x : Chan) : (putChan s c x).dram.losses = s.dram.losses := rfl
@[simp] theorem putChan_dram_lpddr (c : Nat) (x : Chan) : (putChan s c x).dram.lpddr = s.dram.lpddr := rfl
@[simp] theorem putChan_dram_ranks (c : Nat) (x : Chan) : (putChan s c x).dram.ranks = s.dram.ranks := rfl
@[simp] theorem putChan_dram_capLog2 (c : Nat) (x : Chan) : (putChan s c x).dram.capLog2 = s.dram.capLog2 := rfl
@[simp] theorem putQueue_saiga_jobs (q : Nat) (x : SQueue) : (putQueue s q x).saiga.jobs = s.saiga.jobs := rfl
@[simp] theorem putQueue_saiga_flags (q : Nat) (x : SQueue) : (putQueue s q x).saiga.flags = s.saiga.flags := rfl
@[simp] theorem putQueue_saiga_serial (q : Nat) (x : SQueue) : (putQueue s q x).saiga.serial = s.saiga.serial := rfl
@[simp] theorem putQueue_saiga_abort (q : Nat) (x : SQueue) : (putQueue s q x).saiga.abort = s.saiga.abort := rfl
@[simp] theorem putQueue_saiga_msixPend (q : Nat) (x : SQueue) : (putQueue s q x).saiga.msixPend = s.saiga.msixPend := rfl
@[simp] theorem putQueue_saiga_msixSent (q : Nat) (x : SQueue) : (putQueue s q x).saiga.msixSent = s.saiga.msixSent := rfl
@[simp] theorem putQueue_saiga_conds (q : Nat) (x : SQueue) : (putQueue s q x).saiga.conds = s.saiga.conds := rfl
@[simp] theorem modJob_saiga_queues (q seq : Nat) (f : Job → Job) : (modJob s q seq f).saiga.queues = s.saiga.queues := rfl
@[simp] theorem modJob_saiga_flags (q seq : Nat) (f : Job → Job) : (modJob s q seq f).saiga.flags = s.saiga.flags := rfl
@[simp] theorem modJob_saiga_serial (q seq : Nat) (f : Job → Job) : (modJob s q seq f).saiga.serial = s.saiga.serial := rfl
@[simp] theorem modJob_saiga_abort (q seq : Nat) (f : Job → Job) : (modJob s q seq f).saiga.abort = s.saiga.abort := rfl
@[simp] theorem modJob_saiga_msixPend (q seq : Nat) (f : Job → Job) : (modJob s q seq f).saiga.msixPend = s.saiga.msixPend := rfl
@[simp] theorem modJob_saiga_msixSent (q seq : Nat) (f : Job → Job) : (modJob s q seq f).saiga.msixSent = s.saiga.msixSent := rfl
@[simp] theorem modJob_saiga_conds (q seq : Nat) (f : Job → Job) : (modJob s q seq f).saiga.conds = s.saiga.conds := rfl
@[simp] theorem putOutq_aq_inq (q : Nat) (l : List OEntry) : (putOutq s q l).aq.inq = s.aq.inq := rfl

theorem setReg_regs_wf (a : Nat) (v : Reg) (h : Tbl.wf resetOf s.regs = true) :
    Tbl.wf resetOf (setReg s a v).regs = true := Tbl.wf_set resetOf s.regs a v h

end Sys2Proof.Machine
end

