-- ==== Sys2Proof/Laws/Finish.lean ====
section
/-!
SUPPORT. What `settle` and `finish` do: every command answers a next state, which differs from the state its effect left
only in the interrupt vectors, and whose vectors are settled (R375).
-/
namespace Sys2Proof.Machine

@[simp] theorem settle_hw (s : State) : (settle s).hw = s.hw := by unfold settle; dsimp only; split <;> rfl
@[simp] theorem settle_regs (s : State) : (settle s).regs = s.regs := by unfold settle; dsimp only; split <;> rfl
@[simp] theorem settle_hold (s : State) : (settle s).hold = s.hold := by unfold settle; dsimp only; split <;> rfl
@[simp] theorem settle_bus (s : State) : (settle s).bus = s.bus := by unfold settle; dsimp only; split <;> rfl
@[simp] theorem settle_tb (s : State) : (settle s).tb = s.tb := by unfold settle; dsimp only; split <;> rfl
@[simp] theorem settle_tiles (s : State) : (settle s).tiles = s.tiles := by unfold settle; dsimp only; split <;> rfl
@[simp] theorem settle_dies (s : State) : (settle s).dies = s.dies := by unfold settle; dsimp only; split <;> rfl
@[simp] theorem settle_ex (s : State) : (settle s).ex = s.ex := by unfold settle; dsimp only; split <;> rfl
@[simp] theorem settle_run (s : State) : (settle s).run = s.run := by unfold settle; dsimp only; split <;> rfl
@[simp] theorem settle_img (s : State) : (settle s).img = s.img := by unfold settle; dsimp only; split <;> rfl
@[simp] theorem settle_banks (s : State) : (settle s).banks = s.banks := by unfold settle; dsimp only; split <;> rfl
@[simp] theorem settle_dram (s : State) : (settle s).dram = s.dram := by unfold settle; dsimp only; split <;> rfl
@[simp] theorem settle_aq (s : State) : (settle s).aq = s.aq := by unfold settle; dsimp only; split <;> rfl
@[simp] theorem settle_rim (s : State) : (settle s).rim = s.rim := by unfold settle; dsimp only; split <;> rfl
@[simp] theorem settle_ports (s : State) : (settle s).ports = s.ports := by unfold settle; dsimp only; split <;> rfl
@[simp] theorem settle_mkh (s : State) : (settle s).mkh = s.mkh := by unfold settle; dsimp only; split <;> rfl
@[simp] theorem settle_msg (s : State) : (settle s).msg = s.msg := by unfold settle; dsimp only; split <;> rfl
@[simp] theorem settle_evl (s : State) : (settle s).evl = s.evl := by unfold settle; dsimp only; split <;> rfl
@[simp] theorem settle_cfg (s : State) : (settle s).cfg = s.cfg := by unfold settle; dsimp only; split <;> rfl
@[simp] theorem settle_keys (s : State) : (settle s).keys = s.keys := by unfold settle; dsimp only; split <;> rfl
@[simp] theorem settle_scr (s : State) : (settle s).scr = s.scr := by unfold settle; dsimp only; split <;> rfl
@[simp] theorem settle_recov (s : State) : (settle s).recov = s.recov := by unfold settle; dsimp only; split <;> rfl
@[simp] theorem settle_trc (s : State) : (settle s).trc = s.trc := by unfold settle; dsimp only; split <;> rfl
@[simp] theorem settle_pwr (s : State) : (settle s).pwr = s.pwr := by unfold settle; dsimp only; split <;> rfl
@[simp] theorem settle_tap (s : State) : (settle s).tap = s.tap := by unfold settle; dsimp only; split <;> rfl
@[simp] theorem settle_host (s : State) : (settle s).host = s.host := by unfold settle; dsimp only; split <;> rfl
@[simp] theorem settle_freeCount (s : State) : (settle s).freeCount = s.freeCount := by unfold settle; dsimp only; split <;> rfl
@[simp] theorem settle_pending (s : State) : (settle s).pending = s.pending := by unfold settle; dsimp only; split <;> rfl

/-- What the fold of `settle` does to the rest of the job part. -/
theorem foldSaiga_rest {P : Saiga → Prop} (f : Saiga → Nat → Saiga) (h : ∀ g v, P g → P (f g v)) (vs : List Nat) (g : Saiga)
    (hg : P g) : P (vs.foldl f g) := by
  induction vs generalizing g with
  | nil => exact hg
  | cons v vs ih => exact ih _ (h g v hg)

/-- `settle` changes only the vectors. -/
theorem settle_saiga (s : State) :
    { (settle s).saiga with conds := 0, msixPend := 0, msixSent := [] } =
      { s.saiga with conds := 0, msixPend := 0, msixSent := [] } := by
  unfold settle
  dsimp only
  split
  · rfl
  · dsimp only
    apply foldSaiga_rest (P := fun g => ({ ({ g with conds := vectorConds s } : Saiga) with conds := 0, msixPend := 0, msixSent := [] } : Saiga) =
      { s.saiga with conds := 0, msixPend := 0, msixSent := [] })
    · intro g v hg
      split
      · split
        · exact hg
        · exact hg
      · split
        · split <;> exact hg
        · exact hg
    · rfl

/-- The conditions of the vectors do not read the vectors. -/
theorem vectorConds_saiga (s : State) (g : Saiga) : vectorConds { s with saiga := g } = vectorConds s := rfl

@[simp] theorem vectorConds_settle (s : State) : vectorConds (settle s) = vectorConds s := by
  unfold settle; dsimp only; split <;> rfl

@[simp] theorem masked_settle (s : State) (v : Nat) : masked (settle s) v = masked s v := by
  unfold settle; dsimp only; split <;> rfl

/-- The bits of a single placed bit. -/
theorem place64_bit (v w : Nat) (hv : v < 64) : (place 64 v 1 1).getLsbD w = decide (w = v) := by
  unfold place
  rw [BitVec.getLsbD_ofNat]
  simp only [Nat.pow_one, Nat.one_mod, Nat.one_mul, Nat.testBit_two_pow]
  by_cases h : v = w
  · subst h; simp [hv]
  · simp [h, Ne.symm h]

/-- After the fold over vectors below `k`, each of them that is pending is masked. -/
theorem settle_fold (m : Nat → Bool) (f : Saiga → Nat → Saiga)
    (same : ∀ g v, v < 64 → (f g v).msixPend.getLsbD v = true → m v = true)
    (other : ∀ g v w, v < 64 → w < 64 → w ≠ v → (f g v).msixPend.getLsbD w = g.msixPend.getLsbD w) (k : Nat) (hk : k ≤ 64) (g : Saiga) :
    ∀ w, w < k → ((List.range k).foldl f g).msixPend.getLsbD w = true → m w = true := by
  induction k with
  | zero => intro w hw; omega
  | succ k ih =>
    intro w hw h
    rw [List.range_succ, List.foldl_append] at h
    by_cases hwk : w = k
    · subst hwk; exact same _ _ (by omega) h
    · exact ih (by omega) w (by omega) (by rw [← other _ k w (by omega) (by omega) hwk]; exact h)

/-- After `settle` the vectors are settled, whatever they were before (R375). -/
theorem settle_settled (s : State) : (settle s).Settled := by
  refine ⟨?_, ?_⟩
  · rw [vectorConds_settle]
    unfold settle
    dsimp only
    split
    · exact Eq.symm (And.left ‹_›)
    · rfl
  · intro v hv
    rw [masked_settle]
    by_cases hv64 : v < 64
    · unfold settle at hv
      dsimp only at hv
      split at hv
      · rename_i h
        simp [h.2] at hv
      · refine settle_fold (masked s) _ ?_ ?_ 64 (Nat.le_refl _) s.saiga v hv64 hv
        · intro g v hv h
          by_cases hm : masked s v = true
          · exact hm
          · simp only [hm] at h
            exfalso
            revert h
            split
            · simp [Saiga.send, place64_bit v v hv]
            · split
              · split <;> simp [Saiga.send, place64_bit v v hv]
              · simp_all
        · clear hv
          intro g v w hv hw64 hw
          have hp : (place 64 v 1 1)[w] = false := by
            rw [← BitVec.getLsbD_eq_getElem]
            simp [place64_bit v w hv, hw]
          split
          · split <;> simp [Saiga.send, hp, hw64]
          · split
            · split <;> simp [Saiga.send, hp, hw64]
            · rfl
    · simp [BitVec.getLsbD_of_ge _ v (by omega : 64 ≤ v)] at hv

/-- Every command answers a next state. -/
theorem exec_next (c : Instr) (s : State) : ∃ u, exec c s = .next (settle u) := by
  cases c <;> exact ⟨_, rfl⟩

end Sys2Proof.Machine
end

