-- ==== Sys2Proof/Laws/Frame.lean ====
section
/-!
SUPPORT. Frames: how `Only` composes, what each named update changes at most, and that `settle` adds nothing to a frame.
-/
namespace Sys2Proof.Machine

theorem same_refl (s : State) (x : Part) : x.Same s s := by cases x <;> simp [Part.Same]

theorem only_refl (ps : List Part) (s : State) : Only ps s s := fun x _ => same_refl s x

theorem same_trans {s t u : State} {x : Part} (h : x.Same s t) (k : x.Same t u) : x.Same s u := by
  cases x <;> simp_all [Part.Same]

theorem only_trans {ps : List Part} {s t u : State} (h : Only ps s t) (k : Only ps t u) : Only ps s u :=
  fun x hx => same_trans (h x hx) (k x hx)

theorem only_mono {ps qs : List Part} {s t : State} (hpq : ∀ x, x ∈ ps → x ∈ qs) (h : Only ps s t) : Only qs s t :=
  fun x hx => h x (fun hp => hx (hpq x hp))

@[simp] theorem settle_queues (s : State) : (settle s).saiga.queues = s.saiga.queues := by
  have h := congrArg Saiga.queues (settle_saiga s)
  exact h
@[simp] theorem settle_jobs (s : State) : (settle s).saiga.jobs = s.saiga.jobs := by
  have h := congrArg Saiga.jobs (settle_saiga s)
  exact h
@[simp] theorem settle_flags (s : State) : (settle s).saiga.flags = s.saiga.flags := by
  have h := congrArg Saiga.flags (settle_saiga s)
  exact h
@[simp] theorem settle_fresh (s : State) : (settle s).saiga.fresh = s.saiga.fresh := by
  have h := congrArg Saiga.fresh (settle_saiga s)
  exact h
@[simp] theorem settle_serial (s : State) : (settle s).saiga.serial = s.saiga.serial := by
  have h := congrArg Saiga.serial (settle_saiga s)
  exact h
@[simp] theorem settle_abort (s : State) : (settle s).saiga.abort = s.saiga.abort := by
  have h := congrArg Saiga.abort (settle_saiga s)
  exact h
@[simp] theorem settle_abortRes (s : State) : (settle s).saiga.abortRes = s.saiga.abortRes := by
  have h := congrArg Saiga.abortRes (settle_saiga s)
  exact h
@[simp] theorem settle_abortCnt (s : State) : (settle s).saiga.abortCnt = s.saiga.abortCnt := by
  have h := congrArg Saiga.abortCnt (settle_saiga s)
  exact h

theorem same_settle (s u : State) (x : Part) : x.Same s (settle u) ↔ x.Same s u := by
  cases x <;> simp [Part.Same, getReg, tileOf, dieOf, bankOf, chanOf, portOf, fifoOf, inqOf, outqOf, dramByte, buffered, lineErr, queueOf]

theorem only_settle {ps : List Part} {s u : State} : Only ps s (settle u) ↔ Only ps s u :=
  ⟨fun h x hx => (same_settle s u x).1 (h x hx), fun h x hx => (same_settle s u x).2 (h x hx)⟩

/-- A command that ends in `u` answers `settle u`. -/
theorem answers_of {c : Instr} {s u : State} {P : State → Prop} (he : exec c s = finish u) (h : P (settle u)) :
    Answers c s P := ⟨settle u, he, h⟩

/-! ### What `settle` leaves of the places -/

@[simp] theorem getReg_settle (s : State) (a : Nat) : getReg (settle s) a = getReg s a := by simp [getReg]
@[simp] theorem tileOf_settle (s : State) (p : Nat) : tileOf (settle s) p = tileOf s p := by simp [tileOf]
@[simp] theorem dieOf_settle (s : State) (d : Nat) : dieOf (settle s) d = dieOf s d := by simp [dieOf]
@[simp] theorem bankOf_settle (s : State) (b : Nat) : bankOf (settle s) b = bankOf s b := by simp [bankOf]
@[simp] theorem chanOf_settle (s : State) (c : Nat) : chanOf (settle s) c = chanOf s c := by simp [chanOf]
@[simp] theorem portOf_settle (s : State) (n : Nat) : portOf (settle s) n = portOf s n := by simp [portOf]
@[simp] theorem mchanOf_settle (s : State) (c : Nat) : mchanOf (settle s) c = mchanOf s c := by simp [mchanOf]
@[simp] theorem fifoOf_settle (s : State) (f : Nat) : fifoOf (settle s) f = fifoOf s f := by simp [fifoOf]
@[simp] theorem inqOf_settle (s : State) (q : Nat) : inqOf (settle s) q = inqOf s q := by simp [inqOf]
@[simp] theorem outqOf_settle (s : State) (q : Nat) : outqOf (settle s) q = outqOf s q := by simp [outqOf]
@[simp] theorem streamOf_settle (s : State) (k : Nat) : streamOf (settle s) k = streamOf s k := by simp [streamOf]
@[simp] theorem queueOf_settle (s : State) (q : Nat) : queueOf (settle s) q = queueOf s q := by
  simp [queueOf]
@[simp] theorem dramByte_settle (s : State) (a : Nat) : dramByte (settle s) a = dramByte s a := by
  simp [dramByte, buffered, chanOf]

/-! ### What each update changes at most -/

theorem only_setReg (s : State) (a : Nat) (v : Reg) : Only [.regs, .scr] s (setReg s a v) := by
  intro x hx; cases x <;> first | (exfalso; revert hx; decide) | simp [Part.Same, dramByte, buffered, lineErr]
theorem only_putTile (s : State) (p : Nat) (x : Tile) : Only [.tiles] s (putTile s p x) := by
  intro x hx; cases x <;> first | (exfalso; revert hx; decide) | simp [Part.Same, dramByte, buffered, lineErr]
theorem only_putDie (s : State) (d : Nat) (x : Die) : Only [.dies] s (putDie s d x) := by
  intro x hx; cases x <;> first | (exfalso; revert hx; decide) | simp [Part.Same, dramByte, buffered, lineErr]
theorem only_putBank (s : State) (b : Nat) (x : Bank) : Only [.banks] s (putBank s b x) := by
  intro x hx; cases x <;> first | (exfalso; revert hx; decide) | simp [Part.Same, dramByte, buffered, lineErr]
theorem only_putChan (s : State) (c : Nat) (x : Chan) : Only [.dram] s (putChan s c x) := by
  intro x hx; cases x <;> first | (exfalso; revert hx; decide) | simp [Part.Same]
theorem only_putPort (s : State) (n : Nat) (x : Port) : Only [.ports] s (putPort s n x) := by
  intro x hx; cases x <;> first | (exfalso; revert hx; decide) | simp [Part.Same, dramByte, buffered, lineErr]
theorem only_putMchan (s : State) (c : Nat) (x : MChan) : Only [.mkh] s (putMchan s c x) := by
  intro x hx; cases x <;> first | (exfalso; revert hx; decide) | simp [Part.Same, dramByte, buffered, lineErr]
theorem only_putQueue (s : State) (q : Nat) (x : SQueue) : Only [.saiga] s (putQueue s q x) := by
  intro x hx; cases x <;> first | (exfalso; revert hx; decide) | simp [Part.Same, dramByte, buffered, lineErr]
theorem only_putFifo (s : State) (f : Nat) (x : MsgFifo) : Only [.msg] s (putFifo s f x) := by
  intro x hx; cases x <;> first | (exfalso; revert hx; decide) | simp [Part.Same, dramByte, buffered, lineErr]
theorem only_putOutq (s : State) (q : Nat) (l : List OEntry) : Only [.aq] s (putOutq s q l) := by
  intro x hx; cases x <;> first | (exfalso; revert hx; decide) | simp [Part.Same, dramByte, buffered, lineErr]
theorem only_modJob (s : State) (q seq : Nat) (f : Job → Job) : Only [.saiga] s (modJob s q seq f) := by
  intro x hx; cases x <;> first | (exfalso; revert hx; decide) | simp [Part.Same, dramByte, buffered, lineErr]
theorem only_raiseVector (s : State) (v : Nat) : Only [] s (raiseVector s v) := by
  intro x _; cases x <;> simp [Part.Same, dramByte, buffered, lineErr]
  refine ⟨?_, ?_, ?_, ?_⟩ <;> unfold raiseVector <;> split <;> simp [Saiga.send, queueOf]
theorem only_stick (s : State) (pg b : Nat) : Only [.regs, .scr] s (stick s pg b) :=
  only_trans (only_setReg _ _ _) (only_setReg _ _ _)
theorem only_logEvent (s : State) (pg code : Nat) (d : Reg) : Only [.regs, .scr, .evl] s (logEvent s pg code d) := by
  intro x hx
  cases x <;> first | (exfalso; revert hx; decide) | simp [Part.Same, dramByte, buffered, lineErr]

/-- A collision shows in the bank's registers and the event log only (R198). -/
theorem only_collide (s : State) (x w : Nat) : Only [.regs, .scr, .evl] s (collide s x w) := by
  have up : ∀ {u v : State}, Only [.regs, .scr] u v → Only [.regs, .scr, .evl] u v :=
    fun h => only_mono (by simp) h
  exact only_trans (up (only_trans (only_trans (only_setReg _ _ _) (only_setReg _ _ _)) (only_stick _ _ _)))
    (only_logEvent _ _ _ _)

end Sys2Proof.Machine
end

