-- ==== Sys2Proof/Laws/Memory.lean ====
section
/-!
SUPPORT. The laws of the addressed memories (DRAM, host memory): a read after a write, and the canonical form kept by
every memory operation.
-/
namespace Sys2Proof.Machine

/-! ### Canonical form -/

/-- The DRAM bytes are canonical. -/
def Dram.wf (m : Dram) : Bool := Tbl.wf (fun _ => (0 : Byte)) m.bytes

theorem Dram.put_wf (m : Dram) (a : Nat) (b : Byte) (h : m.wf = true) : (m.put a b).wf = true :=
  Tbl.wf_set (fun _ => (0 : Byte)) m.bytes a b h

theorem Dram.putAll_wf (m : Dram) (a : Nat) (bs : List Byte) (h : m.wf = true) : (m.putAll a bs).wf = true := by
  induction bs generalizing m a with
  | nil => exact h
  | cons b bs ih => exact ih _ _ (m.put_wf a b h)

theorem writeBack_wf (m : Dram) (r : DReq) (h : m.wf = true) : (writeBack m r).wf = true := by
  unfold writeBack
  generalize List.range 64 = l
  induction l generalizing m with
  | nil => exact h
  | cons k l ih =>
    simp only [List.foldl_cons]
    split
    · exact ih _ (m.put_wf _ _ h)
    · exact ih _ h

/-- Channel bookkeeping leaves the bytes of the devices alone. -/
@[simp] theorem putChan_bytes (s : State) (c : Nat) (x : Chan) : (putChan s c x).dram.bytes = s.dram.bytes := rfl

@[simp] theorem wakeLine_bytes (s : State) (l : Nat) : (wakeLine s l).dram.bytes = s.dram.bytes := rfl

@[simp] theorem activate_bytes (s : State) (l : Nat) : (activate s l).dram.bytes = s.dram.bytes := by
  unfold activate
  simp only [apply_ite State.dram, bump_dram, ite_self]
  simp

@[simp] theorem uncorrectable_bytes (s : State) (l : Nat) : (uncorrectable s l).dram.bytes = s.dram.bytes := rfl

@[simp] theorem eccReport_bytes (s : State) (l : Nat) (e : DramErr) : (eccReport s l e).dram.bytes = s.dram.bytes := by
  unfold eccReport
  split
  · rfl
  · unfold corrected errAddr
    dsimp only
    split
    · rfl
    · split <;> simp
  · simp [dramUe]

@[simp] theorem corrected_bytes (s : State) (l k d : Nat) : (corrected s l k d).dram.bytes = s.dram.bytes := by
  unfold corrected errAddr
  dsimp only
  split
  · rfl
  · split <;> simp

@[simp] theorem eccRead_bytes (s : State) (l : Nat) : (eccRead s l).dram.bytes = s.dram.bytes := eccReport_bytes s l _

@[simp] theorem arrives_bytes (s : State) (l stp : Nat) : (arrives s l stp).dram.bytes = s.dram.bytes := by
  unfold arrives
  dsimp only
  split <;> simp

/-- An error that strikes a line changes no stored byte: what it makes unknown is noted as lost. -/
theorem strikeOne_bytes (m : Dram) (e : LineErr) : (m.strikeOne e).bytes = m.bytes := by
  unfold Dram.strikeOne
  dsimp only
  split <;> rfl

theorem strike_wf (s : State) (es : List LineErr) (h : s.dram.wf = true) : (strike s es).dram.wf = true := by
  unfold strike
  generalize hm : s.dram = m at h ⊢
  clear hm
  induction es generalizing m with
  | nil => exact h
  | cons e es ih => exact ih _ (by simpa [Dram.wf, strikeOne_bytes] using h)

theorem drainOne_wf (s : State) (ch i : Nat) (h : s.dram.wf = true) : (drainOne s ch i).dram.wf = true := by
  unfold drainOne
  dsimp only
  split
  · exact h
  · refine writeBack_wf _ _ ?_
    split <;> simpa [Dram.wf] using h

theorem Dram.mend_wf (m : Dram) (l : Nat) (h : m.wf = true) : (m.mend l).wf = true := h

theorem endTransfer_wf (s : State) (l : Nat) (h : s.dram.wf = true) : (endTransfer s l).dram.wf = true := h

theorem readUe_wf (s : State) (l : Nat) (h : s.dram.wf = true) : (readUe s l).1.dram.wf = true := by
  unfold readUe
  dsimp only
  split
  · exact h
  · split
    · simpa [Dram.wf] using h
    · exact Dram.mend_wf _ _ (Dram.putAll_wf _ _ _ (by simpa [Dram.wf] using h))

theorem readRow_wf (s : State) (l : Nat) (h : s.dram.wf = true) : (readRow s l).1.dram.wf = true := by
  have ha : (activate s l).dram.wf = true := by simpa [Dram.wf] using h
  unfold readRow
  dsimp only
  split
  · exact h
  · split
    · exact endTransfer_wf _ _ ha
    · exact endTransfer_wf _ _ (by simpa [Dram.wf] using h)
    · exact endTransfer_wf _ _ (readUe_wf _ _ ha)

theorem readDone_wf (s : State) (ch : Nat) (r : DReq) (h : s.dram.wf = true) : (readDone s ch r).dram.wf = true := by
  unfold readDone
  dsimp only
  split
  · exact readRow_wf s r.line h
  · exact readRow_wf s r.line h

theorem settleOne_wf (s : State) (ch : Nat) (h : s.dram.wf = true) : (settleOne s ch).dram.wf = true := by
  unfold settleOne
  dsimp only
  split
  · split
    · exact readDone_wf _ _ _ (by simpa [Dram.wf] using h)
    · exact h
  · split
    · exact drainOne_wf _ _ _ h
    · exact h

theorem settleAged_wf (s : State) (ch : Nat) (h : s.dram.wf = true) : (settleAged s ch).dram.wf = true := by
  unfold settleAged
  dsimp only
  generalize List.range _ = l
  induction l generalizing s with
  | nil => exact h
  | cons x l ih => exact ih _ (settleOne_wf _ _ h)

theorem readLine_wf (s : State) (stp line : Nat) (h : s.dram.wf = true) : (readLine stp s line).dram.wf = true := by
  have ha : (arrives s line stp).dram.wf = true := by simpa [Dram.wf] using h
  unfold readLine
  dsimp only
  split
  · exact ha
  · simpa [Dram.wf] using settleAged_wf _ _ ha

/-- What a read leaves behind is canonical. -/
theorem dramFetch_wf (s : State) (a n stp : Nat) (h : s.dram.wf = true) : (dramFetch s a n stp).dram.wf = true := by
  unfold dramFetch
  split
  · exact h
  · generalize linesOf a n = l
    induction l generalizing s with
    | nil => exact h
    | cons x l ih => exact ih _ (readLine_wf _ _ _ h)

theorem putChan_wf (s : State) (c : Nat) (x : Chan) (h : s.dram.wf = true) : (putChan s c x).dram.wf = true := h

theorem writeLine_wf (s : State) (stp line : Nat) (mask : BitVec 64) (data : BitVec 512) (h : s.dram.wf = true) :
    (writeLine s stp line mask data).dram.wf = true := by
  have ha : (arrives s line stp).dram.wf = true := by simpa [Dram.wf] using h
  have hs := settleAged_wf _ (channelOf (64 * line)) ha
  unfold writeLine
  refine putChan_wf _ _ _ ?_
  generalize arrives s line stp = u at ha hs ⊢
  split
  · generalize settleAged u (channelOf (64 * line)) = v at hs ⊢
    dsimp only
    split
    · exact drainOne_wf _ _ _ hs
    · exact hs
  · exact ha

theorem dramWriteSome_wf (s : State) (a : Nat) (bs : List Byte) (keep : Nat → Bool) (stp : Nat) (h : s.dram.wf = true) :
    (dramWriteSome s a bs keep stp).dram.wf = true := by
  unfold dramWriteSome
  split
  · exact h
  · generalize linesOf a bs.length = l
    induction l generalizing s with
    | nil => exact h
    | cons x l ih =>
      simp only [List.foldl_cons]
      split
      · exact ih _ h
      · exact ih _ (writeLine_wf _ _ _ _ _ h)

theorem dramWrite_wf (s : State) (a : Nat) (bs : List Byte) (stp : Nat) (h : s.dram.wf = true) :
    (dramWrite s a bs stp).dram.wf = true := dramWriteSome_wf s a bs _ stp h

theorem hostWrite_wf (s : State) (a : Nat) (bs : List Byte) (h : Tbl.wf (fun _ => (0 : Byte)) s.host = true) :
    Tbl.wf (fun _ => (0 : Byte)) (hostWrite s a bs).host = true := by
  induction bs generalizing s a with
  | nil => exact h
  | cons b bs ih => exact ih _ _ (Tbl.wf_set (fun _ => (0 : Byte)) s.host a b h)

/-! ### Host memory -/

/-- A byte of host memory as the device wrote it. -/
theorem hostWrite_get (s : State) (a : Nat) (bs : List Byte) (x : Nat) :
    Tbl.get 0 (hostWrite s a bs).host x =
      if a ≤ x ∧ x < a + bs.length then bs.getD (x - a) 0 else Tbl.get 0 s.host x := by
  induction bs generalizing s a with
  | nil => simp [hostWrite]
  | cons b bs ih =>
    rw [hostWrite, ih]
    rcases Nat.lt_trichotomy x a with h | h | h
    · rw [if_neg (by simp; omega), if_neg (by simp; omega)]
      exact Tbl.get_set_ne _ _ _ (by omega)
    · subst h
      rw [if_neg (by omega), if_pos (by simp)]
      simp
    · by_cases h2 : x < a + 1 + bs.length
      · rw [if_pos ⟨h, h2⟩, if_pos (by simp; omega)]
        rw [show x - a = (x - (a + 1)) + 1 by omega]
        simp
      · rw [if_neg (by omega), if_neg (by simp; omega)]
        exact Tbl.get_set_ne _ _ _ (by omega)

/-! ### DRAM -/

/-- A byte just written to the memory devices reads back, and no other changes. -/
theorem Dram.cell_put (m : Dram) (a : Nat) (b : Byte) (x : Nat) :
    (m.put a b).cell x = if x = a then b else m.cell x := by
  by_cases hl : m.lost.isEmpty
  · have : m.lost = [] := by simpa using hl
    simp only [Dram.cell, Dram.lossAt, Dram.put, this]
    by_cases h : x = a
    · subst h; simp
    · simp [h, Tbl.get_set_ne]
  · by_cases h : x = a
    · subst h
      simp [Dram.cell, Dram.lossAt, Dram.put, hl]
    · simp [Dram.cell, Dram.lossAt, Dram.put, hl, h, Tbl.get_set_ne]

end Sys2Proof.Machine
end

