-- ==== Sys2Proof/Tests/Slice0.lean ====
section
/-!
SUPPORT. Tests: ill-formed commands that WellFormed refuses, examples and tables of the spec, and for every statement with
hypotheses a witness: for each of its clauses a concrete state and operands that meet all of them together.
-/
namespace Sys2Proof
open Machine

/-! ### Builders of small states -/

namespace Wit

def z : State := State.reset
def rg (a v : Nat) (s : State) : State := setReg s a (BitVec.ofNat 32 v)
def tl (p : Nat) (f : Tile → Tile) (s : State) : State := putTile s p (f (tileOf s p))
def stf (p : Nat) (f : Store → Store) (s : State) : State := tl p (fun t => { t with st := f t.st }) s
def un (p : Nat) (f : Units → Units) (s : State) : State := tl p (fun t => { t with un := f t.un }) s
def di (d : Nat) (f : Die → Die) (s : State) : State := putDie s d (f (dieOf s d))
def bk (b : Nat) (f : Bank → Bank) (s : State) : State := putBank s b (f (bankOf s b))
def ch (c : Nat) (f : Chan → Chan) (s : State) : State := putChan s c (f (chanOf s c))
def pt (n : Nat) (f : Port → Port) (s : State) : State := putPort s n (f (portOf s n))
def mc (c : Nat) (f : MChan → MChan) (s : State) : State := putMchan s c (f (mchanOf s c))
def qu (q : Nat) (f : SQueue → SQueue) (s : State) : State := putQueue s q (f (queueOf s q))
def ff (n : Nat) (f : MsgFifo → MsgFifo) (s : State) : State := putFifo s n (f (fifoOf s n))
def rn (f : Run → Run) (s : State) : State := { s with run := f s.run }
def im (f : Image → Image) (s : State) : State := { s with img := f s.img }
def ex (f : Exch → Exch) (s : State) : State := { s with ex := f s.ex }
def cf (f : Cfg → Cfg) (s : State) : State := { s with cfg := f s.cfg }
def rm (f : Rim → Rim) (s : State) : State := { s with rim := f s.rim }
def mk (f : Mkh → Mkh) (s : State) : State := { s with mkh := f s.mkh }
def sg (f : Saiga → Saiga) (s : State) : State := { s with saiga := f s.saiga }
def ky (f : Keys → Keys) (s : State) : State := { s with keys := f s.keys }
def sc (f : Scr → Scr) (s : State) : State := { s with scr := f s.scr }
def rv (f : Recov → Recov) (s : State) : State := { s with recov := f s.recov }
def tc (f : Trc → Trc) (s : State) : State := { s with trc := f s.trc }
def pw (f : Pwr → Pwr) (s : State) : State := { s with pwr := f s.pwr }
def hw (f : Hw → Hw) (s : State) : State := { s with hw := f s.hw }
def dr (f : Dram → Dram) (s : State) : State := { s with dram := f s.dram }
def aq (f : Aq → Aq) (s : State) : State := { s with aq := f s.aq }

/-- The first `n` logical tiles of die 0 are used, in an active run. -/
def act (n : Nat) (s : State) : State :=
  { s with img := { s.img with tiles := BitVec.ofNat 64 (2 ^ n - 1) }, run := { s.run with active := true } }

theorem settled_of (s : State) (h1 : s.saiga.conds = vectorConds s) (h2 : s.saiga.msixPend = 0) : s.Settled :=
  ⟨h1, by intro v h; simp [h2] at h⟩

/-- An issue of unit `u`, operation `op`. -/
def mkI (u op w : Nat) : Issue := { unit := u, op := op, band := 0, word := BitVec.ofNat 64 w, cyc := 0, step := 0 }
def iss (p : Nat) (i : Issue) (s : State) : State := un p (fun u => { u with issues := u.issues ++ [i] }) s

/-- A packet of a link port with these words, as blocks without errors. -/
def pk (kind vc seq : Nat) (ws : List Word) : LinkPkt :=
  { blocks := Pkt.frame { vc := vc, kind := kind, seq := seq, words := ws }, errs := [] }

/-- The one packet of what arrives. -/
def fr (k : LinkPkt) : Frame :=
  match framing k.blocks with
  | .whole f => f
  | _ => { sop := 0, payload := [], eop := 0 }

/-- The comma of a lane. -/
def comma (dev prt lane act : Nat) : BitVec 66 :=
  let c := place 66 0 2 2 ||| place 66 2 40 0x2B9E64D1C7 ||| place 66 42 4 dev ||| place 66 46 5 prt ||| place 66 51 2 lane |||
    place 66 53 4 act
  c ||| place 66 58 8 (commaCrc c).toNat

/-- A job of queue 3 with number 9: executor, operation, flags, context, and parameters at byte offsets. -/
def mkJ (ph : JobPhase) (x op fl cx : Nat) (ps : List (Nat × Nat)) : Job :=
  { q := 3, seq := 9, phase := ph, order := 0, status := 0, result := 0, detail := 0, workDone := false, aborted := false,
    holds := false, met := [], olds := [],
    desc := BitVec.ofNat 512 (x + 2 ^ 8 * op + 2 ^ 16 * fl + 2 ^ 24 * cx + (ps.map (fun e => e.2 * 2 ^ (8 * e.1))).sum) }

/-- Saiga holds the one job. -/
def jb (j : Job) (s : State) : State := sg (fun g => { g with jobs := [j] }) s

/-- An image that uses no tile. -/

def img0 : List Byte :=
  leBytes 4 0x564B5A49 ++ leBytes 4 1 ++ leBytes 4 32 ++ leBytes 4 1 ++ leBytes 8 256 ++ List.replicate 232 0

/-- A section with one subsection for every device. -/
def sect (c : List Byte) : List Byte :=
  [0xFF, 0, 0, 0, 0, 0, 0, 0] ++ leBytes 8 c.length ++ List.replicate 48 0 ++ c ++ List.replicate ((64 - c.length % 64) % 64) 0
def sectTable : Nat → List (Nat × List Byte) → List Byte
  | _, [] => []
  | o, e :: es => leBytes 4 e.1 ++ leBytes 4 (o / 64) ++ leBytes 8 (sect e.2).length ++ sectTable (o + (sect e.2).length) es

/-- A container of this kind without a key, with these sections. -/
def container (kind : Nat) (es : List (Nat × List Byte)) : List Byte :=
  let body := es.flatMap (fun e => sect e.2)
  let head := leBytes 4 0x41554F46 ++ leBytes 4 (kind * 65536 + 1) ++ leBytes 4 0x6416564B ++ [0xFF, 0xFF] ++
    leBytes 2 es.length ++ List.replicate 24 0 ++ leBytes 8 (320 + body.length) ++ List.replicate 16 0 ++ sectTable 256 es ++
    List.replicate (192 - 16 * es.length) 0
  head ++ body ++ leBytes 8 (crc64 (head ++ body)).toNat ++ List.replicate 56 0
def con : List Byte := container 2 [(5, img0)]
def conHead : List Byte := con.take 256
def conRest : List Byte := con.drop 256

/-- The loader is in state `st`, and these bytes have arrived. -/
def got (st : Nat) (bs : List Byte) (s : State) : State := cf (fun c => { c with state := st, rx := bs }) s

/-- The device's DRAM holds `bs` from address 0 on. -/
def store (bs : List Byte) (s : State) : State :=
  dr (fun d => { d with bytes := (bs.zipIdx.filter (fun e => e.1 ≠ 0)).map (fun e => (e.2, e.1)) }) s

/-- DRAM is trained, 16 GiB, and holds one image slot of 64 MiB, in this state. -/
def slots (st : Nat) (s : State) : State :=
  s |> cf (fun c => { c with trained := true, slots := if st = 0 then [] else [(0, { st := st, bbram := false })] }) |>
    dr (fun d => { d with capLog2 := 31 }) |> rg (ro pCfg 0x0A8) 0x10001

/-- The PCI Express endpoint is up. -/
def up (s : State) : State := hw (fun h => { h with boot := .up }) s

/-- Where no channel of DRAM has anything, no line is buffered twice and no request is aged. -/
theorem settledAll (s : State) (h : s.dram.chans = []) : Obl.settled s := by
  intro ch
  have h2 : chanOf s ch = Chan.reset := by simp [chanOf, h, Tbl.get]
  rw [Obl.buffersApart, h2]
  exact ⟨⟨by simp [Chan.reset], by simp [Chan.reset]⟩, by simp [Chan.reset]⟩

theorem apartAll (s : State) (h : s.dram.chans = []) : ∀ ch, Obl.buffersApart s ch := fun ch => (settledAll s h ch).1

end Wit

namespace Tests
open Wit

set_option maxRecDepth 100000
set_option Elab.async false

/-! ### Well-formedness -/

/-- An operand one beyond its range is refused (part 1). -/
theorem wf_refuses_1 : ([
    .stepIssue 68 [], .stepWordRefetch 68 0 false, .stepWordRefetch 0 1024 false, .eval 68 none, .send 68 0, .send 0 1024,
    .tmemRead 68 0 none, .tmemRead 0 4 none, .tmemAddr 68 0, .tmemAddr 0 4, .tmemWrite 68 0, .tmemWrite 0 4,
    .tmemSwap 68 0 none, .tmemSwap 0 4 none, .qrd 68 0, .qrd 0 2, .qwa 68 0, .qwa 0 2, .qwd 68 0, .qwd 0 2, .qpop 68 0,
    .qpop 0 2, .setmask 68, .setval 68, .matchOp 68, .probe 68, .msgCtl 68, .msgPush 68, .pushEop 68, .msgEop 68,
    .cntInc 68, .ldsel 68, .cntLoad 68, .cntRead 68, .nop 68 0, .nop 0 1024, .waitq 68 0, .waitq 0 1024, .endStep 68 0,
    .endStep 0 1024] : List Instr).all (fun c => !c.wf) = true := by decide

/-- An operand one beyond its range is refused (part 2). -/
theorem wf_refuses_2 : ([
    .tracept 68 0, .tracept 0 1024, .halt 68 0, .halt 0 1024, .tokenOffer 4, .heavyReturn 68 0, .qrdResponseReady 68 0,
    .qrdResponseReady 0 2, .qwdHandoff 68 0, .qwdHandoff 0 2, .combineWindowRelease 68 0, .flitInject 68 0,
    .flitInject 0 2, .flitDeliver 68 0 none, .bridgeTake 4 0, .begunTokenSend 16, .closeC2 68, .closeC3 68, .closeC5 68,
    .closeC8 68 none, .stallLimit 68, .faultStopTimeout 68, .pllSwitch 4, .tokBudWrite 4 0, .clkCeilWrite 4 0,
    .ownerWrite 128 0, .ownerHandover 128, .bankParityRepair 128, .ckptRegionCopy 4 [], .ttRegionStart 4 [],
    .ttRegionDone 4 false, .ttAbortDone 4, .dramRequestAccept 8 0, .dramServe 8 0 .none .none, .writeDrain 8 false [],
    .ageLimit 8 0, .dramRefresh 8 0, .dramRefresh 0 4, .selfRefreshEntry 8, .powerDownEntry 8 0] : List Instr).all (fun c => !c.wf) = true := by decide

/-- An operand one beyond its range is refused (part 3). -/
theorem wf_refuses_3 : ([
    .powerDownEntry 0 4, .patrolScrub 8 0 .none, .patrolScrub 0 34359738368 .none, .zqCalibration 8 0 0,
    .zqCalibration 0 4 0, .dqsTracking 8 false 0, .iqPush 64 0, .outQueueEntryVisible 64, .oqValid 64, .oqPop 64,
    .rimPllLock 4, .delayWrite 192 0, .delayWalkStep 192, .signalDetect 24, .cdrLock 24, .commaAlign 24 [] 0,
    .commaAlign 0 (List.replicate 5 none) 0, .fecLock 24 0 [], .bringupRetry 24, .helloResend 24, .packetSend 24 0,
    .exchPacket 24 (Wit.pk 0 0 0 []), .stream 24 (Wit.pk 0 0 0 []) 0, .marker 24 (Wit.pk 0 0 0 []) 0,
    .hello 24 (Wit.pk 0 0 0 []), .helloAck 24 (Wit.pk 0 0 0 []), .runinfo 24 (Wit.pk 0 0 0 []),
    .mapsync 24 (Wit.pk 0 0 0 []), .user 24 (Wit.pk 0 0 0 []), .errorMsg 24 (Wit.pk 0 0 0 []), .ack 24 0, .nak 24 0,
    .ackSend 24, .credit 24 0, .creditReturn 24, .retryTimeout 24, .ping 24 0, .pingSend 24, .pong 24 0 0,
    .pongTimeout 24 0] : List Instr).all (fun c => !c.wf) = true := by decide

/-- An operand one beyond its range is refused (part 4). -/
theorem wf_refuses_4 : ([
    .pongTimeout 0 65536, .markerSend 24, .laneFail 24 0, .laneFail 0 4, .laneDown 24 0, .laneDownRepeat 24 0, .restripe 24,
    .eidleBlock 24 0, .resetBlock 24 0, .eidleRequest 24 0, .eidleExit 24, .recal 24 0, .recalDone 24 [] 0 0 [],
    .recalDone 0 (List.replicate 5 none) 0 0 [], .portReset 24 0, .ctlTxData 24 0, .ctlTxSend 24 0, .ctlRxData 24,
    .trigInEdge 4 false 0, .trigOutPulse 4, .trigOutPulseEnd 4, .segmentCommit 33, .segmentPostDone 33,
    .channelRearm 33, .recordDrain 33 [], .rateCheck 33 0, .sqDoorbell 8 0, .cqDoorbell 8 0, .descriptorCopy 8 .none,
    .contextTake 8, .jobReady 256, .jobDispatch 14, .jobRelease 8, .irqCoalesceTimer 8, .sqEnable 8 0, .copy 8,
    .dmaCopy 8 [] 0 [] [] [] [], .tileTestDone 0 1024 0, .tileTestDone 0 0 4096, .msgDataLo 16 false] : List Instr).all (fun c => !c.wf) = true := by decide

/-- An operand one beyond its range is refused (part 5). -/
theorem wf_refuses_5 : ([
    .dropPkt 16, .msgClr 16, .bar2Read 68719476736 0 [], .bar2Write 68719476736 [], .rcRead 16842752 1, .rcRead 0 4097,
    .rcRead 0 0, .clrSticky 4096, .indAddrWrite 4096 0, .indDataRead 4096 [], .indDataWrite 4096 0,
    .registerWrite 16842752 1 0, .registerWrite 0 4097 0, .registerWrite 0 0 0, .tileMapWrite 64 0, .fenceWrite 4 0,
    .linkMapWrite 16 0, .heartbeatLoss 68, .scrubRegion 8 0 0 [] 0 [], .scrubRegion 0 68 0 [] 0 [], .traceLineFlush 5,
    .traceStagingDrain 5 [], .thermWarn 5 0, .thermtrip 5 0, .laneRefclkLoss 4, .signalReturn 24 0, .laneRefclkReturn 4,
    .rimPllLoss 4] : List Instr).all (fun c => !c.wf) = true := by decide

/-- An operand at the end of its range is accepted (part 1). -/
theorem wf_accepts_1 : ([
    .stepIssue 67 [], .stepWordRefetch 67 1023 false, .eval 67 none, .send 67 1023, .tmemRead 67 3 none, .tmemAddr 67 3,
    .tmemWrite 67 3, .tmemSwap 67 3 none, .qrd 67 1, .qwa 67 1, .qwd 67 1, .qpop 67 1, .setmask 67, .setval 67,
    .matchOp 67, .probe 67, .msgCtl 67, .msgPush 67, .pushEop 67, .msgEop 67, .cntInc 67, .ldsel 67, .cntLoad 67,
    .cntRead 67, .nop 67 1023, .waitq 67 1023, .endStep 67 1023, .tracept 67 1023, .halt 67 1023, .tokenOffer 3,
    .heavyReturn 67 0, .qrdResponseReady 67 1, .qwdHandoff 67 1, .combineWindowRelease 67 0, .flitInject 67 1,
    .flitDeliver 67 0 none, .bridgeTake 3 0, .begunTokenSend 15, .closeC2 67, .closeC3 67] : List Instr).all (fun c => c.wf) = true := by decide

/-- An operand at the end of its range is accepted (part 2). -/
theorem wf_accepts_2 : ([
    .closeC5 67, .closeC8 67 none, .stallLimit 67, .faultStopTimeout 67, .pllSwitch 3, .tokBudWrite 3 0, .clkCeilWrite 3 0,
    .ownerWrite 127 0, .ownerHandover 127, .bankParityRepair 127, .ckptRegionCopy 3 [], .ttRegionStart 3 [],
    .ttRegionDone 3 false, .ttAbortDone 3, .dramRequestAccept 7 0, .dramServe 7 0 .none .none, .writeDrain 7 false [],
    .ageLimit 7 0, .dramRefresh 7 3, .selfRefreshEntry 7, .powerDownEntry 7 3, .patrolScrub 7 34359738367 .none,
    .zqCalibration 7 3 0, .dqsTracking 7 false 0, .iqPush 63 0, .outQueueEntryVisible 63, .oqValid 63, .oqPop 63,
    .rimPllLock 3, .delayWrite 191 0, .delayWalkStep 191, .signalDetect 23, .cdrLock 23, .commaAlign 23 [] 0,
    .fecLock 23 0 [], .bringupRetry 23, .helloResend 23, .packetSend 23 0, .exchPacket 23 (Wit.pk 0 0 0 []),
    .stream 23 (Wit.pk 0 0 0 []) 0] : List Instr).all (fun c => c.wf) = true := by decide

/-- An operand at the end of its range is accepted (part 3). -/
theorem wf_accepts_3 : ([
    .marker 23 (Wit.pk 0 0 0 []) 0, .hello 23 (Wit.pk 0 0 0 []), .helloAck 23 (Wit.pk 0 0 0 []),
    .runinfo 23 (Wit.pk 0 0 0 []), .mapsync 23 (Wit.pk 0 0 0 []), .user 23 (Wit.pk 0 0 0 []),
    .errorMsg 23 (Wit.pk 0 0 0 []), .ack 23 0, .nak 23 0, .ackSend 23, .credit 23 0, .creditReturn 23, .retryTimeout 23,
    .ping 23 0, .pingSend 23, .pong 23 0 0, .pongTimeout 23 65535, .markerSend 23, .laneFail 23 3, .laneDown 23 0,
    .laneDownRepeat 23 0, .restripe 23, .eidleBlock 23 0, .resetBlock 23 0, .eidleRequest 23 0, .eidleExit 23,
    .recal 23 0, .recalDone 23 [] 0 0 [], .portReset 23 0, .ctlTxData 23 0, .ctlTxSend 23 0, .ctlRxData 23,
    .trigInEdge 3 false 0, .trigOutPulse 3, .trigOutPulseEnd 3, .segmentCommit 32, .segmentPostDone 32,
    .channelRearm 32, .recordDrain 32 [], .rateCheck 32 0] : List Instr).all (fun c => c.wf) = true := by decide

/-- An operand at the end of its range is accepted (part 4). -/
theorem wf_accepts_4 : ([
    .sqDoorbell 7 0, .cqDoorbell 7 0, .descriptorCopy 7 .none, .contextTake 7, .jobReady 255, .jobDispatch 13,
    .jobRelease 7, .irqCoalesceTimer 7, .sqEnable 7 0, .copy 7, .dmaCopy 7 [] 0 [] [] [] [], .imageSwap RimNet.empty [],
    .readout 0 0 false [] [], .tileTestDone 0 1023 4095, .msgDataLo 15 false, .dropPkt 15, .msgClr 15,
    .bar2Read 68719476735 0 [], .bar2Write 68719476735 [], .rcRead 16842751 4096, .clrSticky 4095, .indAddrWrite 4095 0,
    .indDataRead 4095 [], .indDataWrite 4095 0, .registerWrite 16842751 4096 0, .tileMapWrite 63 0, .fenceWrite 3 0,
    .linkMapWrite 15 0, .ready RimNet.empty, .heartbeatLoss 67, .scrubRegion 7 67 0 [] 0 [], .voteSweep [] [],
    .traceLineFlush 4, .traceStagingDrain 4 [], .thermWarn 4 0, .thermtrip 4 0, .laneRefclkLoss 3, .signalReturn 23 0,
    .laneRefclkReturn 3, .rimPllLoss 3] : List Instr).all (fun c => c.wf) = true := by decide

/-! ### Examples and tables of the spec -/

/-- Heavy Units, TMEM, Example: word 0x1234 of bank 37 read into mailbox 0x40 by a tile of F1 is address word 0x4014_1234. -/
theorem test_tmem_address :
    tmBank 1 0x40141234 = 37 ∧ tmWord 0x40141234 = 0x1234 ∧ tmMbx 0x40141234 = 0x40 ∧ tmWen 0x40141234 = false := by decide

/-- Markhor, Example of R320: LEVEL 1,000 between samples 900 and 1,300 gives FRAC 64. -/
theorem test_crossing_example : crossing 1000 900 1300 = 64 := by decide

/-- R320: a crossing at the sample itself gives 0; the same level from above is measured the same way. -/
theorem test_crossing_ends : crossing 900 900 1300 = 0 ∧ crossing 1000 1300 900 = 192 := by decide

/-- R388 and the AES CMAC standard: the MAC of the empty message under the AES-256 key of the standard's example. -/
theorem test_cmac_empty : cmac [0x60, 0x3d, 0xeb, 0x10, 0x15, 0xca, 0x71, 0xbe, 0x2b, 0x73, 0xae, 0xf0, 0x85, 0x7d, 0x77, 0x81,
    0x1f, 0x35, 0x2c, 0x07, 0x3b, 0x61, 0x08, 0xd7, 0x2d, 0x98, 0x10, 0xa3, 0x09, 0x14, 0xdf, 0xf4] [] =
    [0x02, 0x89, 0x62, 0xf6, 0x1b, 0x7b, 0xf8, 0x9e, 0xfc, 0x6b, 0x55, 0x1f, 0x46, 0x67, 0xd9, 0x83] := by decide +kernel

/-- CRC-32C of the nine digits is 0xE3069283, the check value of that CRC. -/
theorem test_crc32c_check : crc32c [0x31, 0x32, 0x33, 0x34, 0x35, 0x36, 0x37, 0x38, 0x39] = 0xE3069283 := by decide +kernel

/-- CRC-64/ECMA-182 of the nine digits is 0x6C40DF5F0B497347, the check value of that CRC. -/
theorem test_crc64_check : crc64 [0x31, 0x32, 0x33, 0x34, 0x35, 0x36, 0x37, 0x38, 0x39] = 0x6C40DF5F0B497347 := by
  decide +kernel

/-- The table gives no row bits, so no word spells a command. -/
theorem test_decode_none (nbits w : Nat) : decodeTableWord nbits w = none := rfl

/-- A step takes the front command: TAMPER sets the record that BBRAM_STAT shows, and leaves the rest of the queue. -/
theorem test_step_front :
    (match step { State.reset with pending := [.tamper, .bypass] } with
     | .next t => t.keys.tampered && decide (t.pending = [.bypass])
     | _ => false) = true := by decide +kernel

/-- The interrupt vectors are settled at reset, and the idle step answers a next state. -/
theorem wit_StepsKeepTheVectorsSettled : ∃ s t : State, s.Settled ∧ step s = .next t :=
  ⟨z, idle z, settled_of _ (by decide +kernel) rfl, rfl⟩

/-- Step words, Example of R67: port table entry 0xC005 gives member k bit (k + 5) mod 64 of the cycle number. -/
theorem test_port_rotation :
    ([0, 1, 59].map (fun k => portBit { Store.reset with ptab := [(2, 0xC005)] } { cyc := 33, flags := 0, entries := [] } k 2)) =
    [true, false, true] := by decide +kernel

/-- R272: a single 1 into a scrambler that starts at zero comes out at 0, 39 and 58, the powers of 1 + x^39 + x^58. -/
theorem test_scramble_impulse : (scramble 0 1).1 = 0x0400008000000001 := by decide

/-- R272: the state is the last 58 bits sent, so the impulse comes out of the next block too, at 2·39 − 64 and 39 + 58 − 64. -/
theorem test_scramble_next : (scramble (scramble 0 1).2 0).1 = place 64 14 1 1 ||| place 64 53 1 1 ||| place 64 52 1 1 := by decide

/-- R273: the generator has the thirty roots α^0 to α^29: Horner's rule over its coefficients, the highest first. -/
theorem test_rs_roots : (List.range 30).all (fun j =>
    let a := (List.range j).foldl (fun v _ => rsTimes2 v) 1
    (List.range 30).foldl (fun v i => rsScale a v ^^^ fld (BitVec.ofNat 300 rsGen) (290 - 10 * i) 10) 1 == 0) = true := by
  decide +kernel

/-- R274: the comma that a lane sends is one that a receiver takes, with its fields at their places. -/
theorem test_comma : commaOk (commaOf 11 23 3 0xA) = true ∧ commaDevOf (commaOf 11 23 3 0xA) = 11 ∧
    commaPort (commaOf 11 23 3 0xA) = 23 ∧ commaLane (commaOf 11 23 3 0xA) = 3 ∧ commaAct (commaOf 11 23 3 0xA) = 0xA := by decide

/-- The parts of an operand are checked too: a codeword has 544 symbols on four lanes, a bank 262,144 words of 65 bits, its
map three copies; a cell stands among 98,304 with six inputs, which take sources of their own region, and PLLs divide by 1 to
64. -/
theorem wf_refuses_parts :
    [FecErr.mk 4 1 0, .mk 0 0 0, .mk 0 545 0].all (fun e => !e.wf) = true ∧ (FecErr.mk 3 544 0).wf = true ∧
    [BankUpset.mk 128 0 0, .mk 0 262144 0, .mk 0 0 65].all (fun u => !u.wf) = true ∧ (BankUpset.mk 127 262143 64).wf = true ∧
    [MapUpset.mk 128 0 0, .mk 0 3 0].all (fun u => !u.wf) = true ∧ (VoteUpset.mk 0 3 0).wf = false ∧
    [LinkPkt.mk [] [] [.mk 4 true], .mk [] [.mk 4 1 0] []].all (fun k => !k.wf) = true := by decide

theorem wf_refuses_nets :
    let place (f : Nat) : RimPlace := cellPlace 0 f
    let cell (n : Nat) (x : RimSrc) : RimCell :=
      { at_ := 0, table := 0, init := false, bypass := false, carry := false, wide := 0, ins := (List.range n).map (fun f => { place := place f, src := [x], code := 0 }) }
    let one (c : RimCell) : RimNet := { RimNet.empty with cells := [c] }
    [one (cell 5 .low), one (cell 6 (.table 98303)), one (cell 6 (.pinR 191)), one { cell 6 .low with at_ := 98304 },
      one { cell 6 .low with wide := 16 }, { RimNet.empty with divs := [0] }, { RimNet.empty with divs := [65] },
      { RimNet.empty with refs := [16] }, { RimNet.empty with plls := [4] }, { RimNet.empty with groups := [8] }].all
      (fun x => !x.wf) = true ∧
    [one (cell 6 .low), one (cell 6 (.pinR 0)), one (cell 6 (.oqData 15 63)), { RimNet.empty with divs := [1, 64] }].all
      (fun x => x.wf) = true := by decide +kernel

/-- R241, R242: a cell whose table inverts its own flip-flop, its cluster enabled by a cell that gives 1, toggles at each edge of
its clock and at no other. -/
def togglePlace : RimPlace := { region := 0, col := 0, row := 0, cell := 0, field := 0 }
def toggleMux (x : RimSrc) : RimMux := { place := togglePlace, src := [x], code := 0 }
def toggleNet : RimNet := { RimNet.empty with
  cells := [{ at_ := 0, table := 1, init := false, bypass := false, carry := false, wide := 0, ins := [toggleMux (.flop 0)] },
    { at_ := 1, table := BitVec.allOnes 64, init := false, bypass := false, carry := false, wide := 0, ins := [] }],
  clusters := [{ at_ := 0, clk := 5, enable := toggleMux (.table 1), reset := toggleMux .low, sel := [] }] }
theorem test_rim_toggles :
    let s := rm (fun r => { r with net := toggleNet }) z
    Tbl.get false (rimEdge 5 s).rim.flops 0 = true ∧ Tbl.get false (rimEdge 5 (rimEdge 5 s)).rim.flops 0 = false ∧
    Tbl.get false (rimEdge 4 s).rim.flops 0 = false := by decide +kernel


/-! ### Witnesses -/

theorem wit_UnitRegistersTakeTheBandWord :
(∃ (s : State) (p : Nat) (i : Issue), Obl.head s p 6 0 i) ∧
(∃ (s : State) (p : Nat) (i : Issue), Obl.head s p 6 1 i) ∧
(∃ (s : State) (p : Nat) (i : Issue), Obl.head s p 7 0 i) ∧
(∃ (s : State) (p : Nat) (i : Issue), Obl.head s p 8 1 i) :=
  ⟨⟨(z |> iss 67 (mkI 6 0 5)), 67, (mkI 6 0 5), by decide +kernel⟩,
⟨(z |> iss 0 (mkI 6 1 5)), 0, (mkI 6 1 5), by decide +kernel⟩,
⟨(z |> iss 0 (mkI 7 0 5)), 0, (mkI 7 0 5), by decide +kernel⟩,
⟨(z |> iss 0 (mkI 8 1 7)), 0, (mkI 8 1 7), by decide +kernel⟩⟩

theorem wit_CounterOperations :
(∃ (s : State) (p : Nat) (i : Issue), Obl.head s p 8 0 i) ∧
(∃ (s : State) (p : Nat) (i : Issue), Obl.head s p 8 2 i) ∧
(∃ (s : State) (p : Nat) (i : Issue), Obl.head s p 8 3 i) :=
  ⟨⟨(z |> iss 0 (mkI 8 0 0xFB) |> un 0 (fun u => { u with cnt := [(1, 0xFFFFFFFFFFFFFFFF), (3, 4)] })), 0, (mkI 8 0 0xFB),
      by decide +kernel⟩,
⟨(z |> iss 0 (mkI 8 2 7) |> un 0 (fun u => { u with ldsel := 3 })), 0, (mkI 8 2 7), by decide +kernel⟩,
⟨(z |> iss 0 (mkI 8 3 0xFF02) |> un 0 (fun u => { u with cnt := [(2, 9)] })), 0, (mkI 8 3 0xFF02), by decide +kernel⟩⟩

theorem wit_CompareAndProbe :
(∃ (s : State) (p : Nat) (i : Issue), Obl.head s p 6 2 i ∧
      (i.word ^^^ (tileOf s p).un.cmpVal) &&& (tileOf s p).un.cmpMask ≠ 0) ∧
(∃ (s : State) (p : Nat) (i : Issue), Obl.head s p 6 2 i ∧
      (i.word ^^^ (tileOf s p).un.cmpVal) &&& (tileOf s p).un.cmpMask = 0 ∧ s.recov.skip = [] ∧ s.recov.active = false ∧
      regF s (ro (pTil p) 0x1C0) 16 2 = 0) ∧
(∃ (s : State) (p : Nat) (i : Issue), Obl.head s p 6 2 i ∧
      (i.word ^^^ (tileOf s p).un.cmpVal) &&& (tileOf s p).un.cmpMask = 0 ∧ s.recov.skip = [] ∧ s.recov.active = false ∧
      regF s (ro (pTil p) 0x1C0) 16 2 = 1) ∧
(∃ (s : State) (p : Nat) (i : Issue) (l k : Nat), Obl.head s p 6 3 i ∧ s.recov.skip = [] ∧ s.recov.active = false ∧
      logicalOf s p = some l ∧ (l, i.band, i.step, k) ∈ s.img.probeMap ∧
      (∀ e ∈ s.img.probeMap, e.1 = l ∧ e.2.1 = i.band ∧ e.2.2.1 = i.step → e.2.2.2 = k)) :=
  ⟨⟨(z |> iss 0 (mkI 6 2 5) |> un 0 (fun u => { u with cmpMask := 1 })), 0, (mkI 6 2 5), by decide +kernel⟩,
⟨(z |> iss 0 (mkI 6 2 5) |> rg (ro (pTil 0) 0x1C4) 0xFFFFFFFF), 0, (mkI 6 2 5), by decide +kernel⟩,
⟨(z |> iss 0 (mkI 6 2 5) |> rg (ro (pTil 0) 0x1C0) 0x1FF3F), 0, (mkI 6 2 5), by decide +kernel⟩,
⟨(z |> iss 0 (mkI 6 3 5) |> im (fun x => { x with probeMap := [(1, 0, 0, 4), (0, 0, 0, 63)] })), 0, (mkI 6 3 5), 0, 63,
      by decide +kernel⟩⟩

theorem wit_MessageOperations :
(∃ (s : State) (p f : Nat) (i : Issue), Obl.head s p 7 1 i ∧ Obl.msgOn s p f ∧ (fifoOf s f).held < 4096 ∧
      (fifoOf s f).opn.length < 31) ∧
(∃ (s : State) (p f : Nat) (i : Issue), Obl.head s p 7 2 i ∧ Obl.msgOn s p f ∧ (fifoOf s f).held < 4096) ∧
(∃ (s : State) (p f : Nat) (i : Issue), Obl.head s p 7 3 i ∧ Obl.msgOn s p f ∧ i.word.getLsbD 0 = true ∧
      (fifoOf s f).opn ≠ []) ∧
(∃ (s : State) (p : Nat) (i : Issue), Obl.head s p 7 1 i ∧ (tileOf s p).un.msg.getLsbD 8 = true ∧
      Tbl.get 0xFF s.img.msgBind (fld (tileOf s p).un.msg 0 4) ≠ logicalNo s p) :=
  ⟨⟨(z |> iss 0 (mkI 7 1 5) |> un 0 (fun u => { u with msg := 0x10F }) |> im (fun x => { x with msgBind := [(15, 0)] }) |> ff 15 (fun x => { x with opn := List.replicate 30 1 })),
      0, 15, (mkI 7 1 5), by decide +kernel⟩,
⟨(z |> iss 0 (mkI 7 2 5) |> un 0 (fun u => { u with msg := 0x10F }) |> im (fun x => { x with msgBind := [(15, 0)] }) |> ff 15 (fun x => { x with vis := [[1]], opn := [2] })),
      0, 15, (mkI 7 2 5), by decide +kernel⟩,
⟨(z |> iss 0 (mkI 7 3 5) |> un 0 (fun u => { u with msg := 0x10F }) |> im (fun x => { x with msgBind := [(15, 0)] }) |> ff 15 (fun x => { x with vis := [[1]], opn := [2] })),
      0, 15, (mkI 7 3 5), by decide +kernel⟩,
⟨(z |> iss 0 (mkI 7 1 5) |> un 0 (fun u => { u with msg := 0x10F })), 0, (mkI 7 1 5), by decide +kernel⟩⟩

theorem wit_TmemOperations :
(∃ (s : State) (p u : Nat) (i : Issue), headIssue (tileOf s p) (fun x => decide (x.unit < 4)) = some i ∧ i.unit = u ∧
      i.op = 1) ∧
(∃ (s : State) (p u : Nat) (i : Issue) (a : Word), Obl.tmem s p u 0 i a) ∧
(∃ (s : State) (p u : Nat) (i : Issue) (a : Word), Obl.tmem s p u 2 i a ∧ a.getLsbD 23 = true) ∧
(∃ (s : State) (p u : Nat) (i : Issue) (a : Word), Obl.tmem s p u 3 i a ∧ a.getLsbD 23 = true) ∧
(∃ (s : State) (p u : Nat) (i : Issue) (a : Word), Obl.tmem s p u 2 i a ∧ a.getLsbD 23 = false) :=
  ⟨⟨(z |> iss 0 (mkI 3 1 5)), 0, 3, (mkI 3 1 5), by decide +kernel⟩,
⟨(z |> iss 0 (mkI 0 0 0xAB7FFFFF) |> rg (ownerReg 31) 0 |> bk 31 (fun x => { x with words := [(262143, 77)] })), 0, 0,
      (mkI 0 0 0xAB7FFFFF), 0xAB7FFFFF, by decide +kernel⟩,
⟨(z |> iss 0 (mkI 3 2 5) |> rg (ownerReg 31) 0 |> un 0 (fun u => { u with tmem := [(3, 0xFFFFFF)] })), 0, 3, (mkI 3 2 5),
      0xFFFFFF, by decide +kernel⟩,
⟨(z |> iss 0 (mkI 2 3 5) |> rg (ownerReg 31) 0 |> un 0 (fun u => { u with tmem := [(2, 0xFFFFFF)] }) |> bk 31 (fun x => { x with words := [(262143, 77)] })),
      0, 2, (mkI 2 3 5), 0xFFFFFF, by decide +kernel⟩,
⟨(z |> iss 0 (mkI 1 2 5) |> rg (ownerReg 31) 0 |> un 0 (fun u => { u with tmem := [(1, 0x7FFFFF)] })), 0, 1, (mkI 1 2 5),
      0x7FFFFF, by decide +kernel⟩⟩

theorem wit_QportRequests :
(∃ (s : State) (p q : Nat) (i : Issue), q < 2 ∧ Obl.head s p (4 + q) 1 i) ∧
(∃ (s : State) (p q : Nat) (i : Issue), q < 2 ∧ Obl.head s p (4 + q) 0 i ∧ fld i.word 41 22 = 0 ∧
      regionAllows s (logicalNo s p) q (qpAddr i.word / 64 * 64) false = true) ∧
(∃ (s : State) (p q : Nat) (i : Issue), q < 2 ∧ Obl.head s p (4 + q) 2 i ∧
      ((tileOf s p).un.port q).latch.getLsbD 63 = false) ∧
(∃ (s : State) (p q : Nat) (i : Issue), q < 2 ∧ Obl.head s p (4 + q) 2 i ∧
      ((tileOf s p).un.port q).latch.getLsbD 63 = true ∧ fld ((tileOf s p).un.port q).latch 41 22 = 0 ∧
      regionAllows s (logicalNo s p) q (qpAddr ((tileOf s p).un.port q).latch / 8 * 8) true = true) :=
  ⟨⟨(z |> iss 0 (mkI 5 1 5)), 0, 1, (mkI 5 1 5), by decide +kernel⟩,
⟨(z |> iss 0 (mkI 4 0 0xBF) |> im (fun x => { x with regions := [{ base := 64, len := 128, rw := false, init := 0, mask := 3 }] })),
      0, 0, (mkI 4 0 0xBF), by decide +kernel⟩,
⟨(z |> iss 0 (mkI 4 2 5)), 0, 0, (mkI 4 2 5), by decide +kernel⟩,
⟨(z |> iss 0 (mkI 5 2 5) |> im (fun x => { x with regions := [{ base := 64, len := 128, rw := true, init := 0, mask := 3 }] }) |> un 0 (fun u => u.setPort 1 { u.port 1 with latch := 0x80000000000000BF })),
      0, 1, (mkI 5 2 5), by decide +kernel⟩⟩

theorem wit_QportResponses :
(∃ (s : State) (p q : Nat) (r : QReq) (pre post : List QReq), q < 2 ∧ ((tileOf s p).un.port q).places = pre ++ r :: post ∧
      (∀ x ∈ pre, x.write = true ∨ x.stage = .ready) ∧ (∀ x ∈ pre ++ post, x.id ≠ r.id) ∧ r.write = false ∧
      r.stage = .reorder ∧ r.oor = true) ∧
(∃ (s : State) (p q : Nat) (r : QReq) (pre post : List QReq), q < 2 ∧ ((tileOf s p).un.port q).places = pre ++ r :: post ∧
      (∀ x ∈ pre, x.write = true ∨ x.stage = .ready) ∧ (∀ x ∈ pre ++ post, x.id ≠ r.id) ∧ r.write = false ∧
      r.stage = .reorder ∧ r.oor = false) ∧
(∃ (s : State) (p q : Nat) (r : QReq) (pre post : List QReq), q < 2 ∧ ((tileOf s p).un.port q).places = pre ++ r :: post ∧
      (∀ x ∈ pre, x.write = true ∨ x.stage = .ready) ∧ r.write = false ∧ (r.stage = .hub ∨ r.stage = .atController)) ∧
(∃ (s : State) (p q : Nat) (r : QReq), q < 2 ∧ ((tileOf s p).un.port q).places = [r] ∧ r.write = true ∧
      r.stage = .atController) ∧
(∃ (s : State) (p q : Nat) (i : Issue) (r : QReq), q < 2 ∧ headIssue (tileOf s p) (fun x => x.unit == 4 + q) = some i ∧
      i.op = 3 ∧ 0 < ((tileOf s p).un.port q).credits ∧ ((tileOf s p).un.port q).reads.head? = some r ∧ r.stage = .ready ∧
      r.poisoned = none) :=
  ⟨⟨(z |> un 0 (fun u => u.setPort 1 { u.port 1 with places := [({ id := 1, write := true, addr := 64, data := 5, oor := false, stage := .hub, resp := [1, 2, 3, 4, 5, 6, 7, 8], poisoned := none, t0 := 0 } : QReq), ({ id := 3, write := false, addr := 64, data := 5, oor := true, stage := .reorder, resp := [1, 2, 3, 4, 5, 6, 7, 8], poisoned := none, t0 := 0 } : QReq), ({ id := 4, write := false, addr := 64, data := 5, oor := false, stage := .hub, resp := [1, 2, 3, 4, 5, 6, 7, 8], poisoned := none, t0 := 0 } : QReq)] })),
      0, 1,
      ({ id := 3, write := false, addr := 64, data := 5, oor := true, stage := .reorder, resp := [1, 2, 3, 4, 5, 6, 7, 8], poisoned := none, t0 := 0 } : QReq),
      [({ id := 1, write := true, addr := 64, data := 5, oor := false, stage := .hub, resp := [1, 2, 3, 4, 5, 6, 7, 8], poisoned := none, t0 := 0 } : QReq)],
      [({ id := 4, write := false, addr := 64, data := 5, oor := false, stage := .hub, resp := [1, 2, 3, 4, 5, 6, 7, 8], poisoned := none, t0 := 0 } : QReq)],
      by decide +kernel⟩,
⟨(z |> un 0 (fun u => u.setPort 1 { u.port 1 with places := [({ id := 3, write := false, addr := 64, data := 5, oor := false, stage := .reorder, resp := [1, 2, 3, 4, 5, 6, 7, 8], poisoned := none, t0 := 0 } : QReq)], credits := 0 }) |> fun s => { s with tb := 25600 }),
      0, 1,
      ({ id := 3, write := false, addr := 64, data := 5, oor := false, stage := .reorder, resp := [1, 2, 3, 4, 5, 6, 7, 8], poisoned := none, t0 := 0 } : QReq),
      [], [], by decide +kernel⟩,
⟨(z |> un 0 (fun u => u.setPort 1 { u.port 1 with places := [({ id := 3, write := false, addr := 64, data := 5, oor := false, stage := .hub, resp := [1, 2, 3, 4, 5, 6, 7, 8], poisoned := none, t0 := 0 } : QReq)], credits := 0 })),
      0, 1,
      ({ id := 3, write := false, addr := 64, data := 5, oor := false, stage := .hub, resp := [1, 2, 3, 4, 5, 6, 7, 8], poisoned := none, t0 := 0 } : QReq),
      [], [], by decide +kernel⟩,
⟨(z |> un 0 (fun u => u.setPort 1 { u.port 1 with places := [({ id := 3, write := true, addr := 64, data := 5, oor := false, stage := .atController, resp := [1, 2, 3, 4, 5, 6, 7, 8], poisoned := none, t0 := 0 } : QReq)], credits := 0 })),
      0, 1,
      ({ id := 3, write := true, addr := 64, data := 5, oor := false, stage := .atController, resp := [1, 2, 3, 4, 5, 6, 7, 8], poisoned := none, t0 := 0 } : QReq),
      by decide +kernel⟩,
⟨(z |> iss 0 (mkI 4 3 0xFF) |> un 0 (fun u => u.setPort 0 { u.port 0 with places := [({ id := 3, write := false, addr := 64, data := 5, oor := false, stage := .ready, resp := [1, 2, 3, 4, 5, 6, 7, 8], poisoned := none, t0 := 0 } : QReq)], credits := 1 })),
      0, 0, (mkI 4 3 0xFF),
      ({ id := 3, write := false, addr := 64, data := 5, oor := false, stage := .ready, resp := [1, 2, 3, 4, 5, 6, 7, 8], poisoned := none, t0 := 0 } : QReq),
      by decide +kernel⟩⟩

theorem wit_TokensGoRoundTheDie :
(∃ (s : State) (d : Nat), (∀ k, k < 17 → tokenNeed s (17 * d + k) = 0)) ∧
(∃ (s : State) (d k : Nat), k < 17 ∧ (∀ j, j < 17 → j ≠ k → tokenNeed s (17 * d + j) = 0) ∧ 0 < tokenNeed s (17 * d + k) ∧
      tokenNeed s (17 * d + k) ≤ regF s (ro pPwr (0x0A0 + 4 * d)) 0 8) :=
  ⟨⟨(z |> di 3 (fun x => { x with tokPtr := 16 })), 3, by decide +kernel⟩,
⟨(z |> act 1 |> stf 0 (fun x => { x with imemFill := nopWord, imem := [(0, 2 <<< 58)] }) |> tl 0 (fun t => { t with phase := .waiting })),
      0, 0, by decide +kernel⟩⟩

theorem wit_StepBeginsAfterItsChecks :
(∃ (s : State) (p : Nat), Obl.canBegin s p ∧ issueFindings s (tileOf s p).seen = []) ∧
(∃ (s : State) (p n w k : Nat), Obl.canBegin s p ∧ (n, Check.parity w k) ∈ issueFindings s (tileOf s p).seen) ∧
(∃ (s : State) (p bp key : Nat) (w : StepWord) (x : State) (st : Store), Obl.badWordOf s p bp key ∧
      Obl.goldenOf s x p bp key w ∧
      st = { (tileOf s p).st with imem := Tbl.set (tileOf s p).st.imemFill (tileOf s p).st.imem key w } ∧
      issueFindings s ({ tileOf s p with st := st } : Tile).seen = []) ∧
(∃ (s : State) (p bp key : Nat) (w : StepWord) (x : State), Obl.badWordOf s p bp key ∧ Obl.goldenOf s x p bp key w ∧
      Obl.recentHard x p + 1 < max 1 (regF x (ro pGlb 0x424) 0 4) ∧
      issueFindings s ({ tileOf s p with lent := (0, key, w.toNat) :: (tileOf s p).lent } : Tile).seen = []) ∧
(∃ (s : State) (p bp key : Nat) (w : StepWord) (x : State) (q : Nat), Obl.badWordOf s p bp key ∧
      Obl.goldenOf s x p bp key w ∧ max 1 (regF x (ro pGlb 0x424) 0 4) ≤ Obl.recentHard x p + 1 ∧ inRun s p = true ∧
      s.recov.active = false ∧ p < 68 ∧ q ∈ runTiles s ∧ q ≠ p ∧ (tileOf s q).halted = false ∧ fenced s q = false) ∧
(∃ (s : State) (p bp key : Nat) (x : State) (q : Nat), Obl.badWordOf s p bp key ∧
      x = (fetchItem s (logicalNo s p) 0 key).1 ∧
      ((fetchItem s (logicalNo s p) 0 key).2 = false ∨ goldenWord s (logicalNo s p) bp (tileOf s p).step = none) ∧
      q ∈ runTiles s ∧ q ≠ p ∧ (tileOf s q).halted = false ∧ fenced s q = false) :=
  ⟨⟨(z |> act 2 |> stf 0 (fun x => { x with imemFill := nopWord }) |> tl 0 (fun t => { t with phase := .ready }) |> tl 1 (fun t => { t with phase := .ready })),
      0, by decide +kernel⟩,
⟨(z |> act 2 |> stf 0 (fun x => { x with imemFill := nopWord, imem := [(0, 1)] }) |> tl 0 (fun t => { t with phase := .ready }) |> tl 1 (fun t => { t with phase := .ready })),
      0, 0, 0, 0, by decide +kernel⟩,
⟨(z |> act 2 |> stf 0 (fun x => { x with imemFill := nopWord, imem := [(0, 1)] }) |> tl 0 (fun t => { t with phase := .refetch }) |> dr (fun d => { d with bytes := [(0x0D, 0xFF), (0x0E, 1), (0x28, 0xC0), (0x29, 1), (0x40, 5), (0x44, 4), (0x48, 128), (0x108, 64)] })),
      0, 0, 0, nopWord,
      (fetchItem (z |> act 2 |> stf 0 (fun x => { x with imemFill := nopWord, imem := [(0, 1)] }) |> tl 0 (fun t => { t with phase := .refetch }) |> dr (fun d => { d with bytes := [(0x0D, 0xFF), (0x0E, 1), (0x28, 0xC0), (0x29, 1), (0x40, 5), (0x44, 4), (0x48, 128), (0x108, 64)] })) (logicalNo (z |> act 2 |> stf 0 (fun x => { x with imemFill := nopWord, imem := [(0, 1)] }) |> tl 0 (fun t => { t with phase := .refetch }) |> dr (fun d => { d with bytes := [(0x0D, 0xFF), (0x0E, 1), (0x28, 0xC0), (0x29, 1), (0x40, 5), (0x44, 4), (0x48, 128), (0x108, 64)] })) 0) 0 0).1,
      { (tileOf (z |> act 2 |> stf 0 (fun x => { x with imemFill := nopWord, imem := [(0, 1)] }) |> tl 0 (fun t => { t with phase := .refetch }) |> dr (fun d => { d with bytes := [(0x0D, 0xFF), (0x0E, 1), (0x28, 0xC0), (0x29, 1), (0x40, 5), (0x44, 4), (0x48, 128), (0x108, 64)] })) 0).st with imem := [] },
      by decide +kernel⟩,
⟨(z |> act 2 |> stf 0 (fun x => { x with imemFill := nopWord, imem := [(0, 1)] }) |> tl 0 (fun t => { t with phase := .refetch }) |> dr (fun d => { d with bytes := [(0x0D, 0xFF), (0x0E, 1), (0x28, 0xC0), (0x29, 1), (0x40, 5), (0x44, 4), (0x48, 128), (0x108, 64)] })),
      0, 0, 0, nopWord,
      (fetchItem (z |> act 2 |> stf 0 (fun x => { x with imemFill := nopWord, imem := [(0, 1)] }) |> tl 0 (fun t => { t with phase := .refetch }) |> dr (fun d => { d with bytes := [(0x0D, 0xFF), (0x0E, 1), (0x28, 0xC0), (0x29, 1), (0x40, 5), (0x44, 4), (0x48, 128), (0x108, 64)] })) (logicalNo (z |> act 2 |> stf 0 (fun x => { x with imemFill := nopWord, imem := [(0, 1)] }) |> tl 0 (fun t => { t with phase := .refetch }) |> dr (fun d => { d with bytes := [(0x0D, 0xFF), (0x0E, 1), (0x28, 0xC0), (0x29, 1), (0x40, 5), (0x44, 4), (0x48, 128), (0x108, 64)] })) 0) 0 0).1,
      by decide +kernel⟩,
⟨(z |> act 2 |> stf 0 (fun x => { x with imemFill := nopWord, imem := [(0, 1)] }) |> tl 0 (fun t => { t with phase := .refetch }) |> dr (fun d => { d with bytes := [(0x0D, 0xFF), (0x0E, 1), (0x28, 0xC0), (0x29, 1), (0x40, 5), (0x44, 4), (0x48, 128), (0x108, 64)] }) |> tl 1 (fun t => { t with phase := .ready }) |> rg (ro pGlb 0x424) 0x640001),
      0, 0, 0, nopWord,
      (fetchItem (z |> act 2 |> stf 0 (fun x => { x with imemFill := nopWord, imem := [(0, 1)] }) |> tl 0 (fun t => { t with phase := .refetch }) |> dr (fun d => { d with bytes := [(0x0D, 0xFF), (0x0E, 1), (0x28, 0xC0), (0x29, 1), (0x40, 5), (0x44, 4), (0x48, 128), (0x108, 64)] }) |> tl 1 (fun t => { t with phase := .ready }) |> rg (ro pGlb 0x424) 0x640001) (logicalNo (z |> act 2 |> stf 0 (fun x => { x with imemFill := nopWord, imem := [(0, 1)] }) |> tl 0 (fun t => { t with phase := .refetch }) |> dr (fun d => { d with bytes := [(0x0D, 0xFF), (0x0E, 1), (0x28, 0xC0), (0x29, 1), (0x40, 5), (0x44, 4), (0x48, 128), (0x108, 64)] }) |> tl 1 (fun t => { t with phase := .ready }) |> rg (ro pGlb 0x424) 0x640001) 0) 0 0).1,
      1, by decide +kernel⟩,
⟨(z |> act 2 |> stf 0 (fun x => { x with imemFill := nopWord, imem := [(0, 1)] }) |> tl 0 (fun t => { t with phase := .refetch }) |> tl 1 (fun t => { t with phase := .ready })),
      0, 0, 0,
      (fetchItem (z |> act 2 |> stf 0 (fun x => { x with imemFill := nopWord, imem := [(0, 1)] }) |> tl 0 (fun t => { t with phase := .refetch }) |> tl 1 (fun t => { t with phase := .ready })) (logicalNo (z |> act 2 |> stf 0 (fun x => { x with imemFill := nopWord, imem := [(0, 1)] }) |> tl 0 (fun t => { t with phase := .refetch }) |> tl 1 (fun t => { t with phase := .ready })) 0) 0 0).1,
      1, by decide +kernel⟩⟩

theorem wit_FaultStopsTheTile :
(∃ (s : State) (p n c : Nat) (d : Reg) (rest : List (Nat × Check)) (q : Nat),
      (Obl.canBegin s p ∧ issueFindings s (tileOf s p).seen = (n, Check.fault c d) :: rest) ∧
      (∀ f ∈ rest, ∀ w k, f.2 ≠ Check.parity w k) ∧ q ∈ runTiles s ∧ q ≠ p ∧ (tileOf s q).halted = false ∧
      fenced s q = false) ∧
(∃ (s : State) (p c a q : Nat), inRun s p = true ∧ fenced s p = false ∧ countedWait s p = some (c, a) ∧
      (tileOf s p).halted = false ∧ q ∈ runTiles s ∧ q ≠ p ∧ (tileOf s q).halted = false ∧ fenced s q = false) ∧
(∃ (s : State) (p q : Nat), inRun s p = true ∧ s.run.faultStop = true ∧ (tileOf s p).halted = false ∧ q ∈ runTiles s ∧
      q ≠ p ∧ (tileOf s q).halted = false ∧ fenced s q = false) :=
  ⟨⟨(z |> act 2 |> stf 0 (fun x => { x with imemFill := nopWord, imem := [(0, 3 <<< 60)] }) |> tl 0 (fun t => { t with phase := .ready }) |> tl 1 (fun t => { t with phase := .ready })),
      0, 0, 1, (0x3000 : Reg), ([] : List (Nat × Check)), 1, by decide +kernel, by simp, by decide +kernel⟩,
⟨(z |> act 2 |> stf 0 (fun x => { x with imemFill := nopWord, imem := [(0, 0x300 <<< 8)], ftab := [(0, 0x10000)] }) |> tl 0 (fun t => { t with phase := .waiting }) |> tl 1 (fun t => { t with phase := .ready })),
      0, 0, 0x300, 1, by decide +kernel⟩,
⟨(z |> act 2 |> rn (fun r => { r with faultStop := true }) |> tl 0 (fun t => { t with phase := .waiting }) |> tl 1 (fun t => { t with phase := .close 8 })),
      0, 1, by decide +kernel⟩⟩

theorem wit_StepCompletes :
∃ (s : State) (p : Nat), Obl.canComplete s p ∧ regBit s trcCtl 0 = false ∧ (∀ n, n < 1024 →
    isEnd (Obl.word s p n) = false) ∧ (∀ n, n < 1024 → isSys 4 (Obl.word s p n) = false) :=
⟨(z |> act 2 |> stf 0 (fun x => { x with imemFill := nopWord, imem := [(0, (1 <<< 58) ||| (2 <<< 48) ||| (1 <<< 8)), (4096, 7 <<< 58)], ftab := [(0, 0x1FFFE)], rtab := [(0, 3)] }) |> tl 0 (fun t => { t with phase := .waiting }) |> tl 1 (fun t => { t with phase := .ready }) |> un 0 (fun u => { u with q0 := { u.q0 with places := [{ id := 0, write := false, addr := 0, data := 0, oor := false, stage := .ready, resp := [], poisoned := none, t0 := 0 }] } })),
    0, by decide +kernel⟩

theorem wit_EndHaltAndTracept :
(∃ (s : State) (p bp : Nat), Obl.canComplete s p ∧ regBit s trcCtl 0 = false ∧ bp < 1024 ∧ isEnd (Obl.word s p bp) = true ∧
      (∀ n, n < 1024 → isSys 4 (Obl.word s p n) = false)) ∧
(∃ (s : State) (p bp : Nat), Obl.canComplete s p ∧ regBit s trcCtl 0 = false ∧ bp < 1024 ∧
      isSys 4 (Obl.word s p bp) = true ∧ (∀ n, n < 1024 → isEnd (Obl.word s p n) = false) ∧ s.run.stopAt = none ∧
      s.run.cause = none ∧ s.run.faultStop = false) ∧
(∃ (s : State) (p bp : Nat), Obl.canComplete s p ∧ bp < 1024 ∧ isSys 3 (Obl.word s p bp) = true ∧
      (∀ n, n < 1024 → isEnd (Obl.word s p n) = false ∧ isSys 4 (Obl.word s p n) = false) ∧
      (∀ n, n < 1024 → n ≠ bp → isSys 3 (Obl.word s p n) = false) ∧ protectedBp s (logicalNo s p) bp = false ∧
      trcClass s 5 = true ∧ trcClass s 3 = false ∧ trcClass s 4 = false ∧ trcClass s 8 = false) :=
  ⟨⟨(z |> act 2 |> stf 0 (fun x => { x with imemFill := nopWord, imem := [(4190208, (3 <<< 58) ||| (2 <<< 60))], ftab := [(3840, 0x1FFFF)] }) |> tl 0 (fun t => { t with phase := .waiting }) |> tl 1 (fun t => { t with phase := .ready })),
      0, 1023, by decide +kernel⟩,
⟨(z |> act 2 |> stf 0 (fun x => { x with imemFill := nopWord, imem := [(0, (3 <<< 58) ||| (4 <<< 60))], ftab := [(0, 0x1FFFF)] }) |> tl 0 (fun t => { t with phase := .waiting }) |> tl 1 (fun t => { t with phase := .ready })),
      0, 0, by decide +kernel⟩,
⟨(z |> act 2 |> stf 0 (fun x => { x with imemFill := nopWord, imem := [(0, (3 <<< 58) ||| (3 <<< 60))], ftab := [(0, 0x1FFFF)] }) |> tl 0 (fun t => { t with phase := .waiting }) |> tl 1 (fun t => { t with phase := .ready }) |> rg trcCtl 0x21 |> rg (ro pTrc 0x090) 0x1000),
      0, 0, by decide +kernel⟩⟩

theorem wit_FlitDelivery :
(∃ (s : State) (p i : Nat) (f : Flit) (r : Rec), Obl.flitFor s p i f ∧ f.recs = [r] ∧
      (f.cyc + r.gen.toNat = (tileOf s p).mbxCycle ∨ f.cyc + r.gen.toNat = (tileOf s p).mbxCycle + 1) ∧
      Obl.here (tileOf s p) (f.cyc + r.gen.toNat) r.a r.m = false) ∧
(∃ (s : State) (p i : Nat) (f : Flit) (r : Rec), Obl.flitFor s p i f ∧ f.recs = [r] ∧
      f.cyc + r.gen.toNat = (tileOf s p).mbxCycle + 2 ∧ Tbl.get false (tileOf s p).st.holdHere (r.a * 256 + r.m) = false) ∧
(∃ (s : State) (p i : Nat) (f : Flit) (r : Rec), Obl.flitFor s p i f ∧ f.recs = [r] ∧
      f.cyc + r.gen.toNat + 1 = (tileOf s p).mbxCycle) ∧
(∃ (s : State) (p i : Nat) (f : Flit), s.ex.flits[i]? = some f ∧ f.isFor s p = true ∧ fenced s p = true) ∧
(∃ (s : State) (p i j : Nat) (f g : Flit), s.ex.flits[i]? = some f ∧ s.ex.flits[j]? = some g ∧ f.isFor s p = true ∧
      g.isFor s p = true ∧ onRing1 s i = true ∧ onRing1 s j = false) :=
  ⟨⟨(z |> act 2 |> tl 0 (fun t => { t with phase := .ready }) |> tl 1 (fun t => { t with phase := .waiting, cycle := 4, mbxCycle := 4 }) |> ex (fun x => { x with flits := [({ out := false, dstDev := 0, dstDie := 0, dstTile := 1, dstPhys := 1, srcDev := 0, srcDie := 0, srcTile := 0, srcPhys := 0, srcEpoch := 0, cyc := 4, recs := [({ res := true, a := 1023, m := 255, gen := true } : Rec)], loc := .ring 0 0 } : Flit)] })),
      1, 0,
      ({ out := false, dstDev := 0, dstDie := 0, dstTile := 1, dstPhys := 1, srcDev := 0, srcDie := 0, srcTile := 0, srcPhys := 0, srcEpoch := 0, cyc := 4, recs := [({ res := true, a := 1023, m := 255, gen := true } : Rec)], loc := .ring 0 0 } : Flit),
      ({ res := true, a := 1023, m := 255, gen := true } : Rec), by decide +kernel⟩,
⟨(z |> act 2 |> tl 0 (fun t => { t with phase := .ready }) |> tl 1 (fun t => { t with phase := .waiting, cycle := 4, mbxCycle := 4 }) |> ex (fun x => { x with flits := [({ out := false, dstDev := 0, dstDie := 0, dstTile := 1, dstPhys := 1, srcDev := 0, srcDie := 0, srcTile := 0, srcPhys := 0, srcEpoch := 0, cyc := 5, recs := [({ res := true, a := 1023, m := 255, gen := true } : Rec)], loc := .ring 0 0 } : Flit)] })),
      1, 0,
      ({ out := false, dstDev := 0, dstDie := 0, dstTile := 1, dstPhys := 1, srcDev := 0, srcDie := 0, srcTile := 0, srcPhys := 0, srcEpoch := 0, cyc := 5, recs := [({ res := true, a := 1023, m := 255, gen := true } : Rec)], loc := .ring 0 0 } : Flit),
      ({ res := true, a := 1023, m := 255, gen := true } : Rec), by decide +kernel⟩,
⟨(z |> act 2 |> tl 0 (fun t => { t with phase := .ready }) |> tl 1 (fun t => { t with phase := .waiting, cycle := 5, mbxCycle := 5 }) |> ex (fun x => { x with flits := [({ out := false, dstDev := 0, dstDie := 0, dstTile := 1, dstPhys := 1, srcDev := 0, srcDie := 0, srcTile := 0, srcPhys := 0, srcEpoch := 0, cyc := 3, recs := [({ res := true, a := 1023, m := 255, gen := true } : Rec)], loc := .ring 0 0 } : Flit)] }) |> rg (ro (pTil 1) 0x180) 0xFFFFFFFF),
      1, 0,
      ({ out := false, dstDev := 0, dstDie := 0, dstTile := 1, dstPhys := 1, srcDev := 0, srcDie := 0, srcTile := 0, srcPhys := 0, srcEpoch := 0, cyc := 3, recs := [({ res := true, a := 1023, m := 255, gen := true } : Rec)], loc := .ring 0 0 } : Flit),
      ({ res := true, a := 1023, m := 255, gen := true } : Rec), by decide +kernel⟩,
⟨(z |> act 2 |> tl 0 (fun t => { t with phase := .ready }) |> ex (fun x => { x with flits := [({ out := false, dstDev := 0, dstDie := 0, dstTile := 1, dstPhys := 0, srcDev := 0, srcDie := 0, srcTile := 0, srcPhys := 0, srcEpoch := 0, cyc := 5, recs := [({ res := true, a := 1023, m := 255, gen := true } : Rec)], loc := .ring 0 0 } : Flit)] }) |> rg (fenceReg 0) 1),
      0, 0,
      ({ out := false, dstDev := 0, dstDie := 0, dstTile := 1, dstPhys := 0, srcDev := 0, srcDie := 0, srcTile := 0, srcPhys := 0, srcEpoch := 0, cyc := 5, recs := [({ res := true, a := 1023, m := 255, gen := true } : Rec)], loc := .ring 0 0 } : Flit),
      by decide +kernel⟩,
⟨(z |> act 2 |> tl 0 (fun t => { t with phase := .ready }) |> ex (fun x => { x with flits := [({ out := false, dstDev := 0, dstDie := 0, dstTile := 1, dstPhys := 1, srcDev := 0, srcDie := 0, srcTile := 0, srcPhys := 0, srcEpoch := 0, cyc := 0, recs := [({ res := true, a := 1023, m := 255, gen := true } : Rec)], loc := .ring 0 1 } : Flit), ({ out := false, dstDev := 0, dstDie := 0, dstTile := 1, dstPhys := 1, srcDev := 0, srcDie := 0, srcTile := 0, srcPhys := 0, srcEpoch := 0, cyc := 0, recs := [({ res := true, a := 1023, m := 255, gen := true } : Rec)], loc := .ring 0 0 } : Flit)] })),
      1, 0, 1,
      ({ out := false, dstDev := 0, dstDie := 0, dstTile := 1, dstPhys := 1, srcDev := 0, srcDie := 0, srcTile := 0, srcPhys := 0, srcEpoch := 0, cyc := 0, recs := [({ res := true, a := 1023, m := 255, gen := true } : Rec)], loc := .ring 0 1 } : Flit),
      ({ out := false, dstDev := 0, dstDie := 0, dstTile := 1, dstPhys := 1, srcDev := 0, srcDie := 0, srcTile := 0, srcPhys := 0, srcEpoch := 0, cyc := 0, recs := [({ res := true, a := 1023, m := 255, gen := true } : Rec)], loc := .ring 0 0 } : Flit),
      by decide +kernel⟩⟩

theorem wit_DoubleDeliveryFaults :
∃ (s : State) (p i : Nat) (f : Flit) (r : Rec) (q : Nat), Obl.flitFor s p i f ∧ f.recs = [r] ∧
    f.cyc + r.gen.toNat = (tileOf s p).mbxCycle ∧ Obl.here (tileOf s p) (f.cyc + r.gen.toNat) r.a r.m = true ∧
    (tileOf s p).halted = false ∧ s.run.active = true ∧ q ∈ runTiles s ∧ q ≠ p ∧ (tileOf s q).halted = false ∧
    fenced s q = false :=
⟨(z |> act 2 |> tl 0 (fun t => { t with phase := .ready }) |> tl 1 (fun t => { t with phase := .waiting, cycle := 0, mbxCycle := 0 }) |> stf 1 (fun x => { x with mbxHere := [(mbxKey 0 5 7, true)] }) |> ex (fun x => { x with flits := [({ out := false, dstDev := 0, dstDie := 0, dstTile := 1, dstPhys := 1, srcDev := 0, srcDie := 0, srcTile := 0, srcPhys := 0, srcEpoch := 0, cyc := 0, recs := [({ res := true, a := 5, m := 7, gen := false } : Rec)], loc := .ring 0 0 } : Flit)] })),
    1, 0,
    ({ out := false, dstDev := 0, dstDie := 0, dstTile := 1, dstPhys := 1, srcDev := 0, srcDie := 0, srcTile := 0, srcPhys := 0, srcEpoch := 0, cyc := 0, recs := [({ res := true, a := 5, m := 7, gen := false } : Rec)], loc := .ring 0 0 } : Flit),
    ({ res := true, a := 5, m := 7, gen := false } : Rec), 0, by decide +kernel⟩

theorem wit_HeavyReturnReachesTheBand :
∃ (s : State) (p i : Nat) (r : Ret) (w : Word), (tileOf s p).un.returns[i]? = some r ∧ r.words = [w] ∧
    r.cyc = (tileOf s p).mbxCycle ∧ (∀ k, k < 64 → Obl.here (tileOf s p) r.cyc (r.band * 64 + k) (r.base % 256) = false) :=
⟨(z |> act 2 |> tl 0 (fun t => { t with phase := .ready }) |> tl 1 (fun t => { t with phase := .waiting, cycle := 1, mbxCycle := 1 }) |> un 1 (fun u => { u with returns := [({ band := 15, base := 256, words := [0x8000000000000001], cyc := 1 } : Ret)] })),
    1, 0, ({ band := 15, base := 256, words := [0x8000000000000001], cyc := 1 } : Ret), (0x8000000000000001 : Word),
    by decide +kernel⟩

theorem wit_WindowsBecomeFlits :
(∃ (s : State) (p i : Nat) (w : Window), ((tileOf s p).windows[i]? = some w ∧ w.recs ≠ [] ∧ w.recs.length ≤ 64) ∧
      (∀ dev die tile, w.tgt = .tile dev die tile → ¬(dev = devIdx s ∧ die = p / 17 ∧ regF s (mapReg (16 * die + tile)) 0 5 = p % 17))) ∧
(∃ (s : State) (p i : Nat) (w : Window), (tileOf s p).windows[i]? = some w ∧ w.recs ≠ [] ∧ w.recs.length ≤ 64 ∧
      (Obl.flitOf s p w).out = false ∧ (Obl.flitOf s p w).dstDev = devIdx s ∧ (Obl.flitOf s p w).dstDie = p / 17 ∧
      (Obl.flitOf s p w).dstPhys = p % 17) ∧
(∃ (s : State) (p r : Nat) (f : Flit) (l : Nat), (tileOf s p).released.find? (fun g => g.ringAt s p == r) = some f ∧
      logicalOf s p = some l) :=
  ⟨⟨(z |> act 2 |> tl 0 (fun t => { t with phase := .ready }) |> rg (mapReg 0) 0 |> rg (mapReg 1) 1 |> tl 0 (fun t => { t with windows := [({ tgt := .tile 0 0 1, recs := List.replicate 64 ({ res := true, a := 5, m := 7, gen := false } : Rec), cyc := 3, opened := 0, steps := 4 } : Window)] })),
      0, 0,
      ({ tgt := .tile 0 0 1, recs := List.replicate 64 ({ res := true, a := 5, m := 7, gen := false } : Rec), cyc := 3, opened := 0, steps := 4 } : Window),
      by decide +kernel, by intro _ _ _ h; injection h with h1 h2 h3; subst h1 h2 h3; decide +kernel⟩,
⟨(z |> act 2 |> tl 0 (fun t => { t with phase := .ready }) |> rg (mapReg 0) 0 |> rg (mapReg 1) 1 |> tl 0 (fun t => { t with windows := [({ tgt := .tile 0 0 0, recs := [({ res := true, a := 5, m := 7, gen := false } : Rec)], cyc := 3, opened := 0, steps := 4 } : Window)] })),
      0, 0,
      ({ tgt := .tile 0 0 0, recs := [({ res := true, a := 5, m := 7, gen := false } : Rec)], cyc := 3, opened := 0, steps := 4 } : Window),
      by decide +kernel⟩,
⟨(z |> act 2 |> tl 0 (fun t => { t with phase := .ready }) |> rg (mapReg 0) 0x700 |> tl 0 (fun t => { t with released := [({ out := false, dstDev := 0, dstDie := 0, dstTile := 1, dstPhys := 1, srcDev := 0, srcDie := 0, srcTile := 0, srcPhys := 0, srcEpoch := 0, cyc := 0, recs := [({ res := true, a := 5, m := 7, gen := false } : Rec)], loc := .stop } : Flit)] })),
      0, 0,
      ({ out := false, dstDev := 0, dstDie := 0, dstTile := 1, dstPhys := 1, srcDev := 0, srcDie := 0, srcTile := 0, srcPhys := 0, srcEpoch := 0, cyc := 0, recs := [({ res := true, a := 5, m := 7, gen := false } : Rec)], loc := .stop } : Flit),
      0, by decide +kernel⟩⟩

theorem wit_FlitsCrossTheDevice :
(∃ (s : State) (d i : Nat) (f : Flit), s.ex.flits[i]? = some f ∧ f.leaves s d = true ∧ mayspeak s f = true ∧
      flitsAt s (.iface d) < 128) ∧
(∃ (s : State) (i : Nat) (f : Flit) (d b : Nat), s.ex.flits[i]? = some f ∧ f.loc = .iface d ∧
      firstAt s i (.iface d) = true ∧ exitStop s f = some b) ∧
(∃ (s : State) (i : Nat) (f : Flit) (r b : Nat), s.ex.flits[i]? = some f ∧ f.loc = .main r b ∧ f.out = false ∧
      f.dstDev = devIdx s ∧ flitsAt s (.inbound f.dstDie) < 128) ∧
(∃ (s : State) (i : Nat) (f : Flit) (d : Nat), s.ex.flits[i]? = some f ∧ f.loc = .inbound d ∧
      firstAt s i (.inbound d) = true) ∧
(∃ (s : State) (i : Nat) (f : Flit) (r b : Nat), s.ex.flits[i]? = some f ∧ f.loc = .main r b ∧ f.out = true) ∧
(∃ (s : State) (i : Nat) (f : Flit) (r b n : Nat), s.ex.flits[i]? = some f ∧ f.loc = .main r b ∧ f.out = false ∧
      f.dstDev ≠ devIdx s ∧ flitPort s f = some n) :=
  ⟨⟨(z |> act 2 |> tl 0 (fun t => { t with phase := .ready }) |> ex (fun x => { x with flits := [({ out := false, dstDev := 0, dstDie := 3, dstTile := 15, dstPhys := 0, srcDev := 0, srcDie := 0, srcTile := 0, srcPhys := 0, srcEpoch := 0, cyc := 0, recs := [({ res := true, a := 5, m := 7, gen := false } : Rec)], loc := .ring 0 0 } : Flit)] })),
      0, 0,
      ({ out := false, dstDev := 0, dstDie := 3, dstTile := 15, dstPhys := 0, srcDev := 0, srcDie := 0, srcTile := 0, srcPhys := 0, srcEpoch := 0, cyc := 0, recs := [({ res := true, a := 5, m := 7, gen := false } : Rec)], loc := .ring 0 0 } : Flit),
      by decide +kernel⟩,
⟨(z |> act 2 |> tl 0 (fun t => { t with phase := .ready }) |> ex (fun x => { x with flits := [({ out := false, dstDev := 0, dstDie := 3, dstTile := 15, dstPhys := 0, srcDev := 0, srcDie := 0, srcTile := 0, srcPhys := 0, srcEpoch := 0, cyc := 0, recs := [({ res := true, a := 5, m := 7, gen := false } : Rec)], loc := .iface 0 } : Flit)] })),
      0,
      ({ out := false, dstDev := 0, dstDie := 3, dstTile := 15, dstPhys := 0, srcDev := 0, srcDie := 0, srcTile := 0, srcPhys := 0, srcEpoch := 0, cyc := 0, recs := [({ res := true, a := 5, m := 7, gen := false } : Rec)], loc := .iface 0 } : Flit),
      0, 9, by decide +kernel⟩,
⟨(z |> act 2 |> tl 0 (fun t => { t with phase := .ready }) |> ex (fun x => { x with flits := [({ out := false, dstDev := 0, dstDie := 3, dstTile := 15, dstPhys := 0, srcDev := 0, srcDie := 0, srcTile := 0, srcPhys := 0, srcEpoch := 0, cyc := 0, recs := [({ res := true, a := 5, m := 7, gen := false } : Rec)], loc := .main 1 9 } : Flit)] })),
      0,
      ({ out := false, dstDev := 0, dstDie := 3, dstTile := 15, dstPhys := 0, srcDev := 0, srcDie := 0, srcTile := 0, srcPhys := 0, srcEpoch := 0, cyc := 0, recs := [({ res := true, a := 5, m := 7, gen := false } : Rec)], loc := .main 1 9 } : Flit),
      1, 9, by decide +kernel⟩,
⟨(z |> act 2 |> tl 0 (fun t => { t with phase := .ready }) |> rg (mapReg 63) 16 |> ex (fun x => { x with flits := [({ out := false, dstDev := 0, dstDie := 3, dstTile := 15, dstPhys := 0, srcDev := 0, srcDie := 0, srcTile := 0, srcPhys := 0, srcEpoch := 0, cyc := 0, recs := [({ res := true, a := 5, m := 7, gen := false } : Rec)], loc := .inbound 3 } : Flit)] })),
      0,
      ({ out := false, dstDev := 0, dstDie := 3, dstTile := 15, dstPhys := 0, srcDev := 0, srcDie := 0, srcTile := 0, srcPhys := 0, srcEpoch := 0, cyc := 0, recs := [({ res := true, a := 5, m := 7, gen := false } : Rec)], loc := .inbound 3 } : Flit),
      3, by decide +kernel⟩,
⟨(z |> act 2 |> tl 0 (fun t => { t with phase := .ready }) |> ex (fun x => { x with flits := [({ out := true, dstDev := 0, dstDie := 0, dstTile := 1, dstPhys := 1, srcDev := 0, srcDie := 0, srcTile := 0, srcPhys := 0, srcEpoch := 0, cyc := 0, recs := [({ res := true, a := 63, m := 63, gen := false } : Rec)], loc := .main 1 22 } : Flit)] })),
      0,
      ({ out := true, dstDev := 0, dstDie := 0, dstTile := 1, dstPhys := 1, srcDev := 0, srcDie := 0, srcTile := 0, srcPhys := 0, srcEpoch := 0, cyc := 0, recs := [({ res := true, a := 63, m := 63, gen := false } : Rec)], loc := .main 1 22 } : Flit),
      1, 22, by decide +kernel⟩,
⟨(z |> act 2 |> tl 0 (fun t => { t with phase := .ready }) |> rg (ro pGlb 0x37C) 0x8001 |> ex (fun x => { x with flits := [({ out := false, dstDev := 15, dstDie := 3, dstTile := 15, dstPhys := 0, srcDev := 0, srcDie := 0, srcTile := 0, srcPhys := 0, srcEpoch := 0, cyc := 0, recs := [({ res := true, a := 5, m := 7, gen := false } : Rec)], loc := .main 0 12 } : Flit)] })),
      0,
      ({ out := false, dstDev := 15, dstDie := 3, dstTile := 15, dstPhys := 0, srcDev := 0, srcDie := 0, srcTile := 0, srcPhys := 0, srcEpoch := 0, cyc := 0, recs := [({ res := true, a := 5, m := 7, gen := false } : Rec)], loc := .main 0 12 } : Flit),
      0, 12, 15, by decide +kernel⟩⟩

theorem wit_OutputFlitsAndBegunTokens :
(∃ (s : State) (i : Nat) (f : Flit) (r : Rec) (e : OEntry), s.ex.flits[i]? = some f ∧ f.out = true ∧ f.loc = .rim ∧
      f.recs = [r] ∧ outqOf s r.a = [e] ∧ e.cyc = f.cyc ∧ e.got.getLsbD r.m = false ∧ r.m < 64) ∧
(∃ (s : State) (dev n c : Nat), s.run.active = true ∧ dev ∈ peers s ∧ linkPorts s dev = [n] ∧
      c = Tbl.get 0 s.ex.sentBegun dev ∧ (∀ p ∈ slipTiles s, c ≤ (tileOf s p).cycle) ∧
      (c = 0 ∨ flitsFor s dev (c - 1) = false)) :=
  ⟨⟨(z |> act 2 |> tl 0 (fun t => { t with phase := .ready }) |> ex (fun x => { x with flits := [({ out := true, dstDev := 0, dstDie := 0, dstTile := 1, dstPhys := 1, srcDev := 0, srcDie := 0, srcTile := 0, srcPhys := 0, srcEpoch := 0, cyc := 2, recs := [({ res := true, a := 63, m := 63, gen := false } : Rec)], loc := .rim } : Flit)] }) |> aq (fun x => { x with outq := [(63, [({ cyc := 2, bits := 1, got := 1, visible := false, valid := false } : OEntry)])] })),
      0,
      ({ out := true, dstDev := 0, dstDie := 0, dstTile := 1, dstPhys := 1, srcDev := 0, srcDie := 0, srcTile := 0, srcPhys := 0, srcEpoch := 0, cyc := 2, recs := [({ res := true, a := 63, m := 63, gen := false } : Rec)], loc := .rim } : Flit),
      ({ res := true, a := 63, m := 63, gen := false } : Rec),
      ({ cyc := 2, bits := 1, got := 1, visible := false, valid := false } : OEntry), by decide +kernel⟩,
⟨(z |> act 2 |> tl 0 (fun t => { t with phase := .ready }) |> im (fun x => { x with devMask := 0x8001 }) |> rg (ro pGlb 0x37C) 0x8000 |> tl 0 (fun t => { t with cycle := 1 }) |> tl 1 (fun t => { t with cycle := 1 }) |> ex (fun x => { x with sentBegun := [(15, 1)] })),
      15, 15, 1, by decide +kernel⟩⟩

theorem wit_CloseStepsInOrder :
(∃ (s : State) (p : Nat), Obl.atClose s p 2 ∧ c2Blocked s p = false ∧ lastAtC2 s p (tileOf s p).cycle = false) ∧
(∃ (s : State) (p : Nat), Obl.atClose s p 3 ∧ c3Blocked s p = false ∧ (tileOf s p).st.holdHere = []) ∧
(∃ (s : State) (p n m : Nat) (v : Bool), n < 1024 ∧ m < 256 ∧ Obl.atClose s p 3 ∧ c3Blocked s p = false ∧
      (tileOf s p).st.holdHere = [(n * 256 + m, true)] ∧ (tileOf s p).st.holdVal = [(n * 256 + m, v)]) ∧
(∃ (s : State) (p : Nat) (r : InRec), Obl.atClose s p 5 ∧ recordOf s ((tileOf s p).cycle + 1) = some r ∧
      snapWants s (tileOf s p).cycle = false ∧ ckptDue s ((tileOf s p).cycle + 1) = false ∧
      (tileOf s p).seen.st.badPort = none) ∧
(∃ (s : State) (p : Nat) (r : InRec) (k : Nat), Obl.atClose s p 5 ∧ recordOf s ((tileOf s p).cycle + 1) = some r ∧
      (tileOf s p).seen.st.badPort = some k) ∧
(∃ (s : State) (p : Nat) (r : InRec) (k : Nat) (v : BitVec 16) (x : State), Obl.atClose s p 5 ∧
      recordOf s ((tileOf s p).cycle + 1) = some r ∧ (tileOf s p).seen.st.badPort = some k ∧ trcClass s 6 = false ∧
      goldenPort s (logicalNo s p) k = some v ∧ x = (fetchItem s (logicalNo s p) 3 k).1 ∧
      (fetchItem s (logicalNo s p) 3 k).2 = true) :=
  ⟨⟨(z |> act 2 |> tl 0 (fun t => { t with phase := .close 2, cycle := 0, mbxCycle := 0 }) |> tl 1 (fun t => { t with phase := .ready, cycle := 0 })),
      0, by decide +kernel⟩,
⟨(z |> act 2 |> tl 0 (fun t => { t with phase := .close 3, cycle := 1, mbxCycle := 1 }) |> tl 1 (fun t => { t with phase := .ready, cycle := 1 }) |> stf 0 (fun x => { x with mbxHere := [(mbxKey 0 1023 255, true), (mbxKey 1 0 0, true)] })),
      0, by decide +kernel⟩,
⟨(z |> act 2 |> tl 0 (fun t => { t with phase := .close 3, cycle := 1, mbxCycle := 1 }) |> tl 1 (fun t => { t with phase := .ready, cycle := 1 }) |> stf 0 (fun x => { x with holdHere := [(262143, true)], holdVal := [(262143, true)] })),
      0, 1023, 255, true, by decide +kernel⟩,
⟨(z |> act 2 |> tl 0 (fun t => { t with phase := .close 5, cycle := 1, mbxCycle := 1 }) |> tl 1 (fun t => { t with phase := .ready, cycle := 1 }) |> rn (fun r => { r with record := some { cyc := 2, flags := 5, entries := [(63, 9)] } }) |> stf 0 (fun x => { x with ptab := [(0, 0x7F00)] })),
      0, { cyc := 2, flags := 5, entries := [(63, 9)] }, by decide +kernel⟩,
⟨(z |> act 2 |> tl 0 (fun t => { t with phase := .close 5, cycle := 1, mbxCycle := 1 }) |> tl 1 (fun t => { t with phase := .ready, cycle := 1 }) |> rn (fun r => { r with record := some { cyc := 2, flags := 5, entries := [] } }) |> stf 0 (fun x => { x with ptab := [(1023, 0x4001)], badParity := [(3, 1023)] })),
      0, ({ cyc := 2, flags := 5, entries := [] } : InRec), 1023, by decide +kernel⟩,
⟨(z |> act 2 |> tl 0 (fun t => { t with phase := .close 5, cycle := 1, mbxCycle := 1 }) |> tl 1 (fun t => { t with phase := .ready, cycle := 1 }) |> rn (fun r => { r with record := some { cyc := 2, flags := 5, entries := [] } }) |> stf 0 (fun x => { x with ptab := [(1023, 0x4001)], badParity := [(3, 1023)] }) |> dr (fun d => { d with bytes := [(0x0D, 0xFF), (0x0E, 1), (0x28, 0xC0), (0x29, 1), (0x40, 5), (0x44, 4), (0x48, 128), (0x108, 64)] })),
      0, ({ cyc := 2, flags := 5, entries := [] } : InRec), 1023, 0,
      (fetchItem (z |> act 2 |> tl 0 (fun t => { t with phase := .close 5, cycle := 1, mbxCycle := 1 }) |> tl 1 (fun t => { t with phase := .ready, cycle := 1 }) |> rn (fun r => { r with record := some { cyc := 2, flags := 5, entries := [] } }) |> stf 0 (fun x => { x with ptab := [(1023, 0x4001)], badParity := [(3, 1023)] }) |> dr (fun d => { d with bytes := [(0x0D, 0xFF), (0x0E, 1), (0x28, 0xC0), (0x29, 1), (0x40, 5), (0x44, 4), (0x48, 128), (0x108, 64)] })) (logicalNo (z |> act 2 |> tl 0 (fun t => { t with phase := .close 5, cycle := 1, mbxCycle := 1 }) |> tl 1 (fun t => { t with phase := .ready, cycle := 1 }) |> rn (fun r => { r with record := some { cyc := 2, flags := 5, entries := [] } }) |> stf 0 (fun x => { x with ptab := [(1023, 0x4001)], badParity := [(3, 1023)] }) |> dr (fun d => { d with bytes := [(0x0D, 0xFF), (0x0E, 1), (0x28, 0xC0), (0x29, 1), (0x40, 5), (0x44, 4), (0x48, 128), (0x108, 64)] })) 0) 3 1023).1,
      by decide +kernel⟩⟩

theorem wit_CycleAdvances :
(∃ (s : State) (p : Nat), Obl.atClose s p 8 ∧ Obl.plainC8 s p ∧ stopsHere s (tileOf s p).cycle = false ∧
      c8Gate s (tileOf s p).cycle = none) ∧
(∃ (s : State) (p g : Nat), Obl.atClose s p 8 ∧ Obl.plainC8 s p ∧
      (stopsHere s (tileOf s p).cycle = false ∨ rollsBack s = true) ∧ c8Gate s (tileOf s p).cycle = some g) ∧
(∃ (s : State) (p q : Nat), Obl.atClose s p 8 ∧ Obl.plainC8 s p ∧ stopsHere s (tileOf s p).cycle = true ∧
      rollsBack s = false ∧ q ∈ runTiles s ∧ q ≠ p ∧ (tileOf s q).halted = false ∧ fenced s q = false) ∧
(∃ (s : State) (p last : Nat), Obl.atClose s p 8 ∧ Obl.plainC8 s p ∧ peers s ≠ [] ∧ s.run.faultStop = false ∧
      s.run.stopAt = none ∧ (tileOf s p).cycle < last ∧ c8Gate s (tileOf s p).cycle = none) ∧
(∃ (s : State) (p q : Nat), Obl.atClose s p 8 ∧ Obl.plainC8 s p ∧ peers s ≠ [] ∧ q ∈ runTiles s ∧ q ≠ p ∧
      (tileOf s q).halted = false ∧ fenced s q = false) ∧
(∃ (s : State) (p : Nat), Obl.atClose s p 8 ∧ s.run.holds = [] ∧ trcHolds s 4 = false ∧
      ckptDue s ((tileOf s p).cycle + 1) = false ∧ (tileOf s p).cycle + 1 < cycleLimit ∧ runMode s = 1 ∧
      s.run.grant < (tileOf s p).cycle + 1) :=
  ⟨⟨(z |> act 2 |> tl 0 (fun t => { t with phase := .close 8, cycle := 1, mbxCycle := 1 }) |> tl 1 (fun t => { t with phase := .ready, cycle := 1 })),
      0, by decide +kernel⟩,
⟨(z |> act 2 |> tl 0 (fun t => { t with phase := .close 8, cycle := 1, mbxCycle := 1 }) |> tl 1 (fun t => { t with phase := .ready, cycle := 1 }) |> rg (ro pGlb 0x100) 1),
      0, 0xB, by decide +kernel⟩,
⟨(z |> act 2 |> tl 0 (fun t => { t with phase := .close 8, cycle := 1, mbxCycle := 1 }) |> tl 1 (fun t => { t with phase := .ready, cycle := 1 }) |> rn (fun r => { r with stopAt := some 1 })),
      0, 1, by decide +kernel⟩,
⟨(z |> act 2 |> tl 0 (fun t => { t with phase := .close 8, cycle := 1, mbxCycle := 1 }) |> tl 1 (fun t => { t with phase := .ready, cycle := 1 }) |> im (fun x => { x with devMask := 3 })),
      0, 9, by decide +kernel⟩,
⟨(z |> act 2 |> tl 0 (fun t => { t with phase := .close 8, cycle := 1, mbxCycle := 1 }) |> tl 1 (fun t => { t with phase := .ready, cycle := 1 }) |> im (fun x => { x with devMask := 3 })),
      0, 1, by decide +kernel⟩,
⟨(z |> act 2 |> tl 0 (fun t => { t with phase := .close 8, cycle := 1, mbxCycle := 1 }) |> tl 1 (fun t => { t with phase := .ready, cycle := 1 }) |> rg (ro pGlb 0x100) 1 |> rn (fun r => { r with grant := 1 })),
      0, by decide +kernel⟩⟩

theorem wit_InputRecordTakesOneEntryOfEachQueue :
∃ (s : State) (k : Nat), s.run.active = true ∧ recordDue s = some k ∧ s.recov.replay = [] ∧ s.recov.active = false ∧ (∀ q,
    q < 64 → s.img.inQ.getLsbD q = true → inqOf s q ≠ []) :=
⟨(z |> act 2 |> tl 0 (fun t => { t with phase := .close 5, cycle := 1, mbxCycle := 1 }) |> tl 1 (fun t => { t with phase := .close 5, cycle := 1 }) |> im (fun x => { x with inQ := 0x8000000000000001 }) |> aq (fun x => { x with inq := [(0, [5, 6]), (1, [4]), (63, [7])] }) |> mk (fun m => { m with sticky := 0x100000000 })),
    2, by decide +kernel⟩

theorem wit_CycleLimitAndPace :
(∃ (s : State), s.run.active = true ∧ maxBegun s + 1 = cycleLimit ∧ s.run.cause = none ∧ s.run.stopAt = none ∧
      s.run.faultStop = false) ∧
(∃ (s : State), pacedRun s = true) ∧
(∃ (s : State) (k : Nat), pacedRun s = true ∧
      (curCycle s ≤ (match s.run.missed with | some m => m + 1 | none => s.run.first)) ∧ missedCycle s = some k ∧
      reachedGate s k = false ∧ regBit s (ro pGlb 0x120) 8 = true) ∧
(∃ (s : State) (k q : Nat), pacedRun s = true ∧
      (curCycle s ≤ (match s.run.missed with | some m => m + 1 | none => s.run.first)) ∧ missedCycle s = some k ∧
      reachedGate s k = false ∧ regBit s (ro pGlb 0x120) 8 = false ∧ s.run.faultStop = false ∧
      paceOpen s s.run.first = true ∧ q ∈ runTiles s ∧ (tileOf s q).halted = false ∧ fenced s q = false) :=
  ⟨⟨(z |> act 2 |> tl 0 (fun t => { t with phase := .close 8, cycle := 281474976710655, mbxCycle := 281474976710655 }) |> tl 1 (fun t => { t with phase := .ready, cycle := 281474976710655 })),
      by decide +kernel⟩,
⟨(z |> act 2 |> tl 0 (fun t => { t with phase := .close 8, cycle := 1, mbxCycle := 1 }) |> tl 1 (fun t => { t with phase := .ready, cycle := 1 }) |> rg (ro pGlb 0x100) 2),
      by decide +kernel⟩,
⟨(z |> act 2 |> tl 0 (fun t => { t with phase := .close 3, cycle := 0, mbxCycle := 0 }) |> tl 1 (fun t => { t with phase := .ready, cycle := 0 }) |> rg (ro pGlb 0x100) 2 |> rg (ro pGlb 0x120) 0x100 |> rn (fun r => { r with ticks := 2 })),
      0, by decide +kernel⟩,
⟨(z |> act 2 |> tl 0 (fun t => { t with phase := .close 3, cycle := 0, mbxCycle := 0 }) |> tl 1 (fun t => { t with phase := .ready, cycle := 0 }) |> rg (ro pGlb 0x100) 2 |> rn (fun r => { r with ticks := 2 })),
      0, 1, by decide +kernel⟩⟩

theorem wit_AdmissionCheckReports :
(∃ (v : Reg), v.getLsbD 3 = false) ∧
(∃ (s : State) (v : Reg), v.getLsbD 3 = true ∧ runMode s ≠ 2 ∧ enabledChans s = [] ∧ looseTrace s = false) ∧
(∃ (s : State) (v : Reg), v.getLsbD 3 = true ∧ runMode s = 2 ∧ s.cfg.resValid = false ∧ enabledChans s = [] ∧
      looseTrace s = false) ∧
(∃ (s : State) (v : Reg) (dev reason : Nat), v.getLsbD 3 = true ∧ runMode s = 2 ∧ s.cfg.resValid = true ∧ dev ∈ peers s ∧
      reason % 8 ≠ 0 ∧ (pacedPart (writeRW s (ro pGlb 0x140) v)).1 = 0 ∧ enabledChans s = [] ∧ looseTrace s = false) :=
  ⟨⟨(7 : Reg), by decide +kernel⟩,
⟨z, (8 : Reg), by decide +kernel⟩,
⟨(z |> rg (ro pGlb 0x100) 2 |> hw (fun h => { h with straps := 0x0F })), (0xF : Reg), by decide +kernel⟩,
⟨(z |> rg (ro pGlb 0x100) 2 |> cf (fun c => { c with resValid := true }) |> im (fun x => { x with devMask := 0x8001 }) |> rg (ro pGlb 0x37C) 1 |> rg (ro pGlb 0x380) 100 |> rg (ro pGlb 0x124) 0xFFFFFF |> pt 0 (fun p => { p with state := 8, lats := [5] })),
      (8 : Reg), 15, (7 : Nat), by decide +kernel⟩⟩

theorem wit_GovernorFollowsThePowerCap :
(∃ (s : State) (n : Nat), govRun s = true ∧ min (8 * capEff s) 4247 < n) ∧
(∃ (s : State) (n : Nat), govRun s = true ∧ 100 * n < 95 * min (8 * capEff s) 4247) ∧
(∃ (s : State) (m : Nat), govRun s = true ∧ atFloor s m = false) ∧
(∃ (s : State) (m : Nat), govRun s = true ∧ atFloor s m = true ∧ regBit s govStat 9 = false) :=
  ⟨⟨(z |> act 2 |> rg (effReg 0) 5), 4321, by decide +kernel⟩,
⟨(z |> act 2 |> rg (effReg 0) 0x2E), 4000, by decide +kernel⟩,
⟨(z |> act 2 |> rg (clkReg 0) 400 |> rg (effReg 0) 4), 4200, by decide +kernel⟩,
⟨(z |> act 2 |> rg (clkReg 0) 400 |> rg (effReg 0) 4), 4321, by decide +kernel⟩⟩

theorem wit_ClocksStepDown :
(∃ (s : State), pacedRun s = true ∧ min (8 * capEff s) 4247 < regF s (ro pPwr 0x088) 0 16) ∧
(∃ (s : State) (d f : Nat), (dieOf s d).pllTarget = some f ∧ d < 4 ∧ stepClk s d ≠ 0 ∧ regBit s trcCtl 0 = false) :=
  ⟨⟨(z |> act 2 |> rg (ro pGlb 0x100) 2 |> rg (clkReg 0) 425 |> rg (ro pPwr 0x088) 5000), by decide +kernel⟩,
⟨(z |> rg (clkReg 3) 1600 |> di 3 (fun d => { d with pllTarget := some 1575 })), 3, 1575, by decide +kernel⟩⟩

theorem wit_PowerLimitsAreClamped :
(∃ (s : State) (d : Nat), d < 4 ∧ pacedRun s = false) ∧
(∃ (s : State) (d : Nat) (v : BitVec 32), d < 4 ∧ pacedRun s = true ∧ max 1 (min 144 (fld v 0 8)) < declaredPeak s d) ∧
(∃ (s : State) (d : Nat) (v : BitVec 32), d < 4 ∧ pacedRun s = false ∧ (∀ n, n < 16 → portUp s n = false) ∧
      clkGoal s d ≤ max 400 (min (maxClk s) (fld v 0 11 / 25 * 25))) ∧
(∃ (s : State) (d : Nat) (v : BitVec 32) (f : Nat), d < 4 ∧ pacedRun s = false ∧ (∀ n, n < 16 → portUp s n = false) ∧
      f = max 400 (min (maxClk s) (fld v 0 11 / 25 * 25)) ∧ f < clkGoal s d) ∧
(∃ (s : State) (d : Nat) (v : BitVec 32), d < 4 ∧ pacedRun s = true ∧
      max 400 (min (maxClk s) (fld v 0 11 / 25 * 25)) < Tbl.get 0 s.run.admClk d) :=
  ⟨⟨z, 3, by decide +kernel⟩,
⟨(z |> act 2 |> rg (ro pGlb 0x100) 2 |> im (fun x => { x with peakTok := 0x05000000 })), 3, (4 : Reg), by decide +kernel⟩,
⟨z, 3, (0x7FF : Reg), by decide +kernel⟩,
⟨(z |> rg (clkReg 3) 1600), 3, (0x1FF : Reg), 500, by decide +kernel⟩,
⟨(z |> act 2 |> rg (ro pGlb 0x100) 2 |> rn (fun r => { r with admClk := [(2, 800)] })), 2, (799 : Reg), by decide +kernel⟩⟩

theorem wit_BankOwnership :
(∃ (s : State) (b : Nat) (v : BitVec 32), b < 128 ∧ (fld v 0 7 < 0x45 ∧ (fld v 0 7 < 0x40 → fld v 0 7 / 16 = b / 32)) ∧
      fld v 0 7 ≠ bankOwner s b ∧ ownerHeld s b = false) ∧
(∃ (s : State) (b : Nat) (v : BitVec 32), b < 128 ∧
      (0x45 ≤ fld v 0 7 ∨ (fld v 0 7 < 0x40 ∧ fld v 0 7 / 16 ≠ b / 32) ∨ (fld v 0 7 ≠ bankOwner s b ∧ ownerHeld s b = true))) ∧
(∃ (s : State) (b : Nat), b < 128 ∧ bankPending s b = true ∧ (bankOf s b).due = none ∧ (dieOf s (b / 32)).tt = none ∧
      runOwner s (bankOwner s b) = false ∧ runOwner s (bankPendOwner s b) = false ∧ ownerInFlight s b = false) ∧
(∃ (s : State) (b c : Nat), b < 128 ∧ bankPending s b = true ∧ (bankOf s b).due = some c ∧ accessOpen s b c = true) ∧
(∃ (s : State) (b : Nat), b < 128 ∧ bankPending s b = true ∧ (bankOf s b).due = none ∧ ownerInFlight s b = true) ∧
(∃ (s : State) (b c : Nat), b < 128 ∧ bankPending s b = true ∧ (bankOf s b).due = some c ∧ (dieOf s (b / 32)).tt = none ∧
      accessOpen s b c = false) :=
  ⟨⟨z, 127, (0x44 : Reg), by decide +kernel⟩,
⟨z, 127, (0x2F : Reg), by decide +kernel⟩,
⟨(z |> rg (ownerReg 127) 0x8040), 127, by decide +kernel⟩,
⟨(z |> act 1 |> rg (ownerReg 31) 0xC000 |> bk 31 (fun b => { b with due := some 1 }) |> iss 0 (mkI 2 0 0)), 31, 1,
      by decide +kernel⟩,
⟨(z |> rg (ownerReg 127) 0x8040 |> bk 127 (fun b => { b with testing := true })), 127, by decide +kernel⟩,
⟨(z |> act 1 |> rg (ownerReg 31) 0xC000 |> bk 31 (fun b => { b with due := some 1 })), 31, 1, by decide +kernel⟩⟩

theorem wit_TmemOfAnotherOwnerFaults :
∃ (s : State) (p u : Nat) (i : Issue) (q : Nat), headIssue (tileOf s p) (fun x => decide (x.unit < 4)) = some i ∧
    i.unit = u ∧ i.op = 2 ∧ fenced s p = false ∧
    (bankOf s (tmBank (p / 17) (Tbl.get 0 (tileOf s p).un.tmem u))).due = none ∧
    bankOwner s (tmBank (p / 17) (Tbl.get 0 (tileOf s p).un.tmem u)) ≠ logicalNo s p ∧ (tileOf s p).halted = false ∧
    s.run.active = true ∧ q ∈ runTiles s ∧ q ≠ p ∧ (tileOf s q).halted = false ∧ fenced s q = false :=
⟨(z |> act 2 |> tl 0 (fun t => { t with phase := .waiting }) |> tl 1 (fun t => { t with phase := .ready }) |> iss 0 (mkI 3 2 5) |> un 0 (fun u => { u with tmem := [(3, 0xFFFFFF)] })),
    0, 3, (mkI 3 2 5), 1, by decide +kernel⟩

theorem wit_ParityRepairRepeatsTheRead :
(∃ (k : Nat), k < 65) ∧
(∃ (s : State) (p u : Nat) (i : Issue) (a : Word) (k : Nat), p < 68 ∧ Obl.tmem s p u 0 i a ∧ k < 65 ∧
      hasCopy s (tmBank (p / 17) a) (fld a 0 18) = true) ∧
(∃ (s : State) (b w p : Nat) (i : Issue) (v : Word) (x : State),
      (bankOf s b).repair = some (w, some { tile := p, iss := i }) ∧ trcClass s 6 = false ∧ x = (readCopy s b w).1 ∧
      (readCopy s b w).2 = some v ∧ i ∈ (tileOf s p).un.issues ∧ i.op = 0 ∧ tmBank (p / 17) i.word = b) ∧
(∃ (s : State) (b w : Nat) (wt : Option Waiting) (x : State), b < 128 ∧ (bankOf s b).repair = some (w, wt) ∧
      x = (readCopy s b w).1 ∧ (readCopy s b w).2 = none ∧ bankOwner s b < 0x40 ∧ s.recov.active = true) :=
  ⟨⟨64, by decide +kernel⟩,
⟨(z |> iss 0 (mkI 2 0 0xAB7FFFFF) |> rg (ownerReg 31) 0 |> bk 31 (fun b => { b with words := [(262143, 77)] }) |> cf (fun c => { c with resValid := true }) |> im (fun x => { x with bankReq := [(31, 0)] })),
      0, 2, (mkI 2 0 0xAB7FFFFF), 0xAB7FFFFF, 64, by decide +kernel⟩,
⟨(z |> iss 0 (mkI 8 0 0) |> iss 0 (mkI 2 0 0xAB7FFFFF) |> bk 31 (fun b => { b with words := [(262143, 9)], repair := some (262143, some { tile := 0, iss := (mkI 2 0 0xAB7FFFFF) }) }) |> im (fun x => { x with bankReq := [(31, 0)] }) |> dr (fun d => { d with bytes := [(0x0D, 0xFF), (0x0E, 1), (0x28, 0xC0), (0x29, 1), (0x40, 5), (0x44, 4), (0x48, 128), (0x108, 64)] })),
      31, 262143, 0, (mkI 2 0 0xAB7FFFFF), (0 : Word),
      (readCopy (z |> iss 0 (mkI 8 0 0) |> iss 0 (mkI 2 0 0xAB7FFFFF) |> bk 31 (fun b => { b with words := [(262143, 9)], repair := some (262143, some { tile := 0, iss := (mkI 2 0 0xAB7FFFFF) }) }) |> im (fun x => { x with bankReq := [(31, 0)] }) |> dr (fun d => { d with bytes := [(0x0D, 0xFF), (0x0E, 1), (0x28, 0xC0), (0x29, 1), (0x40, 5), (0x44, 4), (0x48, 128), (0x108, 64)] })) 31 262143).1,
      by decide +kernel⟩,
⟨(z |> rg (ownerReg 31) 0 |> rv (fun r => { r with active := true }) |> bk 31 (fun b => { b with words := [(5, 9)], repair := some (5, none) })),
      31, 5, (none : Option Waiting),
      (readCopy (z |> rg (ownerReg 31) 0 |> rv (fun r => { r with active := true }) |> bk 31 (fun b => { b with words := [(5, 9)], repair := some (5, none) })) 31 5).1,
      by decide +kernel⟩⟩

theorem wit_CopyEngineAndTransparentTest :
(∃ (s : State) (d b r : Nat), waitingWrite s d = none ∧ nextPending s d = some (b, r) ∧ b / 32 = d ∧
      (bankOf s b).badWords (64 * r) 64 = [] ∧ (bankOf s b).repair = none) ∧
(∃ (s : State) (d k : Nat), d < 4 ∧ (dieOf s d).tt = none ∧ stepClk s d ≠ 0 ∧ regBit s (ro pScr 0x080) 0 = true ∧
      s.scr.halted = false ∧ ttPick s d 33 (dieOf s d).ttNext = some k ∧
      (bankOf s (32 * d + k / 4096)).badWords (64 * (k % 4096)) 64 = [] ∧ (bankOf s (32 * d + k / 4096)).repair = none) ∧
(∃ (s : State) (d : Nat) (v : Saved), (dieOf s d).tt = some v ∧ (dieOf s d).ttAbort = false) ∧
(∃ (s : State) (d : Nat) (v : Saved) (b r n : Nat), (dieOf s d).tt = some v ∧ v.bank = b ∧ v.region = r ∧
      (dieOf s d).ttAbort = false ∧ (bankOf s b).spares.length = n ∧ n < 4 ∧
      (∀ k, k < 4 → (bankOf s b).map0.getLsbD (13 * k + 12) = decide (k < n)) ∧ r < 4096) ∧
(∃ (s : State) (d : Nat) (v : Saved) (b : Nat), (dieOf s d).tt = some v ∧ v.bank = b ∧ (dieOf s d).ttAbort = true ∧
      (∀ k, k < 17 → tmemTarget s (17 * d + k) = none)) :=
  ⟨⟨(z |> bk 33 (fun b => { b with pend := [(4095, true)] })), 1, 33, 4095, by decide +kernel⟩,
⟨(z |> rg (clkReg 3) 400 |> di 3 (fun d => { d with ttNext := 131071 }) |> rg (ownerReg 127) 0x40), 3, 131071,
      by decide +kernel⟩,
⟨(z |> di 3 (fun d => { d with tt := some ({ bank := 127, region := 4095, words := List.replicate 64 1 } : Saved) })), 3,
      ({ bank := 127, region := 4095, words := List.replicate 64 1 } : Saved), by decide +kernel⟩,
⟨(z |> di 3 (fun d => { d with tt := some ({ bank := 127, region := 4095, words := List.replicate 64 1 } : Saved) }) |> bk 127 (fun b => ((b.addSpare 1).addSpare 2).addSpare 3)),
      3, ({ bank := 127, region := 4095, words := List.replicate 64 1 } : Saved), 127, 4095, 3, by decide +kernel⟩,
⟨(z |> di 3 (fun d => { d with tt := some ({ bank := 127, region := 4095, words := List.replicate 64 1 } : Saved), ttAbort := true }) |> rg (ro (pBnk 127) 0x098) 0xFFFF0FFF),
      3, ({ bank := 127, region := 4095, words := List.replicate 64 1 } : Saved), 127, by decide +kernel⟩⟩

theorem wit_DramAcceptance :
(∃ (s : State) (ch i : Nat) (r : DReq), Obl.arrives s ch i r ∧ r.write = false ∧ (chanOf s ch).readQ.length < 128) ∧
(∃ (s : State) (ch i : Nat) (r : DReq), Obl.arrives s ch i r ∧ r.write = true ∧ (chanOf s ch).wbuf.length < 64 ∧
      s.recov.active = false) ∧
(∃ (s : State) (ch i : Nat) (r : DReq), (chanOf s ch).arriving[i]? = some r ∧
      (if r.write = true then 64 ≤ (chanOf s ch).wbuf.length else 128 ≤ (chanOf s ch).readQ.length)) :=
  ⟨⟨(z |> ch 0 (fun c => { c with arriving := [({ src := .qport 0 1 3, write := false, line := 1, mask := 0, data := 0, aged := false, seq := 0 } : DReq)] }) |> un 0 (fun u => { u with q1 := { u.q1 with places := [({ id := 3, write := false, addr := 64, data := 0, oor := false, stage := .hub, resp := [], poisoned := none, t0 := 0 } : QReq)] } }) |> dr (fun d => { d with bytes := [(64, 7), (127, 9)] })),
      0, 0, ({ src := .qport 0 1 3, write := false, line := 1, mask := 0, data := 0, aged := false, seq := 0 } : DReq),
      by decide +kernel⟩,
⟨(z |> ch 1 (fun c => { c with arriving := [({ src := .other, write := true, line := 4, mask := 0x8000000000000001, data := 5, aged := false, seq := 0 } : DReq)], wbuf := [({ src := .other, write := true, line := 4, mask := 0x8000000000000001, data := 5, aged := false, seq := 0 } : DReq)] })),
      1, 0,
      ({ src := .other, write := true, line := 4, mask := 0x8000000000000001, data := 5, aged := false, seq := 0 } : DReq),
      by decide +kernel⟩,
⟨(z |> ch 1 (fun c => { c with arriving := [({ src := .other, write := true, line := 4, mask := 0x8000000000000001, data := 5, aged := false, seq := 0 } : DReq)], wbuf := List.replicate 64 ({ src := .other, write := true, line := 4, mask := 0x8000000000000001, data := 5, aged := false, seq := 0 } : DReq) })),
      1, 0,
      ({ src := .other, write := true, line := 4, mask := 0x8000000000000001, data := 5, aged := false, seq := 0 } : DReq),
      by decide +kernel⟩⟩

theorem wit_DramService :
(∃ (s : State) (ch i : Nat) (r : DReq), (chanOf s ch).readQ[i]? = some r ∧ (chanOf s ch).heldBack r = false ∧
      channelOf (64 * r.line) = ch ∧ s.dram.ecc (lineErr s r.line) = .clean) ∧
(∃ (s : State) (ch i : Nat) (r : DReq) (err : DramErr), (chanOf s ch).readQ[i]? = some r ∧
      (chanOf s ch).heldBack r = false ∧ channelOf (64 * r.line) = ch ∧ lineBuffered s r.line = false ∧
      s.dram.ecc (addErr (lineErr s r.line) err) = .uncorrectable ∧
      (∀ g ∈ s.img.regions, g.rw = true ∨ g.init = 0 ∨ r.line * 64 < g.base ∨ g.base + g.len ≤ r.line * 64)) ∧
(∃ (s : State) (ch i : Nat) (r : DReq) (err copy : DramErr) (x : State) (o : Nat), (chanOf s ch).readQ[i]? = some r ∧
      (chanOf s ch).heldBack r = false ∧ channelOf (64 * r.line) = ch ∧ lineBuffered s r.line = false ∧
      x = strike s (serveErrs s ch i err copy) ∧ s.dram.ecc (lineErr x r.line) = .uncorrectable ∧
      qinitAt x r.line = some o ∧ s.dram.ecc (lineErr x ((slotBase s s.cfg.resSlot + o) / 64)) ≠ .uncorrectable) ∧
(∃ (s : State) (ch i : Nat) (r : DReq), (chanOf s ch).readQ = [] ∧ (chanOf s ch).wbuf[i]? = some r ∧
      (chanOf s ch).heldBack r = false ∧ Obl.buffersApart s ch) ∧
(∃ (s : State) (ch : Nat) (r : DReq) (rest : List DReq), (chanOf s ch).wbuf = r :: rest ∧ (chanOf s ch).heldBack r = false ∧
      Obl.buffersApart s ch) ∧
(∃ (s : State) (ch : Nat), regF s (ddrCommon 0x08C) 0 6 ≤ (chanOf s ch).wbuf.length ∧
      regF s (ddrCommon 0x08C) 8 6 ≤ (chanOf s ch).wbuf.length ∧ Obl.buffersApart s ch ∧
      (∀ r ∈ (chanOf s ch).readQ ++ (chanOf s ch).wbuf, r.aged = false)) ∧
(∃ (s : State) (ch i : Nat) (r : DReq), (chanOf s ch).readQ[i]? = some r) ∧
(∃ (s : State) (ch i : Nat) (r : DReq), (chanOf s ch).wbuf[i]? = some r) ∧
(∃ (s : State) (ch i : Nat) (r x : DReq), (chanOf s ch).readQ[i]? = some r ∧ x ∈ (chanOf s ch).readQ ++ (chanOf s ch).wbuf ∧
      x.aged = true ∧ x.seq < r.seq) :=
  ⟨⟨(z |> ch (channelOf 64) (fun c => { c with readQ := [({ src := .qport 0 1 3, write := false, line := 1, mask := 0, data := 0, aged := false, seq := 0 } : DReq)] }) |> un 0 (fun u => { u with q1 := { u.q1 with places := [({ id := 3, write := false, addr := 64, data := 0, oor := false, stage := .atController, resp := [], poisoned := none, t0 := 0 } : QReq)] } }) |> dr (fun d => { d with bytes := [(64, 7), (127, 9)] }) |> dr (fun d => { d with capLog2 := 31, ranks := 1, rowBits := 16, colBits := 10, bankBits := 5 })),
      (channelOf 64), 0,
      ({ src := .qport 0 1 3, write := false, line := 1, mask := 0, data := 0, aged := false, seq := 0 } : DReq),
      by decide +kernel⟩,
⟨(z |> ch 0 (fun c => { c with readQ := [({ src := .qport 0 1 3, write := false, line := 1, mask := 0, data := 0, aged := false, seq := 0 } : DReq)] }) |> un 0 (fun u => { u with q1 := { u.q1 with places := [({ id := 3, write := false, addr := 64, data := 0, oor := false, stage := .atController, resp := [], poisoned := none, t0 := 0 } : QReq)] } }) |> dr (fun d => { d with bytes := [(64, 7), (127, 9)] }) |> dr (fun d => { d with capLog2 := 31, ranks := 1, rowBits := 16, colBits := 10, bankBits := 5 })),
      0, 0, ({ src := .qport 0 1 3, write := false, line := 1, mask := 0, data := 0, aged := false, seq := 0 } : DReq),
      ({ devs := [1, 2], multi := false, link := 0 } : DramErr), by decide +kernel⟩,
⟨(z |> ch (channelOf 4096) (fun c => { c with readQ := [({ src := .qport 0 1 3, write := false, line := 64, mask := 0, data := 0, aged := false, seq := 0 } : DReq)] }) |> un 0 (fun u => { u with q1 := { u.q1 with places := [({ id := 3, write := false, addr := 64, data := 0, oor := false, stage := .atController, resp := [], poisoned := none, t0 := 0 } : QReq)] } }) |> dr (fun d => { d with bytes := [(64, 7), (127, 9)] }) |> dr (fun d => { d with capLog2 := 31, ranks := 1, rowBits := 16, colBits := 10, bankBits := 5 }) |> dr (fun d => { d with bytes := [(0x0D, 0xFF), (0x0E, 1), (0x28, 0xC0), (0x29, 1), (0x40, 5), (0x44, 4), (0x48, 128), (0x108, 64), (0x181, 0xA5)] }) |> im (fun x => { x with regions := [{ base := 4096, len := 128, rw := false, init := 64, mask := 1 }] }) |> cf (fun c => { c with resValid := true })),
      (channelOf 4096), 0,
      ({ src := .qport 0 1 3, write := false, line := 64, mask := 0, data := 0, aged := false, seq := 0 } : DReq),
      ({ devs := [1, 2], multi := false, link := 0 } : DramErr), DramErr.none,
      (strike (z |> ch (channelOf 4096) (fun c => { c with readQ := [({ src := .qport 0 1 3, write := false, line := 64, mask := 0, data := 0, aged := false, seq := 0 } : DReq)] }) |> un 0 (fun u => { u with q1 := { u.q1 with places := [({ id := 3, write := false, addr := 64, data := 0, oor := false, stage := .atController, resp := [], poisoned := none, t0 := 0 } : QReq)] } }) |> dr (fun d => { d with bytes := [(64, 7), (127, 9)] }) |> dr (fun d => { d with capLog2 := 31, ranks := 1, rowBits := 16, colBits := 10, bankBits := 5 }) |> dr (fun d => { d with bytes := [(0x0D, 0xFF), (0x0E, 1), (0x28, 0xC0), (0x29, 1), (0x40, 5), (0x44, 4), (0x48, 128), (0x108, 64), (0x181, 0xA5)] }) |> im (fun x => { x with regions := [{ base := 4096, len := 128, rw := false, init := 64, mask := 1 }] }) |> cf (fun c => { c with resValid := true })) (serveErrs (z |> ch (channelOf 4096) (fun c => { c with readQ := [({ src := .qport 0 1 3, write := false, line := 64, mask := 0, data := 0, aged := false, seq := 0 } : DReq)] }) |> un 0 (fun u => { u with q1 := { u.q1 with places := [({ id := 3, write := false, addr := 64, data := 0, oor := false, stage := .atController, resp := [], poisoned := none, t0 := 0 } : QReq)] } }) |> dr (fun d => { d with bytes := [(64, 7), (127, 9)] }) |> dr (fun d => { d with capLog2 := 31, ranks := 1, rowBits := 16, colBits := 10, bankBits := 5 }) |> dr (fun d => { d with bytes := [(0x0D, 0xFF), (0x0E, 1), (0x28, 0xC0), (0x29, 1), (0x40, 5), (0x44, 4), (0x48, 128), (0x108, 64), (0x181, 0xA5)] }) |> im (fun x => { x with regions := [{ base := 4096, len := 128, rw := false, init := 64, mask := 1 }] }) |> cf (fun c => { c with resValid := true })) (channelOf 4096) 0 ({ devs := [1, 2], multi := false, link := 0 } : DramErr) .none)),
      0x180, by decide +kernel⟩,
⟨(z |> ch 1 (fun c => { c with wbuf := [({ src := .other, write := true, line := 4, mask := 0x8000000000000001, data := 5, aged := false, seq := 0 } : DReq), ({ src := .other, write := true, line := 5, mask := 1, data := 6, aged := false, seq := 0 } : DReq)] }) |> dr (fun d => { d with capLog2 := 31, ranks := 1, rowBits := 16, colBits := 10, bankBits := 5 })),
      1, 1, ({ src := .other, write := true, line := 5, mask := 1, data := 6, aged := false, seq := 0 } : DReq),
      by decide +kernel⟩,
⟨(z |> ch 1 (fun c => { c with wbuf := [({ src := .other, write := true, line := 4, mask := 0x8000000000000001, data := 5, aged := false, seq := 0 } : DReq), ({ src := .other, write := true, line := 5, mask := 1, data := 6, aged := false, seq := 0 } : DReq)] }) |> dr (fun d => { d with capLog2 := 31, ranks := 1, rowBits := 16, colBits := 10, bankBits := 5 })),
      1,
      ({ src := .other, write := true, line := 4, mask := 0x8000000000000001, data := 5, aged := false, seq := 0 } : DReq),
      [({ src := .other, write := true, line := 5, mask := 1, data := 6, aged := false, seq := 0 } : DReq)],
      by decide +kernel⟩,
⟨(z |> ch 1 (fun c => { c with wbuf := [({ src := .other, write := true, line := 4, mask := 0x8000000000000001, data := 5, aged := false, seq := 0 } : DReq), ({ src := .other, write := true, line := 5, mask := 1, data := 6, aged := false, seq := 0 } : DReq)] }) |> rg (ddrCommon 0x08C) 0x102 |> dr (fun d => { d with capLog2 := 31, ranks := 1, rowBits := 16, colBits := 10, bankBits := 5 })),
      1, by decide +kernel⟩,
⟨(z |> ch 7 (fun c => { c with readQ := [({ src := .qport 0 1 3, write := false, line := 1, mask := 0, data := 0, aged := false, seq := 0 } : DReq), ({ src := .qport 0 1 3, write := false, line := 1, mask := 0, data := 0, aged := false, seq := 0 } : DReq)] })),
      7, 1, ({ src := .qport 0 1 3, write := false, line := 1, mask := 0, data := 0, aged := false, seq := 0 } : DReq),
      by decide +kernel⟩,
⟨(z |> ch 7 (fun c => { c with readQ := [({ src := .qport 0 1 3, write := false, line := 1, mask := 0, data := 0, aged := false, seq := 0 } : DReq), ({ src := .qport 0 1 3, write := false, line := 1, mask := 0, data := 0, aged := false, seq := 0 } : DReq)], wbuf := [({ src := .other, write := true, line := 4, mask := 0x8000000000000001, data := 5, aged := false, seq := 0 } : DReq), ({ src := .other, write := true, line := 5, mask := 1, data := 6, aged := false, seq := 0 } : DReq)] })),
      7, 1, ({ src := .other, write := true, line := 5, mask := 1, data := 6, aged := false, seq := 0 } : DReq),
      by decide +kernel⟩,
⟨(z |> ch 0 (fun c => { c with readQ := [({ src := .other, write := false, line := 1, mask := 0, data := 0, aged := false, seq := 5 } : DReq), ({ src := .other, write := false, line := 1, mask := 0, data := 0, aged := true, seq := 3 } : DReq)] })),
      0, 0, ({ src := .other, write := false, line := 1, mask := 0, data := 0, aged := false, seq := 5 } : DReq),
      ({ src := .other, write := false, line := 1, mask := 0, data := 0, aged := true, seq := 3 } : DReq),
      by decide +kernel⟩⟩

theorem wit_DramUpkeepKeepsTheBytes :
(∃ (s : State) (ch : Nat), (chanOf s ch).quiet = true ∧ (chanOf s ch).trained = true ∧ (chanOf s ch).retraining = false ∧
      regF s (ddrCommon 0x094) 0 16 ≠ 0) ∧
(∃ (s : State) (ch rank : Nat), (chanOf s ch).trained = true ∧ s.dram.lpddr = false ∧ rank < s.dram.ranks ∧ rank < 4 ∧
      (chanOf s ch).rankBusy s.dram rank = false ∧ regF s (ddrCommon 0x098) 0 16 ≠ 0) :=
  ⟨⟨(z |> ch 7 (fun c => { c with trained := true })), 7, by decide +kernel⟩,
⟨(z |> ch 7 (fun c => { c with trained := true }) |> dr (fun d => { d with ranks := 4 })), 7, 3, by decide +kernel⟩⟩

theorem wit_PatrolAndCalibration :
(∃ (m : Dram), m.lpddr = false) ∧
(∃ (m : Dram) (d e : Nat), m.lpddr = false ∧ d ≠ e) ∧
(∃ (m : Dram), m.lpddr = true) ∧
(∃ (s : State) (ch line : Nat) (err : DramErr) (kind dev : Nat), ch < 8 ∧ (chanOf s ch).trained = true ∧
      (chanOf s ch).selfRefresh = false ∧ channelOf (64 * line) = ch ∧ regBit s (ddrCommon 0x09C) 2 = true ∧
      (∀ r ∈ (chanOf s ch).readQ ++ (chanOf s ch).wbuf, r.aged = false) ∧ lineErr s line = DramErr.none ∧
      s.dram.ecc err = .corrected kind dev) ∧
(∃ (s : State) (ch line : Nat) (err : DramErr), ch < 8 ∧ (chanOf s ch).trained = true ∧ (chanOf s ch).selfRefresh = false ∧
      channelOf (64 * line) = ch ∧ regBit s (ddrCommon 0x09C) 2 = true ∧
      (∀ r ∈ (chanOf s ch).readQ ++ (chanOf s ch).wbuf, r.aged = false) ∧ lineErr s line = DramErr.none ∧
      s.dram.ecc err = .uncorrectable) ∧
(∃ (s : State) (ch : Nat) (temp : Int), (chanOf s ch).trained = true ∧ 20 < (temp - (chanOf s ch).trainTemp).natAbs ∧
      (chanOf s ch).retrainDue = false) ∧
(∃ (s : State) (ch : Nat), (chanOf s ch).trained = true ∧ (chanOf s ch).retrainDue = false) ∧
(∃ (s : State) (ch : Nat), (chanOf s ch).retrainDue = true) :=
  ⟨⟨Dram.reset, by decide +kernel⟩,
⟨Dram.reset, 1, 2, by decide +kernel⟩,
⟨{ Dram.reset with lpddr := true }, by decide +kernel⟩,
⟨(z |> ch 7 (fun c => { c with trained := true }) |> dr (fun d => { d with capLog2 := 31, ranks := 1, rowBits := 16, colBits := 10, bankBits := 5 })),
      7, 28, ({ devs := [31], multi := true, link := 0 } : DramErr), 0, 31, by decide +kernel⟩,
⟨(z |> ch 7 (fun c => { c with trained := true }) |> dr (fun d => { d with capLog2 := 31, ranks := 1, rowBits := 16, colBits := 10, bankBits := 5 })),
      7, 28, ({ devs := [1, 2], multi := false, link := 0 } : DramErr), by decide +kernel⟩,
⟨(z |> ch 7 (fun c => { c with trained := true })), 7, (-21 : Int), by decide +kernel⟩,
⟨(z |> ch 7 (fun c => { c with trained := true })), 7, by decide +kernel⟩,
⟨(z |> ch 7 (fun c => { c with retrainDue := true })), 7, by decide +kernel⟩⟩

theorem wit_RetrainRunsOrIsRefused :
(∃ (s : State) (v : Reg), v.getLsbD 0 = true ∧ s.cfg.trained = true ∧ retraining s = false ∧ s.run.active = false ∧
      mkhArmed s = false) ∧
(∃ (s : State) (v : Reg), v.getLsbD 0 = true ∧ pacedRun s = true) ∧
(∃ (s : State), retraining s = true ∧ (∀ ch, ch < 8 → (chanOf s ch).quiet = true) ∧ s.run.active = false) :=
  ⟨⟨(z |> cf (fun c => { c with trained := true })), (1 : Reg), by decide +kernel⟩,
⟨(z |> act 1 |> rg (ro pGlb 0x100) 2 |> cf (fun c => { c with trained := true })), (3 : Reg), by decide +kernel⟩,
⟨(z |> ch 7 (fun c => { c with retraining := true, retrainDue := true }) |> rn (fun r => { r with holds := [.retrain] })),
      by decide +kernel⟩⟩

theorem wit_DramReservations :
(∃ (s : State), pacedRun s = false ∧ mkhArmed s = false ∧ looseTrace s = false) ∧
(∃ (s : State) (v : BitVec 32), mkhArmed s = true ∧ min 50 (fld v 0 8) < resvOf s 0) :=
  ⟨⟨z, by decide +kernel⟩,
⟨(z |> mk (fun m => { m with state := 2 }) |> rg (ddrCommon 0x080) 0x55050A32), (49 : Reg), by decide +kernel⟩⟩

/-- A multiplexer whose sources are low and the pin of number 3; `k` selects one. -/
def wmux (k : Nat) : RimMux :=
  { place := { region := 0, col := 0, row := 0, cell := 0, field := 0 }, src := [.low, .pinR 3], code := k }

theorem wit_InputQueues :
(∃ (s : State) (q : Nat), queueRuns s q = true ∧ s.cfg.resValid = true ∧ s.img.inQ.getLsbD q = true ∧
      (inqOf s q).length < 64) ∧
(∃ (s : State) (q : Nat), q < 64 ∧ queueRuns s q = true ∧ s.cfg.resValid = true ∧ s.img.inQ.getLsbD q = true ∧
      64 ≤ (inqOf s q).length) ∧
(∃ (s : State) (q : Nat), (s.cfg.resValid = false ∨ s.img.inQ.getLsbD q = false)) :=
  ⟨⟨(z |> rm (fun r => { r with state := .running, clkRun := 1 }) |> cf (fun c => { c with resValid := true }) |> im (fun x => { x with inQ := 0x8000000000000000 }) |> aq (fun x => { x with inq := [(63, List.replicate 63 1)] })),
      63, by decide +kernel⟩,
⟨(z |> rm (fun r => { r with state := .running, clkRun := 1 }) |> cf (fun c => { c with resValid := true }) |> im (fun x => { x with inQ := 0x8000000000000000 }) |> aq (fun x => { x with inq := [(63, List.replicate 64 1)] })),
      63, by decide +kernel⟩,
⟨(z |> rm (fun r => { r with state := .running, clkRun := 1 })), 63, by decide +kernel⟩⟩

theorem wit_OutputQueues :
(∃ (s : State) (q : Nat) (e : OEntry), (outqOf s q).find? (fun e => !e.visible) = some e ∧
      (∀ p ∈ runTiles s, e.cyc < (tileOf s p).cycle) ∧ outFlitsIn s e.cyc = true ∧ Tbl.get 0 s.aq.outSkip q ≤ e.cyc) ∧
(∃ (s : State) (q : Nat) (e : OEntry) (rest : List OEntry), outqOf s q = e :: rest ∧ e.visible = true ∧
      queueRuns s (64 + q) = true ∧ s.cfg.resValid = true ∧ s.img.outQ.getLsbD q = true) ∧
(∃ (s : State) (q : Nat) (e : OEntry) (rest : List OEntry), outqOf s q = e :: rest ∧ e.valid = true ∧
      queueRuns s (64 + q) = true ∧ s.cfg.resValid = true ∧ s.img.outQ.getLsbD q = true) ∧
(∃ (s : State) (q : Nat), (s.cfg.resValid = false ∨ s.img.outQ.getLsbD q = false)) :=
  ⟨⟨(z |> act 2 |> tl 0 (fun t => { t with cycle := 4 }) |> tl 1 (fun t => { t with cycle := 5 }) |> aq (fun x => { x with outq := [(63, [({ cyc := 3, bits := 5, got := 7, visible := false, valid := false } : OEntry)])] })),
      63, ({ cyc := 3, bits := 5, got := 7, visible := false, valid := false } : OEntry), by decide +kernel⟩,
⟨(z |> rm (fun r => { r with state := .running, clkRun := 1 }) |> cf (fun c => { c with resValid := true }) |> aq (fun x => { x with outq := [(63, [({ cyc := 3, bits := 5, got := 7, visible := true, valid := false } : OEntry), ({ cyc := 4, bits := 5, got := 7, visible := false, valid := false } : OEntry)])] }) |> im (fun x => { x with outQ := 0x8000000000000000 })),
      63, ({ cyc := 3, bits := 5, got := 7, visible := true, valid := false } : OEntry),
      [({ cyc := 4, bits := 5, got := 7, visible := false, valid := false } : OEntry)], by decide +kernel⟩,
⟨(z |> rm (fun r => { r with state := .running, clkRun := 1 }) |> cf (fun c => { c with resValid := true }) |> im (fun x => { x with outQ := 0x8000000000000000 }) |> aq (fun x => { x with outq := [(63, [({ cyc := 3, bits := 5, got := 7, visible := true, valid := true } : OEntry), ({ cyc := 4, bits := 5, got := 7, visible := true, valid := false } : OEntry)])] })),
      63, ({ cyc := 3, bits := 5, got := 7, visible := true, valid := true } : OEntry),
      [({ cyc := 4, bits := 5, got := 7, visible := true, valid := false } : OEntry)], by decide +kernel⟩,
⟨(z |> rm (fun r => { r with state := .running, clkRun := 1 }) |> aq (fun x => { x with outq := [(63, [({ cyc := 3, bits := 5, got := 7, visible := true, valid := true } : OEntry)])] })),
      63, by decide +kernel⟩⟩

theorem wit_RimControl :
(∃ (s : State) (v : Reg), s.run.active = false ∧ v.getLsbD 0 = true ∧ v.getLsbD 1 = false ∧ regBit s rimCtl 0 = false ∧
      rimShut s = false) ∧
(∃ (s : State) (v : Reg), s.run.active = false ∧ v.getLsbD 0 = true ∧ v.getLsbD 1 = false ∧ regBit s rimCtl 0 = false ∧
      rimShut s = true) ∧
(∃ (s : State) (v : Reg), s.run.active = false ∧ v.getLsbD 0 = false ∧ v.getLsbD 1 = false ∧ regBit s rimCtl 0 = true) ∧
(∃ (s : State) (v : Reg), s.run.active = true ∧ (v.getLsbD 0 ≠ regBit s rimCtl 0 ∨ v.getLsbD 1 = true)) ∧
(∃ (s : State) (v : Reg), s.run.active = false ∧ v.getLsbD 0 = regBit s rimCtl 0 ∧ v.getLsbD 1 = true ∧
      s.rim.state = .running) ∧
(∃ (s : State), s.rim.release = true ∧ s.rim.state = .held ∧ s.rim.usedClks &&& ~~~s.rim.clkRun = 0 ∧ s.pwr.state ≠ 2) ∧
(∃ (s : State), s.hw.vio = false) ∧
(∃ (s : State), s.hw.vio = true ∧ s.hw.thermtrip = true) ∧
(∃ (s : State), s.hw.vio = true ∧ s.hw.thermtrip = false ∧ (s.tap.ir = 0 ∨ s.tap.ir = 4)) ∧
(∃ (s : State), s.hw.vio = true ∧ s.hw.thermtrip = false ∧ s.tap.ir = 3) ∧
(∃ (s : State) (p : Nat), s.hw.vio = true ∧ s.tap.ir ≠ 0 ∧ s.tap.ir ≠ 4 ∧
      (s.rim.state ≠ .running ∨ s.rim.softReset = true ∨ s.rim.live.getLsbD (p / 8) = false)) :=
  ⟨⟨(z |> rm (fun r => { r with state := .held })), (1 : Reg), by decide +kernel⟩,
⟨z, (1 : Reg), by decide +kernel⟩,
⟨(z |> rm (fun r => { r with state := .running, clkRun := 1 }) |> rg rimCtl 5), (0 : Reg), by decide +kernel⟩,
⟨(z |> act 1 |> rm (fun r => { r with state := .running, clkRun := 1 }) |> rg rimCtl 1), (3 : Reg), by decide +kernel⟩,
⟨(z |> rm (fun r => { r with state := .running, clkRun := 1 }) |> rg rimCtl 1), (3 : Reg), by decide +kernel⟩,
⟨(z |> rm (fun r => { r with state := .held, release := true, usedClks := 0x81, clkRun := 0x83 }) |> aq (fun x => { x with inq := [(0, [1])], outq := [(0, [({ cyc := 3, bits := 5, got := 7, visible := true, valid := true } : OEntry)])] })),
      by decide +kernel⟩,
⟨(z |> hw (fun h => { h with vio := false })), by decide +kernel⟩,
⟨(z |> hw (fun h => { h with thermtrip := true, straps := 0x30 })), by decide +kernel⟩,
⟨{ z with tap := { z.tap with ir := 4, cells := 5 } }, by decide +kernel⟩,
⟨{ z with tap := { z.tap with ir := 3 } }, by decide +kernel⟩,
⟨(z |> hw (fun h => { h with straps := 0x30 }) |> rm (fun r => { r with state := .running, live := 0x7FFFFF })), 191,
      by decide +kernel⟩⟩

theorem wit_RimClocksAndQueueClear :
(∃ (s : State) (k : Nat), k < 4 ∧ s.rim.state ≠ .noConfig ∧ s.pwr.state ≠ 2 ∧ s.rim.net.refs.getD k 0 ≤ 8 ∧
      (s.rim.net.refs.getD k 0 ≠ 0 ∨ s.hw.refLost = false)) ∧
(∃ (k : Nat), k < 4) ∧
(∃ (s : State) (v : Reg), v.getLsbD 0 = true ∧ s.run.active = false) ∧
(∃ (s : State) (v : Reg), v.getLsbD 0 = true ∧ s.run.active = true) :=
  ⟨⟨(z |> rm (fun r => { r with state := .running, clkRun := 0x80, net := ({ RimNet.empty with
    cells := [{ at_ := 98303, table := 1, init := true, bypass := false, carry := false, wide := 0, ins := [] }],
    clusters := [{ at_ := 6143, clk := 7, enable := wmux 1, reset := wmux 0, sel := [] }], plls := [0, 0, 0, 0, 0, 0, 0, 3] }) })),
      3, by decide +kernel⟩,
⟨3, by decide +kernel⟩,
⟨z, (0xFF : Reg), by decide +kernel⟩,
⟨(z |> act 1), (1 : Reg), by decide +kernel⟩⟩

theorem wit_DelayLinesAndCapture :
(∃ (s : State), rimRuns s = true) ∧
(∃ (s : State) (n : Nat) (cl : RimCluster) (c : RimCell), (cl, c) ∈ clockedCells s n ∧
      ((clockedCells s n).map (fun e => e.2.at_)).Nodup) ∧
(∃ (s : State) (n k : Nat), (∀ e ∈ clockedCells s n, e.2.at_ ≠ k)) ∧
(∃ (s : State) (frac : BitVec 8) (w : RimSnap) (x : Rim), s.rim.want = some w ∧
      w.due (s.tb + BitVec.ofNat 64 frac.toNat) = true ∧ (rimClks s).getLsbD w.clk = true ∧
      (x = (if rimRuns s = true then (rimEdge w.clk s).rim else s.rim))) :=
  ⟨⟨(z |> rm (fun r => { r with state := .running, clkRun := 1 })), by decide +kernel⟩,
⟨(z |> rm (fun r => { r with state := .running, clkRun := 0x80, net := ({ RimNet.empty with
    cells := [{ at_ := 98303, table := 1, init := true, bypass := false, carry := false, wide := 0, ins := [] }],
    clusters := [{ at_ := 6143, clk := 7, enable := wmux 1, reset := wmux 0, sel := [] }], plls := [0, 0, 0, 0, 0, 0, 0, 3] }) })),
      7, ({ at_ := 6143, clk := 7, enable := wmux 1, reset := wmux 0, sel := [] } : RimCluster),
      ({ at_ := 98303, table := 1, init := true, bypass := false, carry := false, wide := 0, ins := [] } : RimCell),
      by decide +kernel⟩,
⟨(z |> rm (fun r => { r with state := .running, clkRun := 0x80, net := ({ RimNet.empty with
    cells := [{ at_ := 98303, table := 1, init := true, bypass := false, carry := false, wide := 0, ins := [] }],
    clusters := [{ at_ := 6143, clk := 7, enable := wmux 1, reset := wmux 0, sel := [] }], plls := [0, 0, 0, 0, 0, 0, 0, 3] }) })),
      7, 5, by decide +kernel⟩,
⟨(z |> rm (fun r => { r with state := .running, clkRun := 0x80, net := ({ RimNet.empty with
    cells := [{ at_ := 98303, table := 1, init := true, bypass := false, carry := false, wide := 0, ins := [] }],
    clusters := [{ at_ := 6143, clk := 7, enable := wmux 1, reset := wmux 0, sel := [] }], plls := [0, 0, 0, 0, 0, 0, 0, 3] }) }) |> rm (fun r => { r with want := some ({ clk := 7, src := 0, t := 3, fired := false } : RimSnap) })),
      (3 : Byte), ({ clk := 7, src := 0, t := 3, fired := false } : RimSnap),
      (rimEdge 7 (z |> rm (fun r => { r with state := .running, clkRun := 0x80, net := ({ RimNet.empty with
    cells := [{ at_ := 98303, table := 1, init := true, bypass := false, carry := false, wide := 0, ins := [] }],
    clusters := [{ at_ := 6143, clk := 7, enable := wmux 1, reset := wmux 0, sel := [] }], plls := [0, 0, 0, 0, 0, 0, 0, 3] }) }) |> rm (fun r => { r with want := some ({ clk := 7, src := 0, t := 3, fired := false } : RimSnap) }))).rim,
      by decide +kernel⟩⟩

theorem wit_LineCoding :
(∃ (x : Port) (r : Nat), (lanesOf x.txAct)[x.col]? = some r ∧ x.col + 1 < (lanesOf x.txAct).length) ∧
(∃ (x : Port) (r : Nat), (lanesOf x.txAct)[x.col]? = some r ∧ x.col + 1 = (lanesOf x.txAct).length ∧ x.row + 1 < periodRows) ∧
(∃ (i : Nat), i < 64) ∧
(∃ (i : Nat), i < 58) ∧
(∃ (t : TxLane), (t.msg + 1 = (if t.cw = 52 then 299 else 514))) ∧
(∃ (dev n lane : Nat), dev < 16 ∧ n < 32 ∧ lane < 4) ∧
(∃ (drive : BitVec 4) (r : Nat), r ∈ lanesOf drive) :=
  ⟨⟨({ Port.reset with txAct := 5, drive := 7 } : Port), 0, by decide +kernel⟩,
⟨({ Port.reset with txAct := 5, drive := 7, col := 1 } : Port), 2, by decide +kernel⟩,
⟨63, by decide +kernel⟩,
⟨57, by decide +kernel⟩,
⟨({ TxLane.reset with cw := 52, msg := 298, parity := 9 } : TxLane), by decide +kernel⟩,
⟨15, 31, 3, by decide +kernel⟩,
⟨(7 : BitVec 4), 2, by decide +kernel⟩⟩

theorem wit_LaneBringUp :
(∃ (s : State) (n : Nat), mayDrive s = true ∧ (portOf s n).state = 1 ∧ (portOf s n).ended = false ∧
      s.hw.laneRef.getLsbD (refOf n) = true) ∧
(∃ (s : State) (n : Nat), mayDrive s = true ∧ (portOf s n).state = 2 ∧ (portOf s n).ended = false) ∧
(∃ (s : State) (n dev prt : Nat) (c : (Nat → CommaSeen)), mayDrive s = true ∧ (portOf s n).state = 3 ∧
      (portOf s n).ended = false ∧ liveLanes s n = [0, 1, 2, 3] ∧
      (∀ r, r < 4 → commaOk (c r).block = true ∧ commaLane (c r).block = r ∧ commaDevOf (c r).block = dev ∧ commaPort (c r).block = prt)) ∧
(∃ (s : State) (n : Nat), mayDrive s = true ∧ (portOf s n).state = 6 ∧ (portOf s n).ended = false ∧
      liveLanes s n = [0, 1, 2, 3]) ∧
(∃ (s : State) (n : Nat), laneEn s n ≠ 0 ∧ (portOf s n).state ≠ 0 ∧ (portOf s n).state < 8) ∧
(∃ (s : State) (n : Nat), mayDrive s = true ∧ (portOf s n).state = 7 ∧ (portOf s n).helloSeen = true ∧
      (portOf s n).helloGot = false) ∧
(∃ (s : State), (s.pwr.state ≠ 0 ∨ (8 ≤ s.cfg.state ∧ s.cfg.state ≤ 11) ∨ s.hw.thermtrip = true)) :=
  ⟨⟨(z |> pt 23 (fun p => { p with state := 1 })), 23, by decide +kernel⟩,
⟨(z |> pt 23 (fun p => { p with state := 2 })), 23, by decide +kernel⟩,
⟨(z |> pt 5 (fun p => { p with state := 3 }) |> rg (lnkReg 5 0x080) 0x1F), 5, 9, 7,
      (fun r => { block := comma 9 7 r 15, inverted := r == 2 }), by decide +kernel⟩,
⟨(z |> pt 5 (fun p => { p with state := 6 }) |> rg (lnkReg 5 0x080) 0x1F), 5, by decide +kernel⟩,
⟨(z |> pt 23 (fun p => { p with state := 7, ended := true, fail := 4, lanes := [(3, { Lane.reset with eqNext := 7 })] }) |> rg (lnkReg 23 0x080) 0x1F),
      23, by decide +kernel⟩,
⟨(z |> pt 23 (fun p => { p with state := 7, helloSeen := true })), 23, by decide +kernel⟩,
⟨(z |> pw (fun p => { p with state := 1 })), by decide +kernel⟩⟩

theorem wit_ControlMessages :
(∃ (s u : State) (n : Nat) (k : LinkPkt) (f : Frame), Obl.goodHandshake s u n 1 k f ∧ helloOk u n (f.word 0) = true ∧
      (portOf u n).ackGot = false) ∧
(∃ (s u : State) (n : Nat) (k : LinkPkt) (f : Frame), Obl.goodHandshake s u n 2 k f ∧ mayDrive u = true ∧
      (portOf u n).ackSent = true) ∧
(∃ (s u : State) (n : Nat) (k : LinkPkt) (f : Frame), Obl.goodPacket s u n 2 3 k f ∧ controlRefusal n f = none) ∧
(∃ (s u : State) (n : Nat) (k : LinkPkt) (f : Frame), Obl.goodPacket s u n 2 4 k f ∧ controlRefusal n f = none) ∧
(∃ (s u : State) (n : Nat) (k : LinkPkt) (f : Frame), Obl.goodPacket s u n 2 0x10 k f ∧ controlRefusal n f = none) ∧
(∃ (s u : State) (n : Nat) (k : LinkPkt) (f : Frame), Obl.goodPacket s u n 2 0x7F k f ∧ controlRefusal n f = none) :=
  ⟨⟨(z |> pt 15 (fun p => { p with state := 7, commaDev := 9 })), (z |> pt 15 (fun p => { p with state := 7, commaDev := 9 })),
      15, (pk 2 2 0 [place 64 56 8 1 ||| place 64 44 4 9 ||| 1, 5]),
      (fr (pk 2 2 0 [place 64 56 8 1 ||| place 64 44 4 9 ||| 1, 5])), by decide +kernel⟩,
⟨(z |> pt 15 (fun p => { p with state := 7, ackSent := true })),
      (z |> pt 15 (fun p => { p with state := 7, ackSent := true })), 15,
      (pk 2 2 0 [place 64 56 8 2 ||| place 64 44 4 9 ||| 1, 5]),
      (fr (pk 2 2 0 [place 64 56 8 2 ||| place 64 44 4 9 ||| 1, 5])), by decide +kernel⟩,
⟨(z |> pt 15 (fun p => { p with state := 8, rxSeq := 4095 })), (z |> pt 15 (fun p => { p with state := 8, rxSeq := 4095 })),
      15, (pk 2 2 4095 [place 64 56 8 3, 1, 2, 3, 4]), (fr (pk 2 2 4095 [place 64 56 8 3, 1, 2, 3, 4])), by decide +kernel⟩,
⟨(z |> pt 15 (fun p => { p with state := 8 }) |> rg (lnkReg 15 0x08C) 3),
      (z |> pt 15 (fun p => { p with state := 8 }) |> rg (lnkReg 15 0x08C) 3), 15,
      (pk 2 2 0 (place 64 56 8 4 :: List.replicate 16 0x1FFF)),
      (fr (pk 2 2 0 (place 64 56 8 4 :: List.replicate 16 0x1FFF))), by decide +kernel⟩,
⟨(z |> pt 23 (fun p => { p with state := 8, ctlRx := [List.replicate 480 5] })),
      (z |> pt 23 (fun p => { p with state := 8, ctlRx := [List.replicate 480 5] })), 23,
      (pk 2 2 0 (place 64 56 8 0x10 :: List.replicate 31 7)), (fr (pk 2 2 0 (place 64 56 8 0x10 :: List.replicate 31 7))),
      by decide +kernel⟩,
⟨(z |> pt 0 (fun p => { p with state := 8 })), (z |> pt 0 (fun p => { p with state := 8 })), 0,
      (pk 2 2 0 [place 64 56 8 0x7F]), (fr (pk 2 2 0 [place 64 56 8 0x7F])), by decide +kernel⟩⟩

theorem wit_PacketContents :
(∃ (s u : State) (n : Nat) (k : LinkPkt) (f : Frame), Obl.goodPacket s u n 0 0 k f ∧ fld (f.word 0) 58 4 = devIdx u ∧
      fld (f.word 0) 62 2 = 0 ∧ f.len = 21 ∧ fld (f.word 0) 0 15 = 0) ∧
(∃ (s u : State) (n : Nat) (k : LinkPkt) (f : Frame), Obl.goodPacket s u n 0 0 k f ∧ fld (f.word 0) 58 4 = devIdx u ∧
      fld (f.word 0) 62 2 = 2 ∧ f.len = 1 ∧ fld (f.word 0) 52 6 = 0) ∧
(∃ (s u : State) (n : Nat) (k : LinkPkt) (f : Frame) (x : Nat), Obl.goodPacket s u n 0 0 k f ∧
      fld (f.word 0) 58 4 = devIdx u ∧ fld (f.word 0) 62 2 = 3 ∧ f.len = 1 ∧ fld (f.word 0) 0 24 = 0 ∧
      fld (f.word 0) 32 11 = 0 ∧ x = fld (f.word 0) 43 4 * 64 + fld (f.word 0) 56 2 * 16 + fld (f.word 0) 52 4) ∧
(∃ (s u : State) (n : Nat) (k : LinkPkt) (f : Frame) (c : Nat), Obl.goodPacket s u n 1 0 k f ∧
      regBit u (lnkReg n 0x0AC) (fld (f.word 0) 59 5) = true ∧ fld (f.word 0) 56 3 < 4 ∧ fld (f.word 0) 54 2 ≠ 3 ∧
      fld (f.word 0) 48 6 = 0 ∧ boundChan u n (fld (f.word 0) 59 5) = some c ∧ mkhArmed u = true ∧
      (mchanOf u c).lastSseq = none ∧ samplesFit u c (4 * (f.len - 2)) = true) ∧
(∃ (s u : State) (n : Nat) (k : LinkPkt) (f : Frame), Obl.goodPacket s u n 3 0 k f ∧ fld (f.word 1) 32 32 = 0 ∧
      getReg u (ro pAcq 0x0B0) = 0) ∧
(∃ (s : State) (n : Nat), (portOf s n).state = 8 ∧ (portOf s n).eidleTx = false ∧ (portOf s n).eidleRx = false) :=
  ⟨⟨(z |> pt 15 (fun p => { p with state := 8 })), (z |> pt 15 (fun p => { p with state := 8 })), 15,
      (pk 0 0 0 (0 :: List.replicate 20 7)), (fr (pk 0 0 0 (0 :: List.replicate 20 7))), by decide +kernel⟩,
⟨(z |> pt 15 (fun p => { p with state := 8 })), (z |> pt 15 (fun p => { p with state := 8 })), 15,
      (pk 0 0 0 [place 64 62 2 2 ||| place 64 48 4 9 ||| 41]), (fr (pk 0 0 0 [place 64 62 2 2 ||| place 64 48 4 9 ||| 41])),
      by decide +kernel⟩,
⟨(z |> pt 15 (fun p => { p with state := 8 })), (z |> pt 15 (fun p => { p with state := 8 })), 15,
      (pk 0 0 0 [place 64 62 2 3 ||| place 64 43 4 9 ||| place 64 47 5 23 ||| place 64 24 8 5 ||| place 64 56 2 3 ||| place 64 52 4 2]),
      (fr (pk 0 0 0 [place 64 62 2 3 ||| place 64 43 4 9 ||| place 64 47 5 23 ||| place 64 24 8 5 ||| place 64 56 2 3 ||| place 64 52 4 2])),
      (9 * 64 + 50), by decide +kernel⟩,
⟨(z |> pt 23 (fun p => { p with state := 8 }) |> mk (fun m => { m with state := 2 }) |> rg (lnkReg 23 0x0AC) 0x80000000 |> rg (chReg 31 0) 0x1FF |> rg (chReg 31 0x1C) 0x100),
      (z |> pt 23 (fun p => { p with state := 8 }) |> mk (fun m => { m with state := 2 }) |> rg (lnkReg 23 0x0AC) 0x80000000 |> rg (chReg 31 0) 0x1FF |> rg (chReg 31 0x1C) 0x100),
      23, (pk 1 1 0 [place 64 59 5 31 ||| 6, 100, 0x4000300020001]),
      (fr (pk 1 1 0 [place 64 59 5 31 ||| 6, 100, 0x4000300020001])), 31, by decide +kernel⟩,
⟨(z |> pt 23 (fun p => { p with state := 8 })), (z |> pt 23 (fun p => { p with state := 8 })), 23, (pk 3 3 0 [1, 2, 3]),
      (fr (pk 3 3 0 [1, 2, 3])), by decide +kernel⟩,
⟨(z |> pt 23 (fun p => { p with state := 8 })), 23, by decide +kernel⟩⟩

theorem wit_BadPacketsAreNotTaken :
(∃ (k : LinkPkt), k.errs = [] ∧ k.commas = [] ∧ strays k.blocks = [] ∧ k.blocks.any errored = false) ∧
(∃ (s : State) (n : Nat) (e : FecErr), rxOpen s n = true ∧ 15 < e.wrong ∧ lockLost (decoded s n e) n e.lane = false ∧
      (portOf s n).lastNak = none ∧ (portOf s n).eidleTx = false ∧ (portOf s n).eidleReq = false) ∧
(∃ (s u : State) (n : Nat) (k : LinkPkt) (f : Frame), rxOpen s n = true ∧ forRow k 3 0 = true ∧ u = takeLine n k s ∧
      rxOpen u n = true ∧ framing k.blocks = .whole f ∧ fld f.eop 32 24 = 0 ∧ f.headerOk = true ∧
      packetCrc f.sop f.payload ≠ f.crc ∧ (portOf u n).lastNak = none ∧ (portOf u n).eidleTx = false ∧
      (portOf u n).eidleReq = false) ∧
(∃ (s u : State) (n : Nat) (k : LinkPkt) (f : Frame), n < 16 ∧ rxOpen s n = true ∧ forRow k 0 0 = true ∧
      u = takeLine n k s ∧ rxOpen u n = true ∧ framing k.blocks = .whole f ∧ fld f.eop 32 24 = 0 ∧ f.headerOk = true ∧
      packetCrc f.sop f.payload = f.crc ∧ (portOf u n).errSince = false ∧ (portOf u n).lastNak = none ∧
      f.seq = ((portOf u n).rxSeq + 1) % 4096 ∧ regF u (lnkReg n 0x09C) 0 8 = 0) :=
  ⟨⟨(pk 3 3 0 [1, 2, 3]), by decide +kernel⟩,
⟨(z |> pt 23 (fun p => { p with state := 8 })), 23, ({ lane := 3, wrong := 16, clean := 0 } : FecErr), by decide +kernel⟩,
⟨(z |> pt 23 (fun p => { p with state := 8 })), (z |> pt 23 (fun p => { p with state := 8 })), 23,
      ({ pk 3 3 0 [1, 2, 3] with blocks := (pk 3 3 0 [1, 2, 3]).blocks.set 2 (dataBlock 9) }),
      (fr ({ pk 3 3 0 [1, 2, 3] with blocks := (pk 3 3 0 [1, 2, 3]).blocks.set 2 (dataBlock 9) })), by decide +kernel⟩,
⟨(z |> pt 15 (fun p => { p with state := 8, rxSeq := 4095 }) |> rg (lnkReg 15 0x09C) 0),
      (z |> pt 15 (fun p => { p with state := 8, rxSeq := 4095 }) |> rg (lnkReg 15 0x09C) 0), 15, (pk 0 0 0 [0]),
      (fr (pk 0 0 0 [0])), by decide +kernel⟩⟩

theorem wit_AckNakAndCredit :
(∃ (s : State) (n : Nat) (p : Pkt), (portOf s n).state = 8 ∧ (portOf s n).eidleTx = false ∧
      (portOf s n).unacked[(portOf s n).resend]? = none ∧ (portOf s n).nextPkt = some p ∧ (portOf s n).holdsPkt p = true ∧
      (p.kind ≠ 3 ∨ getReg s (ro pAcq 0x0B0) = 0)) ∧
(∃ (s : State) (n : Nat) (p : Pkt), ((portOf s n).state = 8 ∨ (portOf s n).state = 0xA) ∧ (portOf s n).eidleTx = false ∧
      (portOf s n).unacked[(portOf s n).resend]? = some p) ∧
(∃ (s : State) (n : Nat) (w : Word), Obl.goodWord s n 3 (place 64 42 12 0xFFF) w ∧ (portOf s n).sent (fld w 42 12) = true ∧
      (portOf s n).eidleReq = false ∧ (portOf s n).age (fld w 42 12) < (portOf s n).unacked.length) ∧
(∃ (s : State) (n : Nat) (w : Word) (i : Nat), Obl.goodWord s n 4 (place 64 42 12 0xFFF) w ∧
      (portOf s n).sent (fld w 42 12) = true ∧ i + (portOf s n).age (fld w 42 12) + 1 = (portOf s n).unacked.length ∧
      i < (portOf s n).resend) ∧
(∃ (s : State) (n : Nat), Obl.awake s n ∧ (portOf s n).ackDue = true ∧ 8 ≤ (portOf s n).state) ∧
(∃ (s : State) (n : Nat) (w : Word), Obl.goodWord s n 5 (place 64 8 48 (2 ^ 48 - 1)) w) ∧
(∃ (s : State) (n : Nat), Obl.awake s n ∧ (portOf s n).creditDue = true ∧ 8 ≤ (portOf s n).state) ∧
(∃ (s : State) (n : Nat), 8 ≤ (portOf s n).state ∧ (portOf s n).unacked ≠ [] ∧ (portOf s n).timeouts + 1 < 8) ∧
(∃ (s : State) (n : Nat) (w : BitVec 64), rxOpen s n = true ∧ regF s (lnkReg n 0x09C) 0 8 = 0 ∧ n < 24 ∧
      (0x0B ≤ fld w 56 8 ∨ (fld w 56 8 = 3 ∧ w &&& ~~~(place 64 42 12 0xFFF ||| place 64 56 8 0xFF) ≠ 0))) :=
  ⟨⟨(z |> pt 15 (fun p => { p with state := 8, rdy := [({ vc := 0, kind := 2, seq := 0, words := List.replicate 1 5 } : Pkt), ({ vc := 2, kind := 2, seq := 0, words := List.replicate 32 5 } : Pkt)], advertised := [(2, 16)], txSeq := 4095, txAct := 15, drive := 15 })),
      15, ({ vc := 2, kind := 2, seq := 0, words := List.replicate 32 5 } : Pkt), by decide +kernel⟩,
⟨(z |> pt 15 (fun p => { p with state := 10, unacked := [({ vc := 2, kind := 2, seq := 0, words := List.replicate 1 5 } : Pkt), ({ vc := 2, kind := 2, seq := 1, words := List.replicate 1 5 } : Pkt)], resend := 1 })),
      15, ({ vc := 2, kind := 2, seq := 1, words := List.replicate 1 5 } : Pkt), by decide +kernel⟩,
⟨(z |> pt 15 (fun p => { p with state := 8, txSeq := 3, unacked := [({ vc := 2, kind := 2, seq := 0, words := List.replicate 1 5 } : Pkt), ({ vc := 2, kind := 2, seq := 1, words := List.replicate 1 5 } : Pkt), ({ vc := 2, kind := 2, seq := 2, words := List.replicate 1 5 } : Pkt)], resend := 3, timeouts := 2 })),
      15, (place 64 56 8 3 ||| place 64 42 12 1), by decide +kernel⟩,
⟨(z |> pt 15 (fun p => { p with state := 8, txSeq := 3, unacked := [({ vc := 2, kind := 2, seq := 0, words := List.replicate 1 5 } : Pkt), ({ vc := 2, kind := 2, seq := 1, words := List.replicate 1 5 } : Pkt), ({ vc := 2, kind := 2, seq := 2, words := List.replicate 1 5 } : Pkt)], resend := 3 })),
      15, (place 64 56 8 4 ||| place 64 42 12 1), 1, by decide +kernel⟩,
⟨(z |> pt 15 (fun p => { p with state := 8, ackDue := true, rxSeq := 4096 })), 15, by decide +kernel⟩,
⟨(z |> pt 15 (fun p => { p with state := 8 })), 15, (place 64 56 8 5 ||| place 64 44 12 4095 ||| place 64 8 12 7),
      by decide +kernel⟩,
⟨(z |> pt 15 (fun p => { p with state := 8, creditDue := true })), 15, by decide +kernel⟩,
⟨(z |> pt 15 (fun p => { p with state := 8, unacked := [({ vc := 2, kind := 2, seq := 0, words := List.replicate 1 5 } : Pkt)], resend := 1, timeouts := 6 })),
      15, by decide +kernel⟩,
⟨(z |> pt 23 (fun p => { p with state := 8 }) |> rg (lnkReg 23 0x09C) 0), 23, (place 64 56 8 0xFF), by decide +kernel⟩⟩

theorem wit_PingAndLaneLoss :
(∃ (s : State) (n : Nat) (w : Word), Obl.awake s n ∧ Obl.goodWord s n 6 (place 64 32 16 0xFFFF) w) ∧
(∃ (s : State) (n : Nat), (portOf s n).state = 8 ∧ (portOf s n).eidleTx = false ∧ (portOf s n).eidleRx = false) ∧
(∃ (s : State) (n : Nat) (w : Word), Obl.goodWord s n 7 (place 64 0 48 (2 ^ 48 - 1)) w ∧ fld w 32 16 ∈ (portOf s n).pings) ∧
(∃ (s : State) (n r l : Nat), rxOpen s n = true ∧ Obl.awake s n ∧ ((portOf s n).lane r).failed = false ∧
      ((portOf s n).lane r).logical = l ∧ l < 4 ∧ (portOf s n).rxAct = 0xF ∧ (portOf s n).rxLost = 0) ∧
(∃ (s : State) (n : Nat) (w : Word) (l : Nat), l < 4 ∧ Obl.goodWord s n 8 (place 64 0 4 0xF) w ∧ fld w 0 4 = 2 ^ l ∧
      (portOf s n).txAct = 0xF ∧ (portOf s n).txDrop = 0) ∧
(∃ (s : State) (n : Nat) (c : BitVec 66), rxOpen s n = true ∧ Obl.awake s n ∧ commaOk c = true ∧ (portOf s n).rxLost ≠ 0 ∧
      (portOf s n).rxLost &&& BitVec.ofNat 4 (commaAct c) ≠ 0) ∧
(∃ (s : State) (n : Nat) (c : BitVec 66), rxOpen s n = true ∧ commaOk c = true ∧
      (portOf s n).rxLost &&& BitVec.ofNat 4 (commaAct c) = 0) ∧
(∃ (s : State) (n : Nat), (portOf s n).txDrop ≠ 0) ∧
(∃ (s : State) (n : Nat) (e : FecErr) (l : Nat), rxOpen s n = true ∧ Obl.awake s n ∧
      ((portOf s n).lane e.lane).failed = false ∧ ((portOf s n).lane e.lane).logical = l ∧ l < 4 ∧
      (portOf s n).rxAct = 0xF ∧ (portOf s n).rxLost = 0 ∧ 15 < e.wrong ∧ e.clean < 15 ∧
      3 ≤ ones 16 (((portOf s n).lane e.lane).hist <<< (e.clean + 1)).toNat) ∧
(∃ (s : State) (n r : Nat), rxOpen s n = true ∧ ((portOf s n).lane r).gap = false) ∧
(∃ (s : State) (n r l : Nat), rxOpen s n = true ∧ Obl.awake s n ∧ ((portOf s n).lane r).failed = false ∧
      ((portOf s n).lane r).logical = l ∧ l < 4 ∧ (portOf s n).rxAct = 0xF ∧ (portOf s n).rxLost = 0 ∧
      ((portOf s n).lane r).gap = true) :=
  ⟨⟨(z |> pt 23 (fun p => { p with state := 8 })), 23, (place 64 56 8 6 ||| place 64 32 16 0xFFFF), by decide +kernel⟩,
⟨(z |> pt 23 (fun p => { p with state := 8, pingTag := 65535, txAct := 15, drive := 15 })), 23, by decide +kernel⟩,
⟨(z |> pt 23 (fun p => { p with state := 8, pings := [5], lats := List.replicate 15 1 })), 23,
      (place 64 56 8 7 ||| place 64 32 16 5 ||| 10), by decide +kernel⟩,
⟨(z |> pt 23 (fun p => { p with state := 8, rxAct := 15, lanes := [(1, { Lane.reset with logical := 3 })] })), 23, 1, 3,
      by decide +kernel⟩,
⟨(z |> pt 23 (fun p => { p with state := 8, txAct := 15 })), 23, (place 64 56 8 8 ||| 8), 3, by decide +kernel⟩,
⟨(z |> pt 23 (fun p => { p with state := 8, rxLost := 8 })), 23, (comma 9 7 0 15), by decide +kernel⟩,
⟨(z |> pt 23 (fun p => { p with state := 8, rxLost := 8 })), 23, (comma 9 7 0 7), by decide +kernel⟩,
⟨(z |> pt 23 (fun p => { p with state := 8, txAct := 15, txDrop := 8, resend := 2, drive := 15 }) |> rg (lnkReg 23 0x080) 0x1F),
      23, by decide +kernel⟩,
⟨(z |> pt 23 (fun p => { p with state := 8, rxAct := 15, lanes := [(1, { Lane.reset with logical := 3, hist := 7 })] })),
      23, ({ lane := 1, wrong := 16, clean := 0 } : FecErr), 3, by decide +kernel⟩,
⟨(z |> pt 23 (fun p => { p with state := 8, rxAct := 15, lanes := [(1, { Lane.reset with logical := 3, hist := 7 })] })),
      23, 1, by decide +kernel⟩,
⟨(z |> pt 23 (fun p => { p with state := 8, rxAct := 15, lanes := [(1, { Lane.reset with logical := 3, gap := true })] })),
      23, 1, 3, by decide +kernel⟩⟩

theorem wit_IdleRecalAndReset :
(∃ (s : State) (n : Nat) (w : Word), Obl.goodWord s n 9 0 w) ∧
(∃ (s : State) (n : Nat) (w : Word), n < 24 ∧ 7 ≤ (portOf s n).state ∧ (portOf s n).state ≤ 0xA ∧
      (portOf s n).eidleRx = false ∧ w = ctlWord 0x0A ∧ (portOf s n).eidleTx = false ∧ (portOf s n).drive ≠ 0 ∧
      (portOf s n).txDrop = 0 ∧ runPort s n = false) ∧
(∃ (s : State) (n : Nat) (v : Reg), n < 24 ∧ Obl.portCtl s n v ∧ v.getLsbD 5 = true ∧ v.getLsbD 6 = false ∧
      v.getLsbD 8 = false ∧ (portOf s n).state = 8 ∧ (portOf s n).rdy = [] ∧ (portOf s n).unacked = []) ∧
(∃ (s : State) (n : Nat), mayDrive s = true ∧ (portOf s n).eidleTx = true ∧ (portOf s n).rdy ≠ [] ∧ (portOf s n).state = 9) ∧
(∃ (s : State) (n : Nat), mayDrive s = true ∧ (portOf s n).eidleTx = true ∧ (portOf s n).eidleReq = true ∧
      (portOf s n).state = 9 ∧ (portOf s n).rdy = [] ∧ (portOf s n).unacked = [] ∧ runPort s n = false ∧
      (portOf s n).ackDue = true) ∧
(∃ (s : State) (n : Nat) (v : Reg), n < 24 ∧ mayDrive s = true ∧ Obl.portCtl s n v ∧ v.getLsbD 5 = false ∧
      v.getLsbD 6 = true ∧ v.getLsbD 8 = false ∧ (portOf s n).state = 8 ∧ (portOf s n).eidleTx = false ∧ mkhArmed s = false) ∧
(∃ (s : State) (n dev prt : Nat) (c : (Nat → CommaSeen)), mayDrive s = true ∧ (portOf s n).state = 0xA ∧
      (portOf s n).unacked = [] ∧ Hold.recal n ∉ s.run.holds ∧ laneEn s n = 15 ∧
      (∀ r, r < 4 → eqOk ((portOf s n).lane r).eqNext = true) ∧
      (∀ r, r < 4 → commaOk (c r).block = true ∧ commaLane (c r).block = r ∧ commaDevOf (c r).block = dev ∧ commaPort (c r).block = prt)) ∧
(∃ (s : State) (n : Nat) (v : Reg), n < 24 ∧ Obl.portCtl s n v ∧ v.getLsbD 5 = false ∧ v.getLsbD 6 = false ∧
      v.getLsbD 8 = true ∧ 7 ≤ (portOf s n).state ∧ (portOf s n).eidleTx = false ∧ (portOf s n).drive ≠ 0 ∧
      (portOf s n).txDrop = 0) ∧
(∃ (s : State) (n : Nat), (portOf s n).eidleRx = true ∧ regBit s (ro pPwr 0x108) 1 = false) :=
  ⟨⟨(z |> pt 23 (fun p => { p with state := 8 })), 23, (place 64 56 8 9), by decide +kernel⟩,
⟨(z |> pt 23 (fun p => { p with state := 8, txSeq := 5, txAct := 15, drive := 15 }) |> rg (lnkReg 23 0x080) 0x1F), 23,
      (ctlWord 0x0A), by decide +kernel⟩,
⟨(z |> pt 23 (fun p => { p with state := 8, txAct := 15, drive := 15 }) |> rg (lnkReg 23 0x080) 0x1F), 23, (0x2F : Reg),
      by decide +kernel⟩,
⟨(z |> pt 23 (fun p => { p with state := 9, eidleTx := true, txAct := 15, rdy := [({ vc := 2, kind := 2, seq := 0, words := List.replicate 1 5 } : Pkt)] }) |> rg (lnkReg 23 0x080) 0x1F),
      23, by decide +kernel⟩,
⟨(z |> pt 23 (fun p => { p with state := 9, eidleTx := true, eidleReq := true, txAct := 15, ackDue := true }) |> rg (lnkReg 23 0x080) 0x1F),
      23, by decide +kernel⟩,
⟨(z |> pt 23 (fun p => { p with state := 8 }) |> rg (lnkReg 23 0x080) 0x1F), 23, (0x4F : Reg), by decide +kernel⟩,
⟨(z |> pt 23 (fun p => { p with state := 10, recal := true, txDrop := 1, rxLost := 1, lanes := (List.range 4).map (fun r => (r, { Lane.reset with eqNext := 0x100000 })), drive := 15 }) |> rg (lnkReg 23 0x080) 0x1F),
      23, 9, 7, (fun r => { block := comma 9 7 r 15, inverted := r == 2 } : Nat → CommaSeen), by decide +kernel⟩,
⟨(z |> pt 23 (fun p => { p with state := 8, txAct := 15, drive := 15 }) |> rg (lnkReg 23 0x080) 0x1F), 23, (0x10F : Reg),
      by decide +kernel⟩,
⟨(z |> pt 23 (fun p => { p with state := 8, eidleRx := true })), 23, by decide +kernel⟩⟩

theorem wit_UserChannel :
(∃ (s : State) (n : Nat), (portOf s n).ctlTx.length < 31) ∧
(∃ (s : State) (n : Nat), (portOf s n).ctlTx ≠ [] ∧ 8 ≤ (portOf s n).state) ∧
(∃ (s : State) (n : Nat) (w : Word) (ws : List Word) (rest : List (List Word)), (portOf s n).ctlRx = (w :: ws) :: rest ∧
      (portOf s n).ctlHalf = false) ∧
(∃ (s : State) (n : Nat) (w : Word) (ws : List Word) (rest : List (List Word)), (portOf s n).ctlRx = (w :: ws) :: rest ∧
      (portOf s n).ctlHalf = true) :=
  ⟨⟨(z |> pt 23 (fun p => { p with ctlTx := List.replicate 30 1 })), 23, by decide +kernel⟩,
⟨(z |> pt 23 (fun p => { p with state := 8, ctlTx := [1] })), 23, by decide +kernel⟩,
⟨(z |> pt 23 (fun p => { p with ctlRx := [[1, 2, 3], [4]] })), 23, (1 : Word), ([2, 3] : List Word),
      ([[4]] : List (List Word)), by decide +kernel⟩,
⟨(z |> pt 23 (fun p => { p with ctlHalf := true, ctlRx := [[0x700000001], [4]] })), 23, (0x700000001 : Word),
      ([] : List Word), ([[4]] : List (List Word)), by decide +kernel⟩⟩

theorem wit_SequencerTakesItsOldestEvent :
(∃ (s : State) (e : MEvent) (rest : List MEvent), Obl.event s e rest ∧ e.src = Obl.rst s) ∧
(∃ (s : State) (e : MEvent) (rest : List MEvent), Obl.event s e rest ∧ e.src ≠ Obl.rst s ∧ e.src ≠ Obl.adv s) ∧
(∃ (s : State) (e : MEvent) (rest : List MEvent), Obl.event s e rest ∧ e.src ≠ Obl.rst s ∧ e.src = Obl.adv s ∧
      s.mkh.count + 1 < Obl.stages s) ∧
(∃ (s : State) (e : MEvent) (rest : List MEvent) (k : Nat), Obl.event s e rest ∧ e.src ≠ Obl.rst s ∧ e.src = Obl.adv s ∧
      Obl.stages s ≤ s.mkh.count + 1 ∧ regBit s (ro pAcq (0x100 + 8 * s.mkh.stage)) 15 = false ∧
      k = regF s (ro pAcq (0x100 + 8 * s.mkh.stage)) 12 3) ∧
(∃ (s : State) (e : MEvent) (rest : List MEvent), Obl.event s e rest ∧ e.src ≠ Obl.rst s ∧ e.src = Obl.adv s ∧
      Obl.stages s ≤ s.mkh.count + 1 ∧ regBit s (ro pAcq (0x100 + 8 * s.mkh.stage)) 15 = true ∧
      regBit s (ro pAcq 0x0C0) 16 = false ∧ (∀ c ∈ enabledChans s, regBit s (chReg c 0) 14 = false)) :=
  ⟨⟨(z |> rg mkhCtl 4 |> rg (ro pAcq 0x138) 0x146 |> mk (fun m => { m with state := 2, stage := 7, count := 0, queue := [({ src := 5, frac := 0, time := 5, stamp := 5, idx := 0, cyc := 0, tag := none, arr := 0 } : MEvent), ({ src := 6, frac := 0, time := 5, stamp := 5, idx := 0, cyc := 0, tag := none, arr := 0 } : MEvent)] })),
      ({ src := 5, frac := 0, time := 5, stamp := 5, idx := 0, cyc := 0, tag := none, arr := 0 } : MEvent),
      ([({ src := 6, frac := 0, time := 5, stamp := 5, idx := 0, cyc := 0, tag := none, arr := 0 } : MEvent)] : List MEvent),
      by decide +kernel⟩,
⟨(z |> rg mkhCtl 4 |> rg (ro pAcq 0x138) 0x146 |> mk (fun m => { m with state := 2, stage := 7, count := 0, queue := [({ src := 4, frac := 0, time := 5, stamp := 5, idx := 0, cyc := 0, tag := none, arr := 0 } : MEvent), ({ src := 6, frac := 0, time := 5, stamp := 5, idx := 0, cyc := 0, tag := none, arr := 0 } : MEvent)] })),
      ({ src := 4, frac := 0, time := 5, stamp := 5, idx := 0, cyc := 0, tag := none, arr := 0 } : MEvent),
      ([({ src := 6, frac := 0, time := 5, stamp := 5, idx := 0, cyc := 0, tag := none, arr := 0 } : MEvent)] : List MEvent),
      by decide +kernel⟩,
⟨(z |> rg mkhCtl 4 |> rg (ro pAcq 0x138) 0x146 |> mk (fun m => { m with state := 2, stage := 7, count := 1, queue := [({ src := 6, frac := 0, time := 5, stamp := 5, idx := 0, cyc := 0, tag := none, arr := 0 } : MEvent), ({ src := 6, frac := 0, time := 5, stamp := 5, idx := 0, cyc := 0, tag := none, arr := 0 } : MEvent)] }) |> rg (ro pAcq 0x13C) 3),
      ({ src := 6, frac := 0, time := 5, stamp := 5, idx := 0, cyc := 0, tag := none, arr := 0 } : MEvent),
      ([({ src := 6, frac := 0, time := 5, stamp := 5, idx := 0, cyc := 0, tag := none, arr := 0 } : MEvent)] : List MEvent),
      by decide +kernel⟩,
⟨(z |> rg mkhCtl 4 |> rg (ro pAcq 0x138) 0x5146 |> mk (fun m => { m with state := 2, stage := 7, count := 2, queue := [({ src := 6, frac := 0, time := 5, stamp := 5, idx := 0, cyc := 0, tag := none, arr := 0 } : MEvent), ({ src := 6, frac := 0, time := 5, stamp := 5, idx := 0, cyc := 0, tag := none, arr := 0 } : MEvent)] }) |> rg (ro pAcq 0x13C) 3),
      ({ src := 6, frac := 0, time := 5, stamp := 5, idx := 0, cyc := 0, tag := none, arr := 0 } : MEvent),
      ([({ src := 6, frac := 0, time := 5, stamp := 5, idx := 0, cyc := 0, tag := none, arr := 0 } : MEvent)] : List MEvent),
      5, by decide +kernel⟩,
⟨(z |> rg mkhCtl 4 |> rg (ro pAcq 0x138) 0x8146 |> mk (fun m => { m with state := 2, stage := 7, count := 0, queue := [({ src := 6, frac := 0, time := 5, stamp := 5, idx := 0, cyc := 0, tag := none, arr := 0 } : MEvent), ({ src := 6, frac := 0, time := 5, stamp := 5, idx := 0, cyc := 0, tag := none, arr := 0 } : MEvent)] })),
      ({ src := 6, frac := 0, time := 5, stamp := 5, idx := 0, cyc := 0, tag := none, arr := 0 } : MEvent),
      ([({ src := 6, frac := 0, time := 5, stamp := 5, idx := 0, cyc := 0, tag := none, arr := 0 } : MEvent)] : List MEvent),
      by decide +kernel⟩⟩

theorem wit_TriggerPins :
(∃ (s : State) (k : Nat) (frac : BitVec 8) (st : Word), k < 4 ∧ st = s.tb + BitVec.ofNat 64 frac.toNat ∧
      regBit s (ro pPwr 0x108) 0 = false ∧ s.mkh.queue.length < 256) ∧
(∃ (s : State) (k : Nat) (frac : BitVec 8) (st : Word), k < 4 ∧ st = s.tb + BitVec.ofNat 64 frac.toNat ∧
      regBit s (ro pPwr 0x108) 0 = false ∧ s.mkh.queue.length < 256) ∧
(∃ (s : State) (v : Reg), v.getLsbD 0 = true ∧ v.getLsbD 1 = false ∧ s.mkh.queue.length < 256) ∧
(∃ (s : State) (k : Nat) (w : Word) (due : List Word), mkhArmed s = true ∧ (pulseOf s k).due = w :: due) :=
  ⟨⟨(z |> rg mkhCtl 4 |> mk (fun m => { m with state := 2, queue := List.replicate 255 ({ src := 1, frac := 0, time := 5, stamp := 5, idx := 0, cyc := 0, tag := none, arr := 0 } : MEvent) })),
      3, (255 : Byte), (255 : Word), by decide +kernel⟩,
⟨(z |> rg mkhCtl 4 |> mk (fun m => { m with state := 3 })), 0, (0 : Byte), (0 : Word), by decide +kernel⟩,
⟨(z |> mk (fun m => { m with state := 2 })), (5 : Reg), by decide +kernel⟩,
⟨(z |> mk (fun m => { m with state := 2, pulses := [(3, { due := [7, 9], active := true, ext := false })] })), 3,
      (7 : Word), ([9] : List Word), by decide +kernel⟩⟩

theorem wit_SegmentsAndRecords :
(∃ (s : State) (i : Nat) (e : Nat × Nat × Word) (j : Nat), s.mkh.probes[i]? = some e ∧
      (∀ f ∈ s.mkh.probes, f.1 = e.1 → e.2.1 ≤ f.2.1) ∧ mkhArmed s = true ∧ chEn s 32 = true ∧ s.mkh.probeDone ≤ e.2.1 ∧
      s.mkh.probeGot = [] ∧ probeSlots s = [j] ∧ slotWaits s j = some e.1 ∧ samplesFit s 32 1 = true) ∧
(∃ (s : State) (i : Nat), s.mkh.probes[i]? = none ∧ mkhArmed s = true ∧ chEn s 32 = true ∧ s.run.active = true ∧
      slotsIdle s = true ∧ s.mkh.probeDone < nextFirst s ∧ samplesFit s 32 1 = true) ∧
(∃ (s : State) (c : Nat) (g : Seg), (mchanOf s c).seg = some g ∧ g.committed = none ∧ earlierOpen s g.ord = false ∧
      g.ord / 64 < s.tb.toNat / 256) ∧
(∃ (s : State) (c : Nat) (g : Seg) (o : Nat), (mchanOf s c).seg = some g ∧ g.committed = some o ∧ g.len ≤ g.got) ∧
(∃ (s : State) (c : Nat), (mchanOf s c).state = 3 ∧ chPre s c ≤ (mchanOf s c).since) ∧
(∃ (s : State) (c : Nat) (g : Seg) (rest : List Seg) (o : Nat) (bs : List Byte),
      ((mchanOf s c).left = [] ∧ (mchanOf s c).drain = g :: rest ∧ g.committed = some o) ∧ (∀ d, (dieOf s d).tt = none) ∧
      Obl.settled s ∧ bs = recordOfSeg c (takeSamples s g).2) ∧
(∃ (s : State) (c : Nat) (g : Seg) (rest : List Seg) (o : Nat) (bs : List Byte),
      ((mchanOf s c).left = g :: rest ∧ g.committed = some o) ∧ (∀ d, (dieOf s d).tt = none) ∧ Obl.settled s ∧
      bs = recordOfSeg c (takeSamples s g).2) ∧
(∃ (s : State) (c : Nat) (g : Seg),
      ((mchanOf s c).left = [] ∧ (mchanOf s c).drain = [] ∧ (mchanOf s c).seg = some g ∧ g.committed ≠ none) ∧
      (∀ d, (dieOf s d).tt = none)) :=
  ⟨⟨(z |> im (fun x => { x with probeMap := [(0, 0, 0, 5)] }) |> rg (chReg 32 0) 1 |> rg (chReg 32 0x10) 0x20 |> rg (chReg 32 0x1C) 0x100 |> mk (fun m => { m with state := 2, probeDone := 3, probes := [(7, 2, 9), (5, 3, (8 : Word)), (5, 4, 6)] })),
      1, (5, 3, 8), 5, by decide +kernel⟩,
⟨(z |> act 1 |> rg (chReg 32 0) 1 |> rg (chReg 32 0x10) 0x20 |> rg (chReg 32 0x1C) 0x100 |> tl 0 (fun t => { t with cycle := 4 }) |> mk (fun m => { m with state := 2, probeDone := 3 })),
      0, by decide +kernel⟩,
⟨(z |> mc 32 (fun x => { x with seg := some ({ num := 0, ord := 4, frac := 1, tstamp := 2, stamp := 3, sseq := 4, index := 5, fromSeq := true, missing := 0, incomplete := false, places := (List.range 3).map (8 * ·), out := [], perr := false, base := 0, cap := 8, width := 8, pre := 1, len := 3, post := 0, red := 0, redK := 1, fmt := 3, acq := 64, committed := none } : Seg) }) |> mk (fun m => { m with wp := 640 }) |> fun s => { s with tb := 256 }),
      32,
      ({ num := 0, ord := 4, frac := 1, tstamp := 2, stamp := 3, sseq := 4, index := 5, fromSeq := true, missing := 0, incomplete := false, places := (List.range 3).map (8 * ·), out := [], perr := false, base := 0, cap := 8, width := 8, pre := 1, len := 3, post := 0, red := 0, redK := 1, fmt := 3, acq := 64, committed := none } : Seg),
      by decide +kernel⟩,
⟨(z |> mc 0 (fun x => { x with seg := some ({ num := 0, ord := 4, frac := 1, tstamp := 2, stamp := 3, sseq := 4, index := 5, fromSeq := true, missing := 0, incomplete := false, places := (List.range 3).map (8 * ·), out := [], perr := false, base := 0, cap := 8, width := 8, pre := 1, len := 3, post := 0, red := 0, redK := 1, fmt := 3, acq := 64, committed := some 0 } : Seg) })),
      0,
      ({ num := 0, ord := 4, frac := 1, tstamp := 2, stamp := 3, sseq := 4, index := 5, fromSeq := true, missing := 0, incomplete := false, places := (List.range 3).map (8 * ·), out := [], perr := false, base := 0, cap := 8, width := 8, pre := 1, len := 3, post := 0, red := 0, redK := 1, fmt := 3, acq := 64, committed := some 0 } : Seg),
      0, by decide +kernel⟩,
⟨(z |> rg (chReg 0 0x08) 2 |> mc 0 (fun x => { x with state := 3, since := 2 })), 0, by decide +kernel⟩,
⟨(z |> mk (fun m => { m with state := 2 }) |> mc 0 (fun x => { x with drain := [({ num := 0, ord := 4, frac := 1, tstamp := 2, stamp := 3, sseq := 4, index := 5, fromSeq := true, missing := 0, incomplete := false, places := (List.range 3).map (8 * ·), out := [], perr := false, base := 0, cap := 8, width := 8, pre := 1, len := 3, post := 0, red := 0, redK := 1, fmt := 3, acq := 64, committed := some 64 } : Seg), ({ num := 0, ord := 4, frac := 1, tstamp := 2, stamp := 3, sseq := 4, index := 5, fromSeq := true, missing := 0, incomplete := false, places := (List.range 3).map (8 * ·), out := [], perr := false, base := 0, cap := 8, width := 8, pre := 1, len := 3, post := 0, red := 0, redK := 1, fmt := 3, acq := 64, committed := some 256 } : Seg)] })),
      0,
      ({ num := 0, ord := 4, frac := 1, tstamp := 2, stamp := 3, sseq := 4, index := 5, fromSeq := true, missing := 0, incomplete := false, places := (List.range 3).map (8 * ·), out := [], perr := false, base := 0, cap := 8, width := 8, pre := 1, len := 3, post := 0, red := 0, redK := 1, fmt := 3, acq := 64, committed := some 64 } : Seg),
      [({ num := 0, ord := 4, frac := 1, tstamp := 2, stamp := 3, sseq := 4, index := 5, fromSeq := true, missing := 0, incomplete := false, places := (List.range 3).map (8 * ·), out := [], perr := false, base := 0, cap := 8, width := 8, pre := 1, len := 3, post := 0, red := 0, redK := 1, fmt := 3, acq := 64, committed := some 256 } : Seg)],
      64,
      (recordOfSeg 0 (takeSamples (z |> mk (fun m => { m with state := 2 }) |> mc 0 (fun x => { x with drain := [({ num := 0, ord := 4, frac := 1, tstamp := 2, stamp := 3, sseq := 4, index := 5, fromSeq := true, missing := 0, incomplete := false, places := (List.range 3).map (8 * ·), out := [], perr := false, base := 0, cap := 8, width := 8, pre := 1, len := 3, post := 0, red := 0, redK := 1, fmt := 3, acq := 64, committed := some 64 } : Seg), ({ num := 0, ord := 4, frac := 1, tstamp := 2, stamp := 3, sseq := 4, index := 5, fromSeq := true, missing := 0, incomplete := false, places := (List.range 3).map (8 * ·), out := [], perr := false, base := 0, cap := 8, width := 8, pre := 1, len := 3, post := 0, red := 0, redK := 1, fmt := 3, acq := 64, committed := some 256 } : Seg)] })) ({ num := 0, ord := 4, frac := 1, tstamp := 2, stamp := 3, sseq := 4, index := 5, fromSeq := true, missing := 0, incomplete := false, places := (List.range 3).map (8 * ·), out := [], perr := false, base := 0, cap := 8, width := 8, pre := 1, len := 3, post := 0, red := 0, redK := 1, fmt := 3, acq := 64, committed := some 64 } : Seg)).2),
      by decide +kernel, fun _ => rfl, settledAll _ rfl, by decide +kernel⟩,
⟨(z |> mc 0 (fun x => { x with left := [({ num := 0, ord := 4, frac := 1, tstamp := 2, stamp := 3, sseq := 4, index := 5, fromSeq := true, missing := 0, incomplete := false, places := (List.range 3).map (8 * ·), out := [], perr := false, base := 0, cap := 8, width := 8, pre := 1, len := 3, post := 0, red := 0, redK := 1, fmt := 3, acq := 64, committed := some 64 } : Seg)] })),
      0,
      ({ num := 0, ord := 4, frac := 1, tstamp := 2, stamp := 3, sseq := 4, index := 5, fromSeq := true, missing := 0, incomplete := false, places := (List.range 3).map (8 * ·), out := [], perr := false, base := 0, cap := 8, width := 8, pre := 1, len := 3, post := 0, red := 0, redK := 1, fmt := 3, acq := 64, committed := some 64 } : Seg),
      [], 64,
      (recordOfSeg 0 (takeSamples (z |> mc 0 (fun x => { x with left := [({ num := 0, ord := 4, frac := 1, tstamp := 2, stamp := 3, sseq := 4, index := 5, fromSeq := true, missing := 0, incomplete := false, places := (List.range 3).map (8 * ·), out := [], perr := false, base := 0, cap := 8, width := 8, pre := 1, len := 3, post := 0, red := 0, redK := 1, fmt := 3, acq := 64, committed := some 64 } : Seg)] })) ({ num := 0, ord := 4, frac := 1, tstamp := 2, stamp := 3, sseq := 4, index := 5, fromSeq := true, missing := 0, incomplete := false, places := (List.range 3).map (8 * ·), out := [], perr := false, base := 0, cap := 8, width := 8, pre := 1, len := 3, post := 0, red := 0, redK := 1, fmt := 3, acq := 64, committed := some 64 } : Seg)).2),
      by decide +kernel, fun _ => rfl, settledAll _ rfl, by decide +kernel⟩,
⟨(z |> mc 0 (fun x => { x with seg := some ({ num := 0, ord := 4, frac := 1, tstamp := 2, stamp := 3, sseq := 4, index := 5, fromSeq := true, missing := 0, incomplete := false, places := (List.range 2).map (8 * ·), out := [], perr := false, base := 0, cap := 8, width := 8, pre := 1, len := 3, post := 0, red := 0, redK := 1, fmt := 3, acq := 64, committed := some 64 } : Seg) })),
      0,
      ({ num := 0, ord := 4, frac := 1, tstamp := 2, stamp := 3, sseq := 4, index := 5, fromSeq := true, missing := 0, incomplete := false, places := (List.range 2).map (8 * ·), out := [], perr := false, base := 0, cap := 8, width := 8, pre := 1, len := 3, post := 0, red := 0, redK := 1, fmt := 3, acq := 64, committed := some 64 } : Seg),
      by decide +kernel, fun _ => rfl⟩⟩

theorem wit_RateAndDisarm :
(∃ (s : State) (c n : Nat), c < 32 ∧ mkhArmed s = true ∧ chEn s c = true ∧
      101 * 2 ^ 24 * 100000 < n * (getReg s (chReg c 0x04)).toNat * 100) ∧
(∃ (s : State) (v : Reg), v.getLsbD 0 = false ∧ v.getLsbD 1 = true ∧ mkhArmed s = true ∧
      (∀ c, c < 33 → (mchanOf s c).seg = none)) ∧
(∃ (s : State) (v : Reg) (c : Nat) (g : Seg), v.getLsbD 0 = false ∧ v.getLsbD 1 = true ∧ mkhArmed s = true ∧ c < 33 ∧
      (mchanOf s c).seg = some g ∧ (∀ d, d < 33 → d ≠ c → (mchanOf s d).seg = none)) :=
  ⟨⟨(z |> rg (chReg 31 0) 1 |> rg (chReg 31 4) 1000000 |> mk (fun m => { m with state := 2 })), 31, 1694499, by decide +kernel⟩,
⟨(z |> mk (fun m => { m with state := 3, queue := [({ src := 1, frac := 0, time := 5, stamp := 5, idx := 0, cyc := 0, tag := none, arr := 0 } : MEvent)] }) |> mc 32 (fun x => { x with state := 1, armWin := true })),
      (2 : Reg), by decide +kernel⟩,
⟨(z |> rg (chReg 32 0x08) 1 |> rg (chReg 32 0x0C) 3 |> mk (fun m => { m with state := 3, wp := 640 }) |> mc 32 (fun x => { x with state := 2, seg := some ({ num := 0, ord := 4, frac := 1, tstamp := 2, stamp := 3, sseq := 4, index := 5, fromSeq := true, missing := 0, incomplete := false, places := (List.range 3).map (8 * ·), out := [], perr := false, base := 0, cap := 8, width := 8, pre := 1, len := 3, post := 0, red := 0, redK := 1, fmt := 3, acq := 64, committed := none } : Seg) })),
      (2 : Reg), 32,
      ({ num := 0, ord := 4, frac := 1, tstamp := 2, stamp := 3, sseq := 4, index := 5, fromSeq := true, missing := 0, incomplete := false, places := (List.range 3).map (8 * ·), out := [], perr := false, base := 0, cap := 8, width := 8, pre := 1, len := 3, post := 0, red := 0, redK := 1, fmt := 3, acq := 64, committed := none } : Seg),
      by decide +kernel⟩⟩

theorem wit_QueuesAndDoorbells :
(∃ (s : State) (q : Nat) (v : Reg), q < 8 ∧ sqEn s q = false ∧ v.getLsbD 0 = true ∧
      reg64 s (sqReg q 4) (sqReg q 8) + 64 * Obl.slots v ≤ capacity s) ∧
(∃ (s : State) (q : Nat) (v : Reg), q < 8 ∧ sqEn s q = false ∧ v.getLsbD 0 = true ∧
      capacity s < reg64 s (sqReg q 4) (sqReg q 8) + 64 * Obl.slots v) ∧
(∃ (s : State) (q : Nat) (v : BitVec 32) (d : Nat), q < 8 ∧ sqEn s q = true ∧
      (fld v 0 16 + 65536 - (queueOf s q).tail) % 65536 = d ∧ 0 < d ∧ d < 32768 ∧
      d ≤ (sqLimit s q + 65536 - (queueOf s q).tail) % 65536 ∧ s.pwr.state = 0 ∧ s.pwr.entering = none) ∧
(∃ (s : State) (q : Nat) (v : BitVec 32) (d : Nat), q < 8 ∧ sqEn s q = true ∧
      (fld v 0 16 + 65536 - (queueOf s q).tail) % 65536 = d ∧ d < 32768 ∧
      (sqLimit s q + 65536 - (queueOf s q).tail) % 65536 < d) :=
  ⟨⟨(z |> cf (fun c => { c with trained := true }) |> dr (fun d => { d with capLog2 := 33 }) |> rg (sqReg 7 0x04) 0x40), 7,
      (0xFFFFFFFF : Reg), by decide +kernel⟩,
⟨z, 7, (1 : Reg), by decide +kernel⟩,
⟨(z |> rg (sqReg 7 0) 1 |> qu 7 (fun x => { x with tail := 65535, cqHead := 65535 })), 7, (63 : Reg), 64, by decide +kernel⟩,
⟨(z |> rg (sqReg 7 0) 1), 7, (65 : Reg), 65, by decide +kernel⟩⟩

theorem wit_JobsComeToRun :
(∃ (s : State) (q : Nat) (j : Job) (d : BitVec 512),
      ((queueJobs s q).find? (fun x => x.phase == .accepted) = some j ∧ findJob s j.q j.seq = some j ∧ retraining s = false) ∧
      Obl.settled s ∧ d = descOf s j ∧ ({ j with desc := d } : Job).valid = true) ∧
(∃ (s : State) (q : Nat) (j : Job) (d : BitVec 512),
      ((queueJobs s q).find? (fun x => x.phase == .accepted) = some j ∧ findJob s j.q j.seq = some j ∧ retraining s = false) ∧
      Obl.settled s ∧ d = descOf s j ∧ ({ j with desc := d } : Job).valid = false ∧ j.aborted = false) ∧
(∃ (s : State) (q : Nat) (j : Job), headJob s q = some j ∧ findJob s j.q j.seq = some j ∧ ctxJob s j.ctx = none ∧
      firstInLine s j = true) ∧
(∃ (s : State) (j : Job), ctxJob s j.ctx = some j ∧ findJob s j.q j.seq = some j ∧ j.phase = .inContext ∧
      (j.waitMask = 0 ∨ ctxFlags s j.ctx &&& j.waitMask ≠ 0)) ∧
(∃ (s : State) (j : Job) (x : Nat), takes s x = some j ∧ findJob s j.q j.seq = some j ∧ trcClass s 7 = false) :=
  ⟨⟨(z |> jb (mkJ .accepted 0 1 0 0 []) |> dr (fun d => { d with bytes := [(577, 1), (608, 8)] })), 3,
      (mkJ .accepted 0 1 0 0 []),
      (descOf (z |> jb (mkJ .accepted 0 1 0 0 []) |> dr (fun d => { d with bytes := [(577, 1), (608, 8)] })) (mkJ .accepted 0 1 0 0 [])),
      by decide +kernel, settledAll _ rfl, by decide +kernel⟩,
⟨(z |> jb (mkJ .accepted 0 1 0 0 []) |> dr (fun d => { d with bytes := [(576, 255)] })), 3, (mkJ .accepted 0 1 0 0 []),
      (descOf (z |> jb (mkJ .accepted 0 1 0 0 []) |> dr (fun d => { d with bytes := [(576, 255)] })) (mkJ .accepted 0 1 0 0 [])),
      by decide +kernel, settledAll _ rfl, by decide +kernel⟩,
⟨(z |> jb (mkJ .copied 8 1 2 255 []) |> sg (fun g => { g with flags := [(255, 3)] })), 3, (mkJ .copied 8 1 2 255 []),
      by decide +kernel⟩,
⟨(z |> jb { (mkJ .inContext 8 1 0 255 [(8, 6)]) with holds := true } |> sg (fun g => { g with flags := [(255, 5)] })),
      ({ (mkJ .inContext 8 1 0 255 [(8, 6)]) with holds := true } : Job), by decide +kernel⟩,
⟨(z |> jb (mkJ .ready 8 1 0 0 [])), (mkJ .ready 8 1 0 0 []), 8, by decide +kernel⟩⟩

theorem wit_JobRelease :
(∃ (s : State) (q : Nat) (j : Job) (a : Nat), findJob s q (queueOf s q).cqTail = some j ∧ j.phase = .finished ∧
      j.flags.testBit 0 = false ∧ j.flags.testBit 2 = false ∧ j.flags.testBit 3 = false ∧ trcClass s 7 = false ∧
      a = reg64 s (sqReg q 0x0C) (sqReg q 0x10) + 32 * (j.seq % sqSize s q)) ∧
(∃ (s : State) (q : Nat) (j : Job), findJob s q (queueOf s q).cqTail = some j ∧ j.phase = .finished ∧
      j.flags.testBit 0 = false ∧ j.status = 0 ∧ j.flags.testBit 2 = true ∧ j.flags.testBit 3 = false ∧
      trcClass s 7 = false ∧ j.par 4 1 ≠ s.run.ctx) ∧
(∃ (s : State) (q : Nat), (q < 8 ∧ (queueOf s q).timer = true ∧ masked s (1 + q) = true) ∧ s.Settled) ∧
(∃ (s : State) (q : Nat), (q < 8 ∧ (queueOf s q).timer = true ∧ masked s (1 + q) = false) ∧ s.Settled) :=
  ⟨⟨(z |> jb (mkJ .finished 8 1 0 0 []) |> qu 3 (fun x => { x with cqTail := 9 })), 3, (mkJ .finished 8 1 0 0 []), 288,
      by decide +kernel⟩,
⟨(z |> jb (mkJ .finished 8 1 4 0 [(4, 255), (5, 63)]) |> qu 3 (fun x => { x with cqTail := 9 })), 3,
      (mkJ .finished 8 1 4 0 [(4, 255), (5, 63)]), by decide +kernel⟩,
⟨(z |> qu 7 (fun x => { x with timer := true, unann := 3 })), 7, by decide +kernel,
      settled_of _ (by decide +kernel) (by decide +kernel)⟩,
⟨(z |> rg (ro pPci 0x88C) 0 |> qu 7 (fun x => { x with timer := true, unann := 3 })), 7, by decide +kernel,
      settled_of _ (by decide +kernel) (by decide +kernel)⟩⟩

theorem wit_ContextFlags :
(∃ (s : State) (v : BitVec 32), fld v 0 8 ≠ s.run.ctx) ∧
(∃ (s : State) (v : BitVec 32) (m : Word), fld v 0 8 = s.run.ctx ∧
      m = (ctxFlags s s.run.ctx ||| place 64 (fld v 8 6) 1 1) &&& s.run.stopMask ∧ m ≠ 0 ∧ s.run.active = true ∧
      s.run.faultStop = false ∧ s.run.stopAt = none ∧ runMode s ≠ 2) :=
  ⟨⟨z, (0x3FFF : Reg), by decide +kernel⟩,
⟨(z |> act 2 |> tl 1 (fun t => { t with cycle := 6 }) |> rn (fun r => { r with ctx := 255, stopMask := 0x8000000000000000 })),
      (0x3FFF : Reg), (0x8000000000000000 : Word), by decide +kernel⟩⟩

theorem wit_Aborts :
(∃ (s : State) (v : Reg) (j : Job), Obl.aborts v 0 ∧ s.saiga.abort = none ∧ Obl.oneJob s j ∧ j.q = fld v 2 3 ∧
      j.seq = fld v 16 16 ∧ (j.phase = .copied ∨ j.phase = .inContext ∨ j.phase = .ready)) ∧
(∃ (s : State) (v : Reg), Obl.aborts v 0 ∧ s.saiga.abort = none ∧ s.saiga.jobs = [] ∧ 0 < (queueOf s (fld v 2 3)).done ∧
      ((queueOf s (fld v 2 3)).cqTail + 65536 - fld v 16 16) % 65536 = 1) ∧
(∃ (s : State) (v : Reg) (j : Job), Obl.aborts v 1 ∧ s.saiga.abort = none ∧ Obl.oneJob s j ∧ j.q = fld v 2 3 ∧
      (j.phase = .copied ∨ j.phase = .inContext ∨ j.phase = .ready)) ∧
(∃ (s : State) (v : Reg), Obl.aborts v 2 ∧ s.saiga.abort = none ∧ s.saiga.jobs = [] ∧ s.run.active = true ∧
      s.run.faultStop = false ∧ s.run.stopAt = none ∧ s.run.cause ≠ some 4 ∧ runMode s ≠ 2) ∧
(∃ (s : State) (v : Reg), Obl.aborts v 3 ∧ s.saiga.abort = none ∧ s.saiga.jobs = [] ∧ s.run.active = false ∧
      mkhArmed s = true) ∧
(∃ (s : State), s.saiga.abort.isSome = true) ∧
(∃ (s : State) (a : Abort), s.saiga.abort = some a ∧ abortIdle s a = true ∧ s.saiga.flr = true) ∧
(∃ (s : State) (a : Abort), (s.saiga.abort = some a ∧ abortIdle s a = true ∧ s.saiga.flr = false ∧ masked s 26 = true) ∧
      s.Settled) :=
  ⟨⟨(z |> jb (mkJ .ready 8 1 0 0 [])), (0x9000C : Reg), (mkJ .ready 8 1 0 0 []), by decide +kernel⟩,
⟨(z |> qu 3 (fun x => { x with cqTail := 0, done := 1 })), (0xFFFF000C : Reg), by decide +kernel⟩,
⟨(z |> jb (mkJ .copied 8 1 0 0 [])), (0xD : Reg), (mkJ .copied 8 1 0 0 []), by decide +kernel⟩,
⟨(z |> act 2), (2 : Reg), by decide +kernel⟩,
⟨(z |> mk (fun m => { m with state := 2 })), (3 : Reg), by decide +kernel⟩,
⟨(z |> sg (fun g => { g with abort := some { target := 3, q := 0, seq := 0, result := 0, count := 0 } })),
      by decide +kernel⟩,
⟨(z |> sg (fun g => { g with flr := true, abort := some { target := 3, q := 0, seq := 0, result := 0, count := 0 } })),
      ({ target := 3, q := 0, seq := 0, result := 0, count := 0 } : Abort), by decide +kernel⟩,
⟨(z |> sg (fun g => { g with abort := some { target := 3, q := 0, seq := 0, result := 1, count := 256 } })),
      ({ target := 3, q := 0, seq := 0, result := 1, count := 256 } : Abort), by decide +kernel,
      settled_of _ (by decide +kernel) (by decide +kernel)⟩⟩

theorem wit_CopyJobs :
(∃ (s : State) (j : Job) (x : Nat), x < 8 ∧ Obl.takenJob s x 1 .dispatched j ∧ copyRefusal s j = none) ∧
(∃ (s : State) (j : Job) (x : Nat), x < 8 ∧ Obl.takenJob s x 1 .dispatched j ∧
      (j.src % 8 ≠ 0 ∨ j.dst % 8 ≠ 0 ∨ j.len % 8 ≠ 0 ∨ j.len = 0)) ∧
(∃ (s : State) (j : Job) (x : Nat), x < 8 ∧ Obl.takenJob s x 1 .dispatched j ∧ j.src % 8 = 0 ∧ j.dst % 8 = 0 ∧
      j.len % 8 = 0 ∧ 8 ≤ j.len ∧ j.len ≤ 2 ^ 36 ∧
      ((j.srcSpace = 1 ∧ capacity s < j.src + j.len) ∨ (j.dstSpace = 1 ∧ capacity s < j.dst + j.len) ∨ (j.srcSpace = 2 ∧ 2 ^ 28 < j.src + j.len) ∨ (j.dstSpace = 2 ∧ 2 ^ 28 < j.dst + j.len))) ∧
(∃ (s : State) (j : Job) (x : Nat),
      (x < 8 ∧ Obl.takenJob s x 1 .running j ∧ j.srcSpace = 1 ∧ j.dstSpace = 1 ∧ retraining s = false ∧ copyHeld s j j.len = false) ∧
      Obl.settled s) ∧
(∃ (s : State) (j : Job) (x : Nat),
      (x < 8 ∧ Obl.takenJob s x 1 .running j ∧ j.srcSpace = 1 ∧ j.dstSpace = 0 ∧ retraining s = false) ∧ Obl.settled s) ∧
(∃ (s : State) (j : Job) (x : Nat), x < 8 ∧ Obl.takenJob s x 1 .running j ∧ retraining s = true ∧
      (j.srcSpace = 1 ∨ j.dstSpace = 1)) ∧
(∃ (s : State) (j k : Job) (x y w b : Nat),
      (x < 8 ∧ y < 8 ∧ x % 2 ≠ y % 2 ∧ Obl.takenJob s x 1 .running j ∧ jobAt s y 1 .running = some k ∧ j.srcSpace = 1 ∧ j.dstSpace = 2 ∧ j.dst = 8 * w ∧ j.len = 8 ∧ k.dstSpace = 2 ∧ k.dst / 8 ≤ w ∧ w < (k.dst + k.len) / 8 ∧ b = w / 2 ^ 18 ∧ b < 128 ∧ regF s (ro (pBnk b) 0x084) 0 1 ≠ x % 2 ∧ retraining s = false) ∧
      Obl.settled s) ∧
(∃ (s : State) (j k : Job) (x y w b : Nat), x < 8 ∧ y < 8 ∧ x % 2 ≠ y % 2 ∧ Obl.takenJob s x 1 .running j ∧
      jobAt s y 1 .running = some k ∧ j.srcSpace = 2 ∧ j.dstSpace = 0 ∧ j.src = 8 * w ∧ j.len = 8 ∧ k.srcSpace = 0 ∧
      k.dstSpace = 2 ∧ k.dst / 8 ≤ w ∧ w < (k.dst + k.len) / 8 ∧ b = w / 2 ^ 18 ∧ b < 128 ∧ bankOwner s b = 0x41 ∧
      (dieOf s (b / 32)).tt = none ∧ (∀ m ∈ s.saiga.jobs, m.exec = y → m.phase = .running → m = k) ∧
      (∀ m ∈ s.saiga.jobs, m.exec < 8 → m.exec % 2 ≠ x % 2 → m.exec ≠ y → m.phase ≠ .running) ∧
      (bankOf s b).badWords (w % 2 ^ 18) 1 = []) :=
  ⟨⟨(z |> cf (fun c => { c with trained := true }) |> dr (fun d => { d with capLog2 := 31, bytes := [(0, 7), (15, 255)] }) |> jb (mkJ .dispatched 7 1 0 0 [(0x18, 0), (0x20, 64), (0x28, 16), (0x30, 5)])),
      (mkJ .dispatched 7 1 0 0 [(0x18, 0), (0x20, 64), (0x28, 16), (0x30, 5)]), 7, by decide +kernel⟩,
⟨(z |> cf (fun c => { c with trained := true }) |> dr (fun d => { d with capLog2 := 31, bytes := [(0, 7), (15, 255)] }) |> jb (mkJ .dispatched 7 1 0 0 [(0x18, 4), (0x20, 64), (0x28, 16), (0x30, 5)])),
      (mkJ .dispatched 7 1 0 0 [(0x18, 4), (0x20, 64), (0x28, 16), (0x30, 5)]), 7, by decide +kernel⟩,
⟨(z |> cf (fun c => { c with trained := true }) |> dr (fun d => { d with capLog2 := 31, bytes := [(0, 7), (15, 255)] }) |> jb (mkJ .dispatched 0 1 0 0 [(0x18, (2 ^ 34 - 8)), (0x20, 64), (0x28, 16), (0x30, 5)])),
      (mkJ .dispatched 0 1 0 0 [(0x18, (2 ^ 34 - 8)), (0x20, 64), (0x28, 16), (0x30, 5)]), 0, by decide +kernel⟩,
⟨(z |> cf (fun c => { c with trained := true }) |> dr (fun d => { d with capLog2 := 31, bytes := [(0, 7), (15, 255)] }) |> jb (mkJ .running 7 1 0 0 [(0x18, 0), (0x20, 8), (0x28, 16), (0x30, 5)])),
      (mkJ .running 7 1 0 0 [(0x18, 0), (0x20, 8), (0x28, 16), (0x30, 5)]), 7, by decide +kernel, settledAll _ rfl⟩,
⟨(z |> cf (fun c => { c with trained := true }) |> dr (fun d => { d with capLog2 := 31, bytes := [(0, 7), (15, 255)] }) |> jb (mkJ .running 0 1 0 0 [(0x18, 0), (0x20, (2 ^ 40)), (0x28, 16), (0x30, 1)])),
      (mkJ .running 0 1 0 0 [(0x18, 0), (0x20, (2 ^ 40)), (0x28, 16), (0x30, 1)]), 0, by decide +kernel, settledAll _ rfl⟩,
⟨(z |> cf (fun c => { c with trained := true }) |> dr (fun d => { d with capLog2 := 31, bytes := [(0, 7), (15, 255)] }) |> ch 7 (fun c => { c with retraining := true }) |> jb (mkJ .running 0 1 0 0 [(0x18, 0), (0x20, (2 ^ 40)), (0x28, 16), (0x30, 1)])),
      (mkJ .running 0 1 0 0 [(0x18, 0), (0x20, (2 ^ 40)), (0x28, 16), (0x30, 1)]), 0, by decide +kernel⟩,
⟨(z |> cf (fun c => { c with trained := true }) |> dr (fun d => { d with capLog2 := 31, bytes := [(0, 7), (15, 255)] }) |> jb (mkJ .running 7 1 0 0 [(0x18, 8), (0x20, 268435448), (0x28, 8), (0x30, 9)]) |> sg (fun g => { g with jobs := { ((mkJ .running 0 1 0 0 [(0x18, 64), (0x20, 268435440), (0x28, 16), (0x30, 9)])) with q := 4, seq := 1 } :: g.jobs }) |> bk 127 (fun x => { x with words := [(262143, 5)] })),
      (mkJ .running 7 1 0 0 [(0x18, 8), (0x20, 268435448), (0x28, 8), (0x30, 9)]),
      ({ ((mkJ .running 0 1 0 0 [(0x18, 64), (0x20, 268435440), (0x28, 16), (0x30, 9)])) with q := 4, seq := 1 } : Job), 7,
      0, 33554431, 127, by decide +kernel, settledAll _ rfl⟩,
⟨(z |> cf (fun c => { c with trained := true }) |> dr (fun d => { d with capLog2 := 31, bytes := [(0, 7), (15, 255)] }) |> jb (mkJ .running 7 1 0 0 [(0x18, 268435448), (0x20, 64), (0x28, 8), (0x30, 2)]) |> sg (fun g => { g with jobs := { ((mkJ .running 0 1 0 0 [(0x18, 64), (0x20, 268435440), (0x28, 16), (0x30, 8)])) with q := 4, seq := 1 } :: g.jobs }) |> rg (ownerReg 127) 0x41 |> bk 127 (fun x => { x with words := [(262143, 5)] })),
      (mkJ .running 7 1 0 0 [(0x18, 268435448), (0x20, 64), (0x28, 8), (0x30, 2)]),
      ({ ((mkJ .running 0 1 0 0 [(0x18, 64), (0x20, 268435440), (0x28, 16), (0x30, 8)])) with q := 4, seq := 1 } : Job), 7,
      0, 33554431, 127, by decide +kernel⟩⟩

theorem wit_BankAndTileTests :
(∃ (s : State) (j : Job) (b : Nat), Obl.takenJob s 0x0D 1 .dispatched j ∧ b = j.par 0x31 1 ∧ b < 128 ∧ bankOwner s b = 0x44) ∧
(∃ (s : State) (j : Job), Obl.takenJob s 0x0D 1 .dispatched j ∧ j.par 0x31 1 < 128 ∧ bankOwner s (j.par 0x31 1) ≠ 0x44) ∧
(∃ (s : State) (j : Job), Obl.takenJob s 0x0D 1 .dispatched j ∧ 128 ≤ j.par 0x31 1) ∧
(∃ (s : State) (j : Job) (b : Nat), Obl.takenJob s 0x0D 1 .running j ∧ b = j.par 0x31 1 ∧ (bankOf s b).spares.length ≤ 4 ∧
      (bankOf s b).pend = []) ∧
(∃ (s : State) (j : Job) (b r : Nat), Obl.takenJob s 0x0D 1 .running j ∧ b = j.par 0x31 1 ∧ b < 128 ∧ r < 4096 ∧
      (bankOf s b).spares = [] ∧ (bankOf s b).pend = []) ∧
(∃ (s : State) (j : Job) (b r : Nat), Obl.takenJob s 0x0D 1 .running j ∧ b = j.par 0x31 1 ∧ (bankOf s b).spares.length ≤ 4 ∧
      (bankOf s b).pend = [(r, true)] ∧ (bankOf s b).badWords (64 * r) 64 = [] ∧ (dieOf s (b / 32)).save.length < 4) ∧
(∃ (s : State) (j : Job) (p : Nat), Obl.takenJob s 0x0D 2 .dispatched j ∧ p = 17 * j.par 0x30 1 + j.par 0x31 1 ∧
      j.par 0x30 1 < 4 ∧ j.par 0x31 1 < 17 ∧ tileBusy s p = false) ∧
(∃ (s : State) (j : Job), Obl.takenJob s 0x0D 2 .dispatched j ∧ j.par 0x30 1 < 4 ∧ j.par 0x31 1 < 17 ∧
      inRun s (17 * j.par 0x30 1 + j.par 0x31 1) = true) ∧
(∃ (s : State) (j : Job), Obl.takenJob s 0x0D 2 .dispatched j ∧ (4 ≤ j.par 0x30 1 ∨ 17 ≤ j.par 0x31 1)) ∧
(∃ (s : State) (j : Job) (p : Nat), Obl.takenJob s 0x0D 2 .running j ∧ p = 17 * j.par 0x30 1 + j.par 0x31 1 ∧
      (tileOf s p).testing = true) ∧
(∃ (s : State) (j : Job) (p : Nat) (parts : BitVec 8), Obl.takenJob s 0x0D 2 .running j ∧
      p = 17 * j.par 0x30 1 + j.par 0x31 1 ∧ parts ≠ 0 ∧ (tileOf s p).testing = true) ∧
(∃ (s : State) (j : Job) (p : Nat), Obl.takenJob s 0x0D 2 .running j ∧ p = 17 * j.par 0x30 1 + j.par 0x31 1 ∧
      (tileOf s p).testing = false) :=
  ⟨⟨(z |> rg (ownerReg 127) 0x44 |> jb (mkJ .dispatched 0x0D 1 0 0 [(0x31, 127)])), (mkJ .dispatched 0x0D 1 0 0 [(0x31, 127)]),
      127, by decide +kernel⟩,
⟨(z |> rg (ownerReg 0) 0x42 |> jb (mkJ .dispatched 0x0D 1 0 0 [(0x31, 0)])), (mkJ .dispatched 0x0D 1 0 0 [(0x31, 0)]),
      by decide +kernel⟩,
⟨(z |> jb (mkJ .dispatched 0x0D 1 0 0 [(0x31, 128)])), (mkJ .dispatched 0x0D 1 0 0 [(0x31, 128)]), by decide +kernel⟩,
⟨(z |> rg (ownerReg 127) 0x44 |> bk 127 (fun _ => { ((((Bank.reset.addSpare 1).addSpare 2).addSpare 3).addSpare 4095) with testing := true, words := [(5, 7)] }) |> jb (mkJ .running 0x0D 1 0 0 [(0x31, 127)])),
      (mkJ .running 0x0D 1 0 0 [(0x31, 127)]), 127, by decide +kernel⟩,
⟨(z |> rg (ownerReg 127) 0x44 |> bk 127 (fun x => { x with testing := true, words := [(5, 7)] }) |> jb (mkJ .running 0x0D 1 0 0 [(0x31, 127)])),
      (mkJ .running 0x0D 1 0 0 [(0x31, 127)]), 127, 4095, by decide +kernel⟩,
⟨(z |> rg (ownerReg 127) 0x44 |> bk 127 (fun x => { x with testing := true, words := [(5, 7), (64, 3)], pend := [(1, true)] }) |> jb (mkJ .running 0x0D 1 0 0 [(0x31, 127)])),
      (mkJ .running 0x0D 1 0 0 [(0x31, 127)]), 127, 1, by decide +kernel⟩,
⟨(z |> jb (mkJ .dispatched 0x0D 2 0 0 [(0x30, 3), (0x31, 16)])), (mkJ .dispatched 0x0D 2 0 0 [(0x30, 3), (0x31, 16)]), 67,
      by decide +kernel⟩,
⟨(z |> act 1 |> jb (mkJ .dispatched 0x0D 2 0 0 [(0x30, 0), (0x31, 0)])),
      (mkJ .dispatched 0x0D 2 0 0 [(0x30, 0), (0x31, 0)]), by decide +kernel⟩,
⟨(z |> jb (mkJ .dispatched 0x0D 2 0 0 [(0x30, 4), (0x31, 0)])), (mkJ .dispatched 0x0D 2 0 0 [(0x30, 4), (0x31, 0)]),
      by decide +kernel⟩,
⟨(z |> tl 67 (fun t => { t with testing := true }) |> jb (mkJ .running 0x0D 2 0 0 [(0x30, 3), (0x31, 16)])),
      (mkJ .running 0x0D 2 0 0 [(0x30, 3), (0x31, 16)]), 67, by decide +kernel⟩,
⟨(z |> tl 67 (fun t => { t with testing := true }) |> jb (mkJ .running 0x0D 2 0 0 [(0x30, 3), (0x31, 16)])),
      (mkJ .running 0x0D 2 0 0 [(0x30, 3), (0x31, 16)]), 67, (0x1D : Byte), by decide +kernel⟩,
⟨(z |> jb (mkJ .running 0x0D 2 0 0 [(0x30, 3), (0x31, 16)])), (mkJ .running 0x0D 2 0 0 [(0x30, 3), (0x31, 16)]), 67,
      by decide +kernel⟩⟩

theorem wit_ArmAndReadout :
(∃ (s : State) (j : Job), Obl.takenJob s 0x0C 1 .dispatched j ∧ armRefusal s = none ∧
      (runAdmission s false true false none).2 = 0) ∧
(∃ (s : State) (j : Job), Obl.takenJob s 0x0C 1 .dispatched j ∧ armRefusal s = none ∧
      (runAdmission s false true false none).2 ≠ 0) ∧
(∃ (s : State) (j : Job), Obl.takenJob s 0x0C 1 .dispatched j ∧ mkhArmed s = true) ∧
(∃ (s : State) (j : Job) (len off : Nat),
      (Obl.takenJob s 0x0C 2 .dispatched j ∧ retraining s = false ∧ len = j.par 0x20 8 ∧ off = j.par 0x28 8 ∧ len % 64 = 0 ∧ off % 64 = 0 ∧ (j.par 0x30 1).testBit 6 = false ∧ off + len ≤ acqLen s ∧ acqBase s + off + len ≤ capacity s) ∧
      Obl.settled s) ∧
(∃ (s : State) (j : Job) (len off : Nat), Obl.takenJob s 0x0C 2 .dispatched j ∧ len = j.par 0x20 8 ∧ off = j.par 0x28 8 ∧
      len % 64 = 0 ∧ off % 64 = 0 ∧ (j.par 0x30 1).testBit 6 = false ∧ acqLen s < off + len) ∧
(∃ (s : State) (j : Job) (c len : Nat), Obl.takenJob s 0x0C 2 .dispatched j ∧ len = j.par 0x20 8 ∧ c = j.par 0x30 1 % 64 ∧
      len % 64 = 0 ∧ j.par 0x28 8 % 64 = 0 ∧ (j.par 0x30 1).testBit 6 = true ∧ c < 33 ∧ len ≤ ringCount s c * 2097152 ∧
      (∀ i, i < ringCount s c → bankOwner s (ringFirst s c + i) = 0x42)) ∧
(∃ (s : State) (j : Job) (c i len : Nat), Obl.takenJob s 0x0C 2 .dispatched j ∧ len = j.par 0x20 8 ∧ c = j.par 0x30 1 % 64 ∧
      len % 64 = 0 ∧ j.par 0x28 8 % 64 = 0 ∧ (j.par 0x30 1).testBit 6 = true ∧ c < 33 ∧ len ≤ ringCount s c * 2097152 ∧
      i < ringCount s c ∧ bankOwner s (ringFirst s c + i) ≠ 0x42) ∧
(∃ (s : State) (j : Job) (len off : Nat), Obl.takenJob s 0x0C 2 .dispatched j ∧ retraining s = true ∧ len = j.par 0x20 8 ∧
      off = j.par 0x28 8 ∧ len % 64 = 0 ∧ off % 64 = 0 ∧ (j.par 0x30 1).testBit 6 = false ∧ off + len ≤ acqLen s ∧
      acqBase s + off + len ≤ capacity s) :=
  ⟨⟨(z |> cf (fun c => { c with trained := true }) |> dr (fun d => { d with capLog2 := 31, bytes := [(0, 7), (15, 255)] }) |> mk (fun m => { m with stage := 3 }) |> jb (mkJ .dispatched 0x0C 1 0 0 [])),
      (mkJ .dispatched 0x0C 1 0 0 []), by decide +kernel⟩,
⟨(z |> cf (fun c => { c with trained := true }) |> dr (fun d => { d with capLog2 := 31, bytes := [(0, 7), (15, 255)] }) |> rg (ddrCommon 0x080) 0x00191932 |> rg (chReg 32 0) 1 |> rg (chReg 32 0x08) 32 |> rg (chReg 32 0x0C) 32 |> rg (chReg 32 0x1C) 0x100 |> rg (Sys2Proof.Machine.ro pAcq 0x098) 16384 |> rg (ownerReg 0) 0x42 |> jb (mkJ .dispatched 0x0C 1 0 0 [])),
      (mkJ .dispatched 0x0C 1 0 0 []), by decide +kernel⟩,
⟨(z |> mk (fun m => { m with state := 3 }) |> jb (mkJ .dispatched 0x0C 1 0 0 [])), (mkJ .dispatched 0x0C 1 0 0 []),
      by decide +kernel⟩,
⟨(z |> cf (fun c => { c with trained := true }) |> dr (fun d => { d with capLog2 := 31, bytes := [(0, 7), (15, 255)] }) |> rg (Sys2Proof.Machine.ro pAcq 0x098) 128 |> jb (mkJ .dispatched 0x0C 2 0 0 [(0x18, 4096), (0x20, 64), (0x28, 64), (0x30, 0)])),
      (mkJ .dispatched 0x0C 2 0 0 [(0x18, 4096), (0x20, 64), (0x28, 64), (0x30, 0)]), 64, 64, by decide +kernel,
      settledAll _ rfl⟩,
⟨(z |> cf (fun c => { c with trained := true }) |> dr (fun d => { d with capLog2 := 31, bytes := [(0, 7), (15, 255)] }) |> rg (Sys2Proof.Machine.ro pAcq 0x098) 128 |> jb (mkJ .dispatched 0x0C 2 0 0 [(0x18, 4096), (0x20, 64), (0x28, 128), (0x30, 0)])),
      (mkJ .dispatched 0x0C 2 0 0 [(0x18, 4096), (0x20, 64), (0x28, 128), (0x30, 0)]), 64, 128, by decide +kernel⟩,
⟨(z |> rg (chReg 32 0x1C) 0x100 |> rg (ownerReg 0) 0x42 |> mc 32 (fun x => { x with count := 1, wp := 1, ring := [{ v := 5, time := 0, stamp := 0, sseq := 0, pidx := 0, missing := false, num := 0, at_ := 0, lost := 0 }] }) |> jb (mkJ .dispatched 0x0C 2 0 0 [(0x18, 4096), (0x20, 64), (0x28, 0), (0x30, 96)])),
      (mkJ .dispatched 0x0C 2 0 0 [(0x18, 4096), (0x20, 64), (0x28, 0), (0x30, 96)]), 32, 64, by decide +kernel⟩,
⟨(z |> rg (chReg 32 0x1C) 0x100 |> jb (mkJ .dispatched 0x0C 2 0 0 [(0x18, 4096), (0x20, 64), (0x28, 0), (0x30, 96)])),
      (mkJ .dispatched 0x0C 2 0 0 [(0x18, 4096), (0x20, 64), (0x28, 0), (0x30, 96)]), 32, 0, 64, by decide +kernel⟩,
⟨(z |> cf (fun c => { c with trained := true }) |> dr (fun d => { d with capLog2 := 31, bytes := [(0, 7), (15, 255)] }) |> rg (Sys2Proof.Machine.ro pAcq 0x098) 128 |> ch 7 (fun c => { c with retraining := true }) |> jb (mkJ .dispatched 0x0C 2 0 0 [(0x18, 4096), (0x20, 64), (0x28, 64), (0x30, 0)])),
      (mkJ .dispatched 0x0C 2 0 0 [(0x18, 4096), (0x20, 64), (0x28, 64), (0x30, 0)]), 64, 64, by decide +kernel⟩⟩

theorem wit_Snapshots :
(∃ (s : State) (j : Job), Obl.takenJob s 0x0B 1 .dispatched j ∧ j.par 0x30 1 = 1 ∧ s.trc.arrShadow = false ∧
      s.run.active = false ∧ snapBase s + 64 + snapArrayBytes s + 12416 ≤ capacity s) ∧
(∃ (s : State) (j : Job), Obl.takenJob s 0x0B 1 .dispatched j ∧ j.par 0x30 1 = 1 ∧ j.par 0x18 6 = nextC7 ∧
      s.trc.arrShadow = false ∧ s.run.active = true ∧ snapBase s + 64 + snapArrayBytes s + 12416 ≤ capacity s) ∧
(∃ (s : State) (j : Job) (k : Nat), Obl.takenJob s 0x0B 1 .dispatched j ∧ j.par 0x30 1 = 2 ∧ j.par 0x31 1 = k ∧ k < 8 ∧
      s.rim.shadow = none ∧ (rimClks s).getLsbD k = true ∧ s.tb.toNat ≤ j.par 0x20 8 ∧
      snapBase s + 64 + snapArrayBytes s + 12416 ≤ capacity s) ∧
(∃ (s : State) (x : SnapJob) (j : Job) (c : Nat),
      (s.trc.snap = some x ∧ x.gotArr = some c ∧ x.wantRim = false ∧ x.arrStatus = 0 ∧ x.rimStatus = 0 ∧ j.phase ≠ .finished ∧ findJob s j.q j.seq = some j ∧ j.q = x.q ∧ j.seq = x.seq ∧ j.aborted = false ∧ x.gotRim = false ∧ retraining s = false) ∧
      Obl.settled s) ∧
(∃ (s : State) (x : SnapJob) (j : Job) (r : RimShot),
      (s.trc.snap = some x ∧ x.wantArr = false ∧ x.gotArr = none ∧ x.gotRim = true ∧ s.rim.shadow = some r ∧ x.arrStatus = 0 ∧ x.rimStatus = 0 ∧ j.phase ≠ .finished ∧ findJob s j.q j.seq = some j ∧ j.q = x.q ∧ j.seq = x.seq ∧ j.aborted = false ∧ retraining s = false) ∧
      Obl.settled s) :=
  ⟨⟨(z |> cf (fun c => { c with trained := true }) |> dr (fun d => { d with capLog2 := 31, bytes := [(0, 7), (15, 255)] }) |> act 1 |> rn (fun r => { r with active := false }) |> stf 0 (fun x => { x with ds := [(2, true)] }) |> jb (mkJ .dispatched 0x0B 1 0 0 [(0x18, 0), (0x20, 0), (0x30, 1), (0x31, 0)])),
      (mkJ .dispatched 0x0B 1 0 0 [(0x18, 0), (0x20, 0), (0x30, 1), (0x31, 0)]), by decide +kernel⟩,
⟨(z |> cf (fun c => { c with trained := true }) |> dr (fun d => { d with capLog2 := 31, bytes := [(0, 7), (15, 255)] }) |> act 1 |> jb (mkJ .dispatched 0x0B 1 0 0 [(0x18, nextC7), (0x20, 0), (0x30, 1), (0x31, 0)])),
      (mkJ .dispatched 0x0B 1 0 0 [(0x18, nextC7), (0x20, 0), (0x30, 1), (0x31, 0)]), by decide +kernel⟩,
⟨(z |> cf (fun c => { c with trained := true }) |> dr (fun d => { d with capLog2 := 31, bytes := [(0, 7), (15, 255)] }) |> rm (fun r => { r with clkRun := 128 }) |> jb (mkJ .dispatched 0x0B 1 0 0 [(0x18, 0), (0x20, 5), (0x30, 2), (0x31, 7)])),
      (mkJ .dispatched 0x0B 1 0 0 [(0x18, 0), (0x20, 5), (0x30, 2), (0x31, 7)]), 7, by decide +kernel⟩,
⟨(z |> cf (fun c => { c with trained := true }) |> dr (fun d => { d with capLog2 := 31, bytes := [(0, 7), (15, 255)] }) |> jb (mkJ .running 0x0B 1 0 0 []) |> act 0 |> rn (fun r => { r with active := false }) |> tc (fun t => { t with snap := some { q := 3, seq := 9, cyc := none, wantArr := true, gotArr := some 5, wantRim := false, gotRim := false, arrStatus := 0, rimStatus := 0 }, arrShadow := true })),
      ({ q := 3, seq := 9, cyc := none, wantArr := true, gotArr := some 5, wantRim := false, gotRim := false, arrStatus := 0, rimStatus := 0 } : SnapJob),
      (mkJ .running 0x0B 1 0 0 []), 5, by decide +kernel, settledAll _ rfl⟩,
⟨(z |> cf (fun c => { c with trained := true }) |> dr (fun d => { d with capLog2 := 31, bytes := [(0, 7), (15, 255)] }) |> jb (mkJ .running 0x0B 1 0 0 []) |> act 0 |> rn (fun r => { r with active := false }) |> rm (fun r => { r with shadow := some { t := 7, flops := [(98303, true)], io := [(191, { IoReg.reset with oe := true })] } }) |> tc (fun t => { t with snap := some { q := 3, seq := 9, cyc := none, wantArr := false, gotArr := none, wantRim := true, gotRim := true, arrStatus := 0, rimStatus := 0 } })),
      ({ q := 3, seq := 9, cyc := none, wantArr := false, gotArr := none, wantRim := true, gotRim := true, arrStatus := 0, rimStatus := 0 } : SnapJob),
      (mkJ .running 0x0B 1 0 0 []),
      ({ t := 7, flops := [(98303, true)], io := [(191, { IoReg.reset with oe := true })] } : RimShot), by decide +kernel,
      settledAll _ rfl⟩⟩

theorem wit_LoadJobs :
(∃ (s : State) (j : Job) (head : List Byte) (k : Nat),
      (Obl.takenJob s 8 1 .dispatched j ∧ s.cfg.state = 6 ∧ k = j.par 0x31 1 ∧ loadRefusal s j = none ∧ j.fromDram = false ∧ retraining s = false) ∧
      Obl.settled s ∧ head.length = 256 ∧ 256 ≤ j.len ∧ conTotal (bytesOf head) ≤ slotSize s ∧
      headerCheck s (bytesOf head) 2 false = none) ∧
(∃ (s : State) (j : Job) (k st : Nat), Obl.takenJob s 8 1 .dispatched j ∧ s.cfg.state = 6 ∧ retraining s = false ∧
      k = j.par 0x31 1 ∧ loadRefusal s j = some st) ∧
(∃ (s : State) (j : Job) (err k : Nat), Obl.takenJob s 8 1 .dispatched j ∧ s.cfg.state = 6 ∧ k = j.par 0x31 1 ∧
      loadRefusal s j = none ∧ j.fromDram = false ∧ retraining s = false ∧ err ≠ 0) ∧
(∃ (s : State) (j : Job), jobAt s 8 1 .dispatched = some j ∧ (s.cfg.state ≠ 6 ∨ retraining s = true)) ∧
(∃ (s : State) (j : Job) (host : List Byte) (k : Nat) (head rest : List Byte) (n : Nat),
      (Obl.takenJob s 8 1 .running j ∧ k = j.par 0x31 1 ∧ j.fromDram = false ∧ retraining s = false) ∧ Obl.settled s ∧
      head = dramRead s (slotBase s k) 256 ∧ n = conTotal (bytesOf head) ∧ 256 ≤ n ∧ n ≤ j.len ∧
      rest = bytesAt host 0 (n - 256) ∧ loadVerdict s (head ++ rest) = none) ∧
(∃ (s : State) (j : Job) (host : List Byte) (k : Nat) (head rest : List Byte) (n st code : Nat) (loc : Word),
      (Obl.takenJob s 8 1 .running j ∧ k = j.par 0x31 1 ∧ j.fromDram = false ∧ retraining s = false) ∧ Obl.settled s ∧
      head = dramRead s (slotBase s k) 256 ∧ n = conTotal (bytesOf head) ∧ 256 ≤ n ∧ n ≤ j.len ∧
      rest = bytesAt host 0 (n - 256) ∧ loadVerdict s (head ++ rest) = some (st, code, loc)) :=
  ⟨⟨(z |> slots 0 |> cf (fun c => { c with state := 6 }) |> jb (mkJ .dispatched 8 1 0 0 [(0x28, 640), (0x31, 0)])),
      (mkJ .dispatched 8 1 0 0 [(0x28, 640), (0x31, 0)]), conHead, 0, by decide +kernel, settledAll _ rfl,
      by decide +kernel⟩,
⟨(z |> slots 0 |> cf (fun c => { c with state := 6 }) |> jb (mkJ .dispatched 8 1 0 0 [(0x28, 640), (0x31, 32)])),
      (mkJ .dispatched 8 1 0 0 [(0x28, 640), (0x31, 32)]), 32, 0x09, by decide +kernel⟩,
⟨(z |> slots 0 |> cf (fun c => { c with state := 6 }) |> jb (mkJ .dispatched 8 1 0 0 [(0x28, 640), (0x31, 0)])),
      (mkJ .dispatched 8 1 0 0 [(0x28, 640), (0x31, 0)]), 1, 0, by decide +kernel⟩,
⟨(z |> slots 0 |> jb (mkJ .dispatched 8 1 0 0 [(0x28, 640), (0x31, 0)])),
      (mkJ .dispatched 8 1 0 0 [(0x28, 640), (0x31, 0)]), by decide +kernel⟩,
⟨(z |> slots 1 |> store conHead |> jb (mkJ .running 8 1 0 0 [(0x28, 640), (0x31, 0)])),
      (mkJ .running 8 1 0 0 [(0x28, 640), (0x31, 0)]), conRest, 0, conHead, conRest, 640, by decide +kernel,
      settledAll _ rfl, by decide +kernel⟩,
⟨(z |> slots 1 |> store conHead |> jb (mkJ .running 8 1 0 0 [(0x28, 640), (0x31, 0)])),
      (mkJ .running 8 1 0 0 [(0x28, 640), (0x31, 0)]), (conRest.set 100 1), 0, conHead, (conRest.set 100 1), 640, 0x0E,
      0x47, noLoc, by decide +kernel, settledAll _ rfl, by decide +kernel⟩⟩

theorem wit_SwapJobs :
(∃ (s : State) (j : Job) (k : Nat), Obl.takenJob s 9 1 .dispatched j ∧ s.cfg.state = 6 ∧ k = j.par 0x31 1 ∧
      swapRefusal s k = none) ∧
(∃ (s : State) (j : Job) (k : Nat), Obl.takenJob s 9 1 .dispatched j ∧ s.cfg.state = 6 ∧ k = j.par 0x31 1 ∧
      s.run.active = true) ∧
(∃ (s : State) (j : Job) (k st code : Nat) (loc : Word), Obl.takenJob s 9 1 .dispatched j ∧ s.cfg.state = 6 ∧
      k = j.par 0x31 1 ∧ swapRefusal s k = some (st, code, loc)) ∧
(∃ (s : State) (j : Job), jobAt s 9 1 .dispatched = some j ∧ s.cfg.state ≠ 6) ∧
(∃ (s : State) (j : Job) (k : Nat), (Obl.takenJob s 9 1 .running j ∧ k = j.par 0x31 1 ∧ retraining s = false) ∧
      Obl.settled s ∧ keyLost s k = true) ∧
(∃ (s : State) (j : Job) (k off n : Nat), (Obl.takenJob s 9 1 .running j ∧ k = j.par 0x31 1 ∧ retraining s = false) ∧
      Obl.settled s ∧ conKeySlot (bytesOf (dramRead s (slotBase s k) 256)) = 0xFF ∧ slotSub s k 6 = .at off n ∧
      s.rim.state = .running) ∧
(∃ (s : State) (j : Job) (k : Nat) (bs : List Byte) (off n code : Nat),
      (Obl.takenJob s 9 1 .running j ∧ k = j.par 0x31 1 ∧ retraining s = false) ∧ Obl.settled s ∧
      bs = dramRead s (slotBase s k) (conTotal (bytesOf (dramRead s (slotBase s k) 256))) ∧
      conKeySlot (bytesOf (dramRead s (slotBase s k) 256)) = 0xFF ∧ conPlain s bs = bs ∧ trailerCheck s bs bs = some code ∧
      slotSub s k 5 = .at off n ∧ slotSub s k 6 = .absent) ∧
(∃ (s : State) (j : Job) (k : Nat) (bs : List Byte) (off n : Nat),
      (Obl.takenJob s 9 1 .running j ∧ k = j.par 0x31 1 ∧ retraining s = false) ∧ Obl.settled s ∧
      bs = dramRead s (slotBase s k) (conTotal (bytesOf (dramRead s (slotBase s k) 256))) ∧
      conKeySlot (bytesOf (dramRead s (slotBase s k) 256)) = 0xFF ∧ conPlain s bs = bs ∧ trailerCheck s bs bs = none ∧
      slotSub s k 5 = .at off n ∧ slotSub s k 6 = .absent ∧ (∀ l, l < 64 → fenced s (physOf s l) = false) ∧
      (∀ l, l < 64 → ∀ m, m < 64 → physOf s l = physOf s m → l = m)) :=
  ⟨⟨(z |> slots 2 |> store (conHead ++ conRest) |> cf (fun c => { c with state := 6 }) |> jb (mkJ .dispatched 9 1 0 0 [(0x31, 0)])),
      (mkJ .dispatched 9 1 0 0 [(0x31, 0)]), 0, by decide +kernel⟩,
⟨(z |> act 1 |> cf (fun c => { c with state := 6 }) |> jb (mkJ .dispatched 9 1 0 0 [(0x31, 0)])),
      (mkJ .dispatched 9 1 0 0 [(0x31, 0)]), 0, by decide +kernel⟩,
⟨(z |> cf (fun c => { c with state := 6 }) |> jb (mkJ .dispatched 9 1 0 0 [(0x31, 0)])),
      (mkJ .dispatched 9 1 0 0 [(0x31, 0)]), 0, 0x09, 0, 0, by decide +kernel⟩,
⟨(z |> slots 2 |> store (conHead ++ conRest) |> jb (mkJ .dispatched 9 1 0 0 [(0x31, 0)])),
      (mkJ .dispatched 9 1 0 0 [(0x31, 0)]), by decide +kernel⟩,
⟨(z |> slots 2 |> store (conHead ++ conRest) |> dr (fun d => { d with bytes := Tbl.set 0 d.bytes 13 1 }) |> cf (fun c => { c with swapping := some 0, resValid := true, slots := [(0, { st := 2, bbram := true })] }) |> jb (mkJ .running 9 1 0 0 [(0x31, 0)])),
      (mkJ .running 9 1 0 0 [(0x31, 0)]), 0, by decide +kernel, settledAll _ rfl, by decide +kernel⟩,
⟨(z |> slots 2 |> store (container 2 [(5, img0), (6, [1])]) |> rm (fun r => { r with state := .running }) |> jb (mkJ .running 9 1 0 0 [(0x31, 0)])),
      (mkJ .running 9 1 0 0 [(0x31, 0)]), 0, 640, 1, by decide +kernel, settledAll _ rfl, by decide +kernel⟩,
⟨(z |> slots 2 |> store ((conHead ++ conRest).set 580 1) |> cf (fun c => { c with swapping := some 0 }) |> jb (mkJ .running 9 1 0 0 [(0x31, 0)])),
      (mkJ .running 9 1 0 0 [(0x31, 0)]), 0, ((conHead ++ conRest).set 580 1), 320, 256, 0x47, by decide +kernel,
      settledAll _ rfl, by decide +kernel⟩,
⟨(z |> slots 2 |> store (conHead ++ conRest) |> cf (fun c => { c with swapping := some 0 }) |> jb (mkJ .running 9 1 0 0 [(0x31, 0)])),
      (mkJ .running 9 1 0 0 [(0x31, 0)]), 0, (conHead ++ conRest), 320, 256, by decide +kernel, settledAll _ rfl,
      by decide +kernel⟩⟩

theorem wit_RunControlJobs :
(∃ (s : State) (j : Job) (peer : Option PeerVerdict) (c : Nat), Obl.mayAsk s j ∧ noLink s = false ∧ startWaits s = false ∧
      (imageMismatch s = false) ∧ (peerMismatch s peer = false) ∧ (startAdmission s peer).2 = 0 ∧
      ctxFlags s j.ctx &&& BitVec.ofNat 64 (j.par 0x20 8) = 0 ∧ (c = (if s.run.swapped = true then 0 else s.run.first))) ∧
(∃ (s : State) (j : Job), Obl.mayAsk s j ∧ noLink s = true) ∧
(∃ (s : State) (j : Job), Obl.mayAsk s j ∧ noLink s = false ∧ startWaits s = true) ∧
(∃ (s : State) (p : Nat), p ∈ runTiles s ∧ (tileOf s p).testing = true) ∧
(∃ (s : State) (j : Job), jobAt s 0x0A 1 .dispatched = some j ∧ s.run.active = false ∧ swapWorks s = true) ∧
(∃ (s : State) (j : Job) (peer : Option PeerVerdict), Obl.mayAsk s j ∧ noLink s = false ∧ startWaits s = false ∧
      (imageMismatch s = true ∨ ∃ d ∈ peers s, peer = some (.route d))) ∧
(∃ (s : State) (j : Job) (peer : Option PeerVerdict), Obl.mayAsk s j ∧ noLink s = false ∧ startWaits s = false ∧
      (imageMismatch s = false) ∧ (peerMismatch s peer = false) ∧ (startAdmission s peer).2 ≠ 0) ∧
(∃ (s : State) (j : Job), Obl.mayStart s j ∧ s.run.swapped = false) ∧
(∃ (s : State) (j : Job), Obl.mayStart s j ∧ s.run.swapped = true ∧ s.run.record = none ∧ s.img.regions = [] ∧
      (∃ q ∈ enabledIn s, inqOf s q = [])) ∧
(∃ (s : State) (j : Job), Obl.takenJob s 0x0A 1 .dispatched j ∧ s.run.active = true) ∧
(∃ (s : State) (j : Job), Obl.takenJob s 0x0A 1 .dispatched j ∧ s.run.active = false ∧ swapWorks s = false ∧
      (s.cfg.resValid = false ∨ s.cfg.state ≠ 6)) ∧
(∃ (s : State) (j : Job) (g p : Nat), Obl.takenJob s 0x0A 2 .dispatched j ∧ s.run.active = true ∧ runMode s = 1 ∧
      p ∈ runTiles s ∧ g = min (s.run.grant + j.par 0x18 6) (cycleLimit - 1) ∧ (tileOf s p).cycle < g) ∧
(∃ (s : State) (j : Job), Obl.takenJob s 0x0A 3 .dispatched j ∧ s.run.active = true ∧ s.run.faultStop = false ∧
      s.run.stopAt = none ∧ runMode s ≠ 2) ∧
(∃ (s : State) (j : Job), Obl.takenJob s 0x0A 3 .dispatched j ∧ s.run.active = false) :=
  ⟨⟨(z |> act 2 |> rn (fun r => { r with active := false, first := 7 }) |> cf (fun c => { c with resValid := true, state := 6 }) |> jb (mkJ .dispatched 0x0A 1 0 255 [(0x18, 3), (0x20, 5)])),
      (mkJ .dispatched 0x0A 1 0 255 [(0x18, 3), (0x20, 5)]), (none : Option PeerVerdict), 7, by decide +kernel⟩,
⟨(z |> act 2 |> rn (fun r => { r with active := false, first := 7 }) |> cf (fun c => { c with resValid := true, state := 6 }) |> im (fun x => { x with devMask := 0x8001 }) |> jb (mkJ .dispatched 0x0A 1 0 255 [(0x18, 0), (0x20, 5)])),
      (mkJ .dispatched 0x0A 1 0 255 [(0x18, 0), (0x20, 5)]), by decide +kernel⟩,
⟨(z |> act 2 |> rn (fun r => { r with active := false, first := 7 }) |> cf (fun c => { c with resValid := true, state := 6 }) |> tl 1 (fun t => { t with testing := true }) |> jb (mkJ .dispatched 0x0A 1 0 255 [(0x18, 0), (0x20, 5)])),
      (mkJ .dispatched 0x0A 1 0 255 [(0x18, 0), (0x20, 5)]), by decide +kernel⟩,
⟨(z |> act 2 |> tl 1 (fun t => { t with testing := true })), 1, by decide +kernel⟩,
⟨(z |> act 2 |> rn (fun r => { r with active := false, first := 7 }) |> cf (fun c => { c with resValid := true, state := 6 }) |> jb (mkJ .dispatched 0x0A 1 0 255 [(0x18, 0), (0x20, 5)]) |> sg (fun g => { g with jobs := g.jobs ++ [{ ((mkJ .running 9 1 0 0 [])) with q := 4, seq := 1 }] })),
      (mkJ .dispatched 0x0A 1 0 255 [(0x18, 0), (0x20, 5)]), by decide +kernel⟩,
⟨(z |> act 2 |> rn (fun r => { r with active := false, first := 7 }) |> cf (fun c => { c with resValid := true, state := 6 }) |> im (fun x => { x with devMask := 0x8001 }) |> rg (Sys2Proof.Machine.ro pGlb 0x37C) 1 |> pt 0 (fun p => { p with state := 8, runInfo := [0, 1] }) |> jb (mkJ .dispatched 0x0A 1 0 255 [(0x18, 0), (0x20, 5)])),
      (mkJ .dispatched 0x0A 1 0 255 [(0x18, 0), (0x20, 5)]), (some (PeerVerdict.route 15)), by decide +kernel⟩,
⟨(z |> act 2 |> rn (fun r => { r with active := false, first := 7 }) |> cf (fun c => { c with resValid := true, state := 6 }) |> rg (Sys2Proof.Machine.ro pGlb 0x100) 2 |> jb (mkJ .dispatched 0x0A 1 0 255 [(0x18, 0), (0x20, 5)])),
      (mkJ .dispatched 0x0A 1 0 255 [(0x18, 0), (0x20, 5)]), (none : Option PeerVerdict), by decide +kernel⟩,
⟨(z |> act 2 |> rn (fun r => { r with active := false, first := 7 }) |> cf (fun c => { c with resValid := true, state := 6 }) |> jb (mkJ .dispatched 0x0A 1 0 255 [(0x18, 3), (0x20, 5)])),
      (mkJ .dispatched 0x0A 1 0 255 [(0x18, 3), (0x20, 5)]), by decide +kernel⟩,
⟨(z |> act 2 |> rn (fun r => { r with active := false, first := 7 }) |> cf (fun c => { c with resValid := true, state := 6 }) |> rn (fun r => { r with swapped := true, first := 0 }) |> im (fun i => { i with inQ := 1 }) |> jb (mkJ .dispatched 0x0A 1 0 255 [(0x18, 0), (0x20, 5)])),
      (mkJ .dispatched 0x0A 1 0 255 [(0x18, 0), (0x20, 5)]), by decide +kernel⟩,
⟨(z |> act 1 |> jb (mkJ .dispatched 0x0A 1 0 255 [(0x18, 0), (0x20, 5)])),
      (mkJ .dispatched 0x0A 1 0 255 [(0x18, 0), (0x20, 5)]), by decide +kernel⟩,
⟨(z |> jb (mkJ .dispatched 0x0A 1 0 255 [(0x18, 0), (0x20, 5)])), (mkJ .dispatched 0x0A 1 0 255 [(0x18, 0), (0x20, 5)]),
      by decide +kernel⟩,
⟨(z |> act 1 |> rg (Sys2Proof.Machine.ro pGlb 0x100) 1 |> jb (mkJ .dispatched 0x0A 2 0 255 [(0x18, 5), (0x20, 5)])),
      (mkJ .dispatched 0x0A 2 0 255 [(0x18, 5), (0x20, 5)]), 5, 0, by decide +kernel⟩,
⟨(z |> act 1 |> jb (mkJ .dispatched 0x0A 3 0 255 [(0x18, 0), (0x20, 5)])),
      (mkJ .dispatched 0x0A 3 0 255 [(0x18, 0), (0x20, 5)]), by decide +kernel⟩,
⟨(z |> jb (mkJ .dispatched 0x0A 3 0 255 [(0x18, 0), (0x20, 5)])), (mkJ .dispatched 0x0A 3 0 255 [(0x18, 0), (0x20, 5)]),
      by decide +kernel⟩⟩

theorem wit_FifoAndLogReads :
(∃ (s : State) (f : Nat) (w : Word) (ws : List Word) (rest : List (List Word)), f < 16 ∧ endpointUp s = true ∧
      (fifoOf s f).vis = (w :: ws) :: rest) ∧
(∃ (s : State) (f : Nat), f < 16 ∧ endpointUp s = true ∧ (fifoOf s f).vis = []) ∧
(∃ (s : State) (f : Nat), (fifoOf s f).claimed = true) ∧
(∃ (s : State) (f : Nat), (fifoOf s f).claimed = false) ∧
(∃ (s : State) (e : Ev) (rest : List Ev), endpointUp s = true ∧ s.evl.log = e :: rest) ∧
(∃ (s : State), endpointUp s = true ∧ s.evl.log = []) :=
  ⟨⟨(z |> ff 15 (fun _ => ({ vis := [[0x100000002, 7], [8]], opn := [], claimed := false, last := 0 } : MsgFifo)) |> up), 15,
      (0x100000002 : Word), ([7] : List Word), ([[8]] : List (List Word)), by decide +kernel⟩,
⟨(z |> ff 15 (fun _ => ({ vis := [], opn := [], claimed := false, last := 77 } : MsgFifo)) |> up), 15, by decide +kernel⟩,
⟨(z |> ff 15 (fun _ => ({ vis := [[2, 7], [8]], opn := [], claimed := true, last := 0 } : MsgFifo)) |> up), 15,
      by decide +kernel⟩,
⟨(z |> ff 15 (fun _ => ({ vis := [[2, 7], [8]], opn := [], claimed := false, last := 0 } : MsgFifo)) |> up), 15,
      by decide +kernel⟩,
⟨(z |> (fun s => { s with evl := { log := [{ time := 7, code := 5, page := 3, detail := 9 }], last := none } }) |> up),
      ({ time := 7, code := 5, page := 3, detail := 9 } : Ev), ([] : List Ev), by decide +kernel⟩,
⟨(z |> up), by decide +kernel⟩⟩

theorem wit_RegisterAccess :
(∃ (s : State) (a : Nat), endpointUp s = true ∧ Obl.readable a) ∧
(∃ (s : State) (a : Nat), endpointUp s = true ∧ a % 8 = 0 ∧ Obl.readable a ∧ Obl.readable (a + 4) ∧ rcMask a = 0) ∧
(∃ (s : State) (q : Nat), endpointUp s = true ∧ q < 8) ∧
(∃ (s : State) (off size : Nat), endpointUp s = true ∧ off < bar4 ∧ (¬ (size = 4 ∨ size = 8) ∨ off % size ≠ 0)) ∧
(∃ (s : State) (a : Nat), endpointUp s = true ∧ a % 4 = 0 ∧ a < bar4 ∧ Obl.plain s a = true) ∧
(∃ (s : State) (a : Nat), endpointUp s = true ∧ a % 8 = 0 ∧ a < bar4 ∧ pageKind (a / 4096) = .acq ∧ 0x80 ≤ a % 4096 ∧
      Obl.plain s a = true ∧ Obl.plain s (a + 4) = true) ∧
(∃ (s : State) (pg : Nat), endpointUp s = true ∧ pageKind pg ≠ .none) ∧
(∃ (s : State) (pg : Nat), endpointUp s = true ∧ hasInd pg = true) ∧
(∃ (s : State) (q : Nat), endpointUp s = true ∧ q < 8) ∧
(∃ (s : State), endpointUp s = true) ∧
(∃ (s : State), endpointUp s = true ∧ s.run.active = true) ∧
(∃ (s : State) (off size : Nat), endpointUp s = true ∧ off < bar4 ∧ (¬ (size = 4 ∨ size = 8) ∨ off % size ≠ 0)) ∧
(∃ (a : Nat), a % 4 = 0 ∧ a < bar4 ∧ pageKind (a / 4096) = .none) ∧
(∃ (s : State), endpointUp s = false) :=
  ⟨⟨(z |> rg (Sys2Proof.Machine.ro (pBnk 127) 0x08C) 255 |> up), (Sys2Proof.Machine.ro (pBnk 127) 0x08C), by decide +kernel⟩,
⟨(z |> rg (Sys2Proof.Machine.ro pGlb 0x128) 255 |> up), (Sys2Proof.Machine.ro pGlb 0x100), by decide +kernel⟩,
⟨(z |> up), 7, by decide +kernel⟩,
⟨(z |> rg (Sys2Proof.Machine.ro pGlb 0x014) 3 |> up), 6, 4, by decide +kernel⟩,
⟨(z |> up), (Sys2Proof.Machine.ro pAcq 0x0C0), by decide +kernel⟩,
⟨(z |> up), (Sys2Proof.Machine.ro pAcq 0x0C0), by decide +kernel⟩,
⟨(z |> up), pGlb, by decide +kernel⟩,
⟨(z |> rg (Sys2Proof.Machine.ro pJob 0x040) 4088 |> up), pJob, by decide +kernel⟩,
⟨(z |> rg (sqReg 7 0) 1 |> up), 7, by decide +kernel⟩,
⟨(z |> up), by decide +kernel⟩,
⟨(z |> act 1 |> up), by decide +kernel⟩,
⟨(z |> up), 6, 8, by decide +kernel⟩,
⟨0xFFF000, by decide +kernel⟩,
⟨z, by decide +kernel⟩⟩

theorem wit_LiveRegisters :
(∃ (s : State), endpointUp s = true) ∧
(∃ (s : State), endpointUp s = true) ∧
(∃ (s : State), endpointUp s = true) ∧
(∃ (s : State), endpointUp s = true) ∧
(∃ (s : State) (i : Nat), i < 32 ∧ endpointUp s = true) ∧
(∃ (s : State), endpointUp s = true) ∧
(∃ (s : State) (f : Nat), f < 16 ∧ endpointUp s = true) ∧
(∃ (s : State), endpointUp s = true) ∧
(∃ (s : State) (q : Nat), q < 8 ∧ endpointUp s = true) ∧
(∃ (s : State), endpointUp s = true) ∧
(∃ (s : State) (p : Nat), p < 68 ∧ endpointUp s = true) ∧
(∃ (s : State), endpointUp s = true) ∧
(∃ (s : State), endpointUp s = true) :=
  ⟨⟨(z |> up), by decide +kernel⟩,
⟨(z |> up), by decide +kernel⟩,
⟨(z |> up), by decide +kernel⟩,
⟨(z |> up), by decide +kernel⟩,
⟨(z |> cf (fun c => { c with slots := [(31, { st := 2, bbram := false })] }) |> up), 31, by decide +kernel⟩,
⟨(z |> up), by decide +kernel⟩,
⟨(z |> ff 15 (fun _ => ({ vis := [[2, 7], [8]], opn := [], claimed := false, last := 0 } : MsgFifo)) |> up), 15,
      by decide +kernel⟩,
⟨(z |> up), by decide +kernel⟩,
⟨(z |> qu 7 (fun x => { x with used := true, cqHead := 65535 }) |> up), 7, by decide +kernel⟩,
⟨(z |> up), by decide +kernel⟩,
⟨(z |> up), 67, by decide +kernel⟩,
⟨(z |> up), by decide +kernel⟩,
⟨(z |> up), by decide +kernel⟩⟩

theorem wit_IndirectPairs :
(∃ (pg : Nat), hasInd pg = true) ∧
(∃ (pg : Nat) (ups : List BankUpset), hasInd pg = false ∧ ups = []) ∧
(∃ (s : State) (pg : Nat), endpointUp s = true ∧ hasInd pg = true ∧ pageKind pg ≠ .bnk) ∧
(∃ (s : State) (b a : Nat), endpointUp s = true ∧ b < 128 ∧ Obl.at_ s (pBnk b) a ∧ a < 2 ^ 21 ∧
      (dieOf s (b / 32)).tt = none) ∧
(∃ (s : State) (c j : Nat) (v : Reg), c < 256 ∧ j < 2 ∧ (c = s.run.ctx → Obl.halfFlags s c j v &&& s.run.stopMask = 0) ∧
      Obl.at_ s pJob (16 * c + 4 * j)) ∧
(∃ (s : State) (p sp i : Nat), p < 68 ∧ Obl.open_ s p ∧ (sp = 1 ∧ i < 4096 ∨ sp = 2 ∧ i < 65536 ∨ sp = 3 ∧ i < 1024) ∧
      Obl.at_ s (pTil p) (2 ^ 28 * sp + 4 * i)) ∧
(∃ (s : State) (p i j : Nat), p < 68 ∧ Obl.open_ s p ∧ i < 2 ^ 22 ∧ j < 2 ∧ Obl.at_ s (pTil p) (16 * i + 4 * j)) ∧
(∃ (s : State) (p i : Nat) (v : Reg) (w : BitVec 72), p < 68 ∧ Obl.open_ s p ∧ i < 2 ^ 22 ∧
      Obl.at_ s (pTil p) (16 * i + 8) ∧
      w = BitVec.ofNat 72 ((partsOf s (pTil p) i).1 + 2 ^ 32 * (partsOf s (pTil p) i).2 + 2 ^ 64 * (v.toNat % 256))) ∧
(∃ (s : State) (p n i : Nat), p < 68 ∧ Obl.open_ s p ∧ n < 1024 ∧ i < 32 ∧ Obl.at_ s (pTil p) (2 ^ 30 + 128 * n + 4 * i)) ∧
(∃ (s : State) (p sp i : Nat), p < 68 ∧ ((tileOf s p).retention = true ∨ inRun s p = true) ∧ Obl.holds sp i ∧
      Obl.at_ s (pTil p) (2 ^ 28 * sp + 4 * i)) ∧
(∃ (s : State) (p sp i : Nat), p < 68 ∧ sp < 16 ∧ i < 2 ^ 26 ∧ ¬ Obl.holds sp i ∧ Obl.at_ s (pTil p) (2 ^ 28 * sp + 4 * i)) ∧
(∃ (s : State) (b i : Nat), b < 128 ∧ i < 2 ^ 18 ∧ (bankOwner s b = 0x40 ∨ bankOwner s b = 0x41) ∧
      Obl.at_ s (pBnk b) (8 * i)) ∧
(∃ (s : State) (b i : Nat), b < 128 ∧ i < 2 ^ 18 ∧ (bankOwner s b = 0x40 ∨ bankOwner s b = 0x41) ∧
      Obl.at_ s (pBnk b) (8 * i + 4) ∧ (dieOf s (b / 32)).tt = none ∧ Tbl.get false (bankOf s b).pend (i / 64) = false) ∧
(∃ (s : State) (b i : Nat), b < 128 ∧ i < 2 ^ 19 ∧ bankOwner s b ≠ 0x40 ∧ bankOwner s b ≠ 0x41 ∧ Obl.at_ s (pBnk b) (4 * i)) ∧
(∃ (s : State) (n r k : Nat), n < 24 ∧ r < 4 ∧ k < 2 ∧ (laneEn s n).testBit r = false ∧
      Obl.at_ s (pLnk n) (1024 * r + 4 * k)) ∧
(∃ (s : State) (pin : Nat), pin < 192 ∧ Obl.at_ s pRim (16 * pin)) ∧
(∃ (s : State) (pin : Nat), pin < 192 ∧ Obl.at_ s pRim (16 * pin + 4)) :=
  ⟨⟨(pTil 3), by decide +kernel⟩,
⟨pGlb, ([] : List BankUpset), by decide +kernel⟩,
⟨(z |> rg (Sys2Proof.Machine.ro pJob 0x040) 4084 |> sg (fun g => { g with flags := [(255, 0x500000006)] }) |> up), pJob,
      by decide +kernel⟩,
⟨(z |> rg (Sys2Proof.Machine.ro (pBnk 127) 0x040) (2 ^ 21 - 8) |> rg (ownerReg 127) 0x41 |> bk 127 (fun b => { b with words := [(262143, 5)] }) |> up),
      127, (2 ^ 21 - 8), by decide +kernel⟩,
⟨(z |> rg (Sys2Proof.Machine.ro pJob 0x048) 1 |> rg (Sys2Proof.Machine.ro pJob 0x040) 4084 |> sg (fun g => { g with flags := [(255, 0x500000006)] }) |> up),
      255, 1, (9 : Reg), by decide +kernel⟩,
⟨(z |> tl 67 (fun t => { t with retention := false }) |> rg (Sys2Proof.Machine.ro (pTil 67) 0x040) (2 ^ 28 * 3 + 4 * 1023) |> up),
      67, 3, 1023, by decide +kernel⟩,
⟨(z |> tl 67 (fun t => { t with retention := false }) |> rg (Sys2Proof.Machine.ro (pTil 67) 0x040) (16 * (2 ^ 22 - 1) + 4) |> up),
      67, (2 ^ 22 - 1), 1, by decide +kernel⟩,
⟨(z |> tl 67 (fun t => { t with retention := false }) |> rg (Sys2Proof.Machine.ro (pTil 67) 0x040) (16 * (2 ^ 22 - 1) + 8) |> (fun s => { s with hold := [(pTil 67, (1, 2 ^ 22 - 1, 3, 5))] }) |> up),
      67, (2 ^ 22 - 1), (0x1FF : Reg), (BitVec.ofNat 72 (3 + 2 ^ 32 * 5 + 2 ^ 64 * 255)), by decide +kernel⟩,
⟨(z |> tl 67 (fun t => { t with retention := false }) |> rg (Sys2Proof.Machine.ro (pTil 67) 0x040) (2 ^ 30 + 128 * 1023 + 4 * 19) |> up),
      67, 1023, 19, by decide +kernel⟩,
⟨(z |> rg (Sys2Proof.Machine.ro (pTil 67) 0x040) (2 ^ 28 * 3 + 4) |> up), 67, 3, 1, by decide +kernel⟩,
⟨(z |> rg (Sys2Proof.Machine.ro (pTil 67) 0x040) (2 ^ 28 * 3 + 4 * 1024) |> up), 67, 3, 1024, by decide +kernel⟩,
⟨(z |> rg (ownerReg 127) 0x40 |> rg (Sys2Proof.Machine.ro (pBnk 127) 0x040) (8 * (2 ^ 18 - 1)) |> up), 127, (2 ^ 18 - 1),
      by decide +kernel⟩,
⟨(z |> rg (ownerReg 127) 0x40 |> rg (Sys2Proof.Machine.ro (pBnk 127) 0x040) (8 * (2 ^ 18 - 1) + 4) |> (fun s => { s with hold := [(pBnk 127, (1, 2 ^ 18 - 1, 3, 0))] }) |> up),
      127, (2 ^ 18 - 1), by decide +kernel⟩,
⟨(z |> rg (ownerReg 127) 0x42 |> rg (Sys2Proof.Machine.ro (pBnk 127) 0x040) (4 * (2 ^ 19 - 1)) |> up), 127, (2 ^ 19 - 1),
      by decide +kernel⟩,
⟨(z |> rg (lnkReg 23 0x080) 7 |> rg (Sys2Proof.Machine.ro (pLnk 23) 0x040) (1024 * 3 + 4) |> up), 23, 3, 1,
      by decide +kernel⟩,
⟨(z |> rg (Sys2Proof.Machine.ro pRim 0x040) (16 * 191) |> up), 191, by decide +kernel⟩,
⟨(z |> rg (Sys2Proof.Machine.ro pRim 0x040) (16 * 191 + 4) |> up), 191, by decide +kernel⟩⟩

theorem wit_IndirectWords :
(∃ (s : State) (p i j : Nat), p < 68 ∧ Obl.visible s p ∧ i < 2 ^ 22 ∧ j < 4 ∧ endpointUp s = true ∧
      Obl.at_ s (pTil p) (16 * i + 4 * j)) ∧
(∃ (s : State) (p i : Nat), p < 68 ∧ Obl.visible s p ∧ i < 4096 ∧ endpointUp s = true ∧ Obl.at_ s (pTil p) (2 ^ 28 + 4 * i)) ∧
(∃ (s : State) (p i : Nat), p < 68 ∧ Obl.visible s p ∧ i < 65536 ∧ endpointUp s = true ∧
      Obl.at_ s (pTil p) (2 ^ 29 + 4 * i)) ∧
(∃ (s : State) (p i : Nat), p < 68 ∧ Obl.visible s p ∧ i < 1024 ∧ endpointUp s = true ∧
      Obl.at_ s (pTil p) (3 * 2 ^ 28 + 4 * i)) ∧
(∃ (s : State) (p n w : Nat) (v : Reg), p < 68 ∧ (tileOf s p).retention = false ∧ n < 1024 ∧ w < 20 ∧
      (∀ i, i < 32 → (v : Reg).getLsbD i = (!protectedBp s (logicalNo s p) n && (if w = 0 ∧ i = 0 then false else if w = 0 ∧ i = 1 then true else Tbl.get false (tileOf s p).st.shadow (1024 * n + 32 * w + i)))) ∧
      endpointUp s = true ∧ Obl.at_ s (pTil p) (2 ^ 30 + 128 * n + 4 * w)) ∧
(∃ (s : State) (p sp i : Nat), p < 68 ∧ sp < 16 ∧ i < 2 ^ 26 ∧
      ((tileOf s p).retention = true ∨ (sp < 4 ∧ s.cfg.resEnc = true) ∨ (sp ≠ 0 ∧ ¬ Obl.holds sp i)) ∧ endpointUp s = true ∧
      Obl.at_ s (pTil p) (2 ^ 28 * sp + 4 * i)) ∧
(∃ (s : State) (pin : Nat), pin < 192 ∧ endpointUp s = true ∧ Obl.at_ s pRim (16 * pin)) ∧
(∃ (s : State) (pin : Nat), pin < 192 ∧ endpointUp s = true ∧ Obl.at_ s pRim (16 * pin + 4)) ∧
(∃ (s : State) (i : Nat), i < 2 ^ 26 ∧ endpointUp s = true ∧ Obl.at_ s pRim (2 ^ 28 + 4 * i)) ∧
(∃ (s : State) (c j : Nat), c < 256 ∧ j < 2 ∧ endpointUp s = true ∧ Obl.at_ s pJob (16 * c + 4 * j)) ∧
(∃ (s : State) (c j : Nat), c < 256 ∧ j < 2 ∧ endpointUp s = true ∧ Obl.at_ s pJob (16 * c + 8 + 4 * j)) ∧
(∃ (s : State) (n r k : Nat), n < 24 ∧ r < 4 ∧ k < 2 ∧ endpointUp s = true ∧ Obl.at_ s (pLnk n) (1024 * r + 4 * k)) ∧
(∃ (s : State) (n r : Nat), n < 24 ∧ r < 4 ∧ endpointUp s = true ∧ Obl.at_ s (pLnk n) (1024 * r + 16)) ∧
(∃ (s : State) (ch a : Nat), ch < 8 ∧ a < 4096 ∧
      ((chanOf s ch).trained = false ∨ s.dram.ranks ≤ a / 1024 ∨ 10 ≤ a / 64 % 16 ∨ 6 ≤ a / 4 % 16) ∧ endpointUp s = true ∧
      Obl.at_ s (pDdr ch) a) ∧
(∃ (s : State) (ch rank lane w : Nat), ch < 8 ∧ rank < 4 ∧ lane < 16 ∧ w < 16 ∧ endpointUp s = true ∧
      Obl.at_ s (pDdr ch) (1024 * rank + 64 * lane + 4 * w)) ∧
(∃ (s : State) (i : Nat), i < 4 ∧ endpointUp s = true ∧ Obl.at_ s pFus (4 * i)) ∧
(∃ (s : State), endpointUp s = true ∧ Obl.at_ s pFus 0x10) ∧
(∃ (s : State) (i : Nat), i < 49 ∧ endpointUp s = true ∧ Obl.at_ s pFus (0x100 + 4 * i)) :=
  ⟨⟨(z |> tl 67 (fun t => { t with retention := false }) |> rg (Sys2Proof.Machine.ro (pTil 67) 0x040) (2 ^ 28 * 0 + 16 * (2 ^ 22 - 1) + 8) |> up),
      67, (2 ^ 22 - 1), 2, by decide +kernel⟩,
⟨(z |> tl 67 (fun t => { t with retention := false }) |> rg (Sys2Proof.Machine.ro (pTil 67) 0x040) (2 ^ 28 * 1 + 4 * 4095) |> up),
      67, 4095, by decide +kernel⟩,
⟨(z |> tl 67 (fun t => { t with retention := false }) |> rg (Sys2Proof.Machine.ro (pTil 67) 0x040) (2 ^ 28 * 2 + 4 * 65535) |> up),
      67, 65535, by decide +kernel⟩,
⟨(z |> tl 67 (fun t => { t with retention := false }) |> rg (Sys2Proof.Machine.ro (pTil 67) 0x040) (2 ^ 28 * 3 + 4 * 1023) |> up),
      67, 1023, by decide +kernel⟩,
⟨(z |> tl 67 (fun t => { t with retention := false }) |> stf 67 (fun x => { x with shadow := [(1024 * 1023 + 32 * 19 + 31, true)] }) |> rg (Sys2Proof.Machine.ro (pTil 67) 0x040) (2 ^ 28 * 4 + 128 * 1023 + 4 * 19) |> up),
      67, 1023, 19, (if (protectedBp z (logicalNo z 67) 1023) then (0 : Reg) else 0x80000000), by decide +kernel⟩,
⟨(z |> rg (Sys2Proof.Machine.ro (pTil 67) 0x040) (2 ^ 28 * 15 + 4 * (2 ^ 26 - 1)) |> up), 67, 15, (2 ^ 26 - 1),
      by decide +kernel⟩,
⟨(z |> rg (Sys2Proof.Machine.ro pRim 0x040) (16 * 191) |> up), 191, by decide +kernel⟩,
⟨(z |> rg (Sys2Proof.Machine.ro pRim 0x040) (16 * 191 + 4) |> up), 191, by decide +kernel⟩,
⟨(z |> rm (fun r => { r with frames := [1, 2, 3, 4, 5] }) |> rg (Sys2Proof.Machine.ro pRim 0x040) (2 ^ 28 + 4 * 1) |> up),
      1, by decide +kernel⟩,
⟨(z |> sg (fun g => { g with flags := [(255, 0x500000006)] }) |> rg (Sys2Proof.Machine.ro pJob 0x040) (16 * 255 + 4 * 1) |> up),
      255, 1, by decide +kernel⟩,
⟨(z |> rg (Sys2Proof.Machine.ro pJob 0x040) (16 * 255 + 8 + 4 * 1) |> up), 255, 1, by decide +kernel⟩,
⟨(z |> rg (Sys2Proof.Machine.ro (pLnk 23) 0x040) (1024 * 3 + 4 * 1) |> up), 23, 3, 1, by decide +kernel⟩,
⟨(z |> rg (Sys2Proof.Machine.ro (pLnk 23) 0x040) (1024 * 3 + 16) |> up), 23, 3, by decide +kernel⟩,
⟨(z |> rg (Sys2Proof.Machine.ro (pDdr 7) 0x040) (4095) |> up), 7, 4095, by decide +kernel⟩,
⟨(z |> rg (Sys2Proof.Machine.ro (pDdr 7) 0x040) (1024 * 3 + 64 * 15 + 4 * 15) |> up), 7, 3, 15, 15, by decide +kernel⟩,
⟨(z |> ky (fun k => { k with devId := 0x123456789ABCDEF0123456789ABCDEF0 }) |> rg (Sys2Proof.Machine.ro pFus 0x040) (4 * 3) |> up),
      3, by decide +kernel⟩,
⟨(z |> rg (Sys2Proof.Machine.ro pFus 0x040) (0x10) |> up), by decide +kernel⟩,
⟨(z |> ky (fun k => { k with vf := [(48, 1023)] }) |> rg (Sys2Proof.Machine.ro pFus 0x040) (0x100 + 4 * 48) |> up), 48,
      by decide +kernel⟩⟩

theorem wit_MapsAndFences :
(∃ (s : State) (i : Nat) (v : BitVec 32), i < 64 ∧ s.run.active = false ∧ fld v 0 5 < 17 ∧
      fenced s (17 * (i / 16) + fld v 0 5) = false ∧
      (∀ j, j < 64 → j / 16 = i / 16 → j ≠ i → physOf s j ≠ 17 * (i / 16) + fld v 0 5) ∧ fld v 0 5 ≠ regF s (mapReg i) 0 5) ∧
(∃ (s : State) (i : Nat) (v : BitVec 32), i < 64 ∧ s.run.active = false ∧ fld v 0 5 < 17 ∧
      fenced s (17 * (i / 16) + fld v 0 5) = false ∧
      (∀ j, j < 64 → j / 16 = i / 16 → j ≠ i → physOf s j ≠ 17 * (i / 16) + fld v 0 5) ∧ fld v 0 5 = regF s (mapReg i) 0 5) ∧
(∃ (s : State) (i : Nat) (v : BitVec 32), i < 64 ∧
      (s.run.active = true ∨ 17 ≤ fld v 0 5 ∨ fenced s (17 * (i / 16) + fld v 0 5) = true ∨ ∃ j, j < 64 ∧ j / 16 = i / 16 ∧ j ≠ i ∧ physOf s j = 17 * (i / 16) + fld v 0 5)) ∧
(∃ (s : State) (d : Nat) (v : Reg), d < 4 ∧ s.run.active = false ∧
      (∀ k, k < 17 → regBit s (fenceReg d) k = true → v.getLsbD k = false → (tileOf s (17 * d + k)).testOk = true ∧ (tileOf s (17 * d + k)).testFenced = true)) ∧
(∃ (s : State) (d : Nat) (v : Reg), d < 4 ∧
      (s.run.active = true ∨ ∃ k, k < 17 ∧ regBit s (fenceReg d) k = true ∧ v.getLsbD k = false ∧ ((tileOf s (17 * d + k)).testOk = false ∨ (tileOf s (17 * d + k)).testFenced = false))) ∧
(∃ (s : State) (dev : Nat), dev < 16 ∧ s.run.active = false) ∧
(∃ (s : State) (dev : Nat), dev < 16 ∧ s.run.active = true) :=
  ⟨⟨z, 63, (16 : Reg), by decide +kernel⟩,
⟨(z |> rg (mapReg 63) 16), 63, (16 : Reg), by decide +kernel⟩,
⟨(z |> rg (fenceReg 3) 0x10000), 63, (16 : Reg), by decide +kernel⟩,
⟨(z |> rg (fenceReg 3) 3 |> tl 52 (fun t => { t with testOk := true, testFenced := true, dead := true })), 3,
      (0x10001 : Reg), by decide +kernel⟩,
⟨(z |> rg (fenceReg 3) 3), 3, (1 : Reg), by decide +kernel⟩,
⟨z, 15, by decide +kernel⟩,
⟨(z |> act 1), 15, by decide +kernel⟩⟩

theorem wit_Bar2AndFunctionReset :
(∃ (s : State) (off n a : Nat), (Obl.notDozing s ∧ retraining s = false) ∧ Obl.settled s ∧ a = Obl.bar2 s off ∧
      a + n ≤ capacity s ∧ fetchBad s a n = false) ∧
(∃ (s : State) (off n a : Nat), (Obl.notDozing s ∧ retraining s = false) ∧ Obl.settled s ∧ a = Obl.bar2 s off ∧
      a + n ≤ capacity s ∧ fetchBad s a n = true) ∧
(∃ (s : State), endpointUp s = true ∧ s.pwr.state = 2 ∧ s.pwr.entering = none ∧ s.pwr.thenIdle = false ∧
      s.hw.thermtrip = false ∧ retraining s = false) ∧
(∃ (s : State) (off n : Nat), Obl.notDozing s ∧ retraining s = false ∧ capacity s < Obl.bar2 s off + n) ∧
(∃ (s : State), (retraining s = true ∨ endpointUp s = false)) ∧
(∃ (s : State) (off : Nat) (data : List Byte) (a : Nat),
      (Obl.notDozing s ∧ retraining s = false ∧ a = Obl.bar2 s off ∧ a + data.length ≤ capacity s ∧ (s.run.active = false ∨ hitsRegion s a data.length = false) ∧ hitsHeldSlot s a data.length = false) ∧
      Obl.settled s) ∧
(∃ (s : State) (off : Nat) (data : List Byte) (a : Nat), Obl.notDozing s ∧ retraining s = false ∧ a = Obl.bar2 s off ∧
      a + data.length ≤ capacity s ∧ s.run.active = true ∧ hitsRegion s a data.length = true) ∧
(∃ (s : State) (off : Nat) (data : List Byte) (a : Nat), Obl.notDozing s ∧ retraining s = false ∧ a = Obl.bar2 s off ∧
      a + data.length ≤ capacity s ∧ (s.run.active = false ∨ hitsRegion s a data.length = false) ∧
      hitsHeldSlot s a data.length = true) ∧
(∃ (s : State) (off : Nat) (data : List Byte), Obl.notDozing s ∧ retraining s = false ∧
      capacity s < Obl.bar2 s off + data.length) ∧
(∃ (s : State), s.saiga.jobs = [] ∧ s.run.active = false) ∧
(∃ (s : State), s.saiga.jobs = [] ∧ s.run.active = true ∧ s.run.faultStop = false ∧ s.run.stopAt = none ∧
      s.run.cause ≠ some 4 ∧ runMode s ≠ 2) ∧
(∃ (s : State) (j : Job), Obl.oneJob s j ∧ j.q < 8 ∧ (j.phase = .copied ∨ j.phase = .inContext ∨ j.phase = .ready)) :=
  ⟨⟨(z |> cf (fun c => { c with trained := true }) |> dr (fun d => { d with capLog2 := 31, bytes := [(16, 7), (31, 255)] }) |> up),
      16, 16, 16, by decide +kernel, settledAll _ rfl, by decide +kernel⟩,
⟨(z |> cf (fun c => { c with trained := true }) |> dr (fun d => { d with capLog2 := 31, bytes := [(16, 7), (31, 255)] }) |> up |> dr (fun d => { d with bad := [(0, { devs := [1, 2], multi := true, link := 0 })] })),
      16, 16, 16, by decide +kernel, settledAll _ rfl, by decide +kernel⟩,
⟨(z |> cf (fun c => { c with trained := true }) |> dr (fun d => { d with capLog2 := 31, bytes := [(16, 7), (31, 255)] }) |> up |> pw (fun p => { p with state := 2 })),
      by decide +kernel⟩,
⟨(z |> cf (fun c => { c with trained := true }) |> dr (fun d => { d with capLog2 := 31, bytes := [(16, 7), (31, 255)] }) |> up),
      (2 ^ 34 - 8), 16, by decide +kernel⟩,
⟨(z |> cf (fun c => { c with trained := true }) |> dr (fun d => { d with capLog2 := 31, bytes := [(16, 7), (31, 255)] }) |> up |> ch 7 (fun c => { c with retraining := true })),
      by decide +kernel⟩,
⟨(z |> cf (fun c => { c with trained := true }) |> dr (fun d => { d with capLog2 := 31, bytes := [(16, 7), (31, 255)] }) |> up |> act 1),
      (2 ^ 34 - 5), ([1, 2, 0, 3, 4] : List Byte), (2 ^ 34 - 5), by decide +kernel, settledAll _ rfl⟩,
⟨(z |> cf (fun c => { c with trained := true }) |> dr (fun d => { d with capLog2 := 31, bytes := [(16, 7), (31, 255)] }) |> act 1 |> im (fun i => { i with regions := [{ base := 64, len := 64, rw := true, init := 0, mask := 1 }] }) |> up),
      60, ([1, 2, 0, 3, 4] : List Byte), 60, by decide +kernel⟩,
⟨(z |> cf (fun c => { c with trained := true }) |> dr (fun d => { d with capLog2 := 31, bytes := [(16, 7), (31, 255)] }) |> slots 2 |> up),
      60, ([1, 2, 0, 3, 4] : List Byte), 60, by decide +kernel⟩,
⟨(z |> cf (fun c => { c with trained := true }) |> dr (fun d => { d with capLog2 := 31, bytes := [(16, 7), (31, 255)] }) |> up),
      (2 ^ 34 - 4), ([1, 2, 0, 3, 4] : List Byte), by decide +kernel⟩,
⟨(z |> cf (fun c => { c with trained := true }) |> dr (fun d => { d with capLog2 := 31, bytes := [(16, 7), (31, 255)] })),
      by decide +kernel⟩,
⟨(z |> cf (fun c => { c with trained := true }) |> dr (fun d => { d with capLog2 := 31, bytes := [(16, 7), (31, 255)] }) |> act 1),
      by decide +kernel⟩,
⟨(z |> cf (fun c => { c with trained := true }) |> dr (fun d => { d with capLog2 := 31, bytes := [(16, 7), (31, 255)] }) |> jb (mkJ .ready 8 1 0 0 [])),
      (mkJ .ready 8 1 0 0 []), by decide +kernel⟩⟩


def mx (c : Nat) : RimMux := { place := { region := 191, col := 31, row := 15, cell := 7, field := 2 }, src := [.low, .pinR 1], code := c }
def net1 : RimNet := { RimNet.empty with wires := [mx 1], groups := [7] }
def net2 : RimNet := { RimNet.empty with wires := [mx 2] }
def ld : Job := mkJ .running 8 1 0 0 [(0x31, 0)]


theorem wit_BootSources :
(∃ (s : State) (data : List Byte), s.cfg.state = 1 ∧ s.tap.scanned = false ∧ srcHost s = false ∧ bootMaster s = false ∧
      s.cfg.staged = false ∧ data ≠ []) ∧
(∃ (s : State), s.cfg.state = 1 ∧ s.tap.scanned = false ∧ srcHost s = false ∧ bootMaster s = true ∧ s.cfg.staged = false) ∧
(∃ (n : Nat), n < 256) ∧
(∃ (s : State) (data : List Byte), s.cfg.state = 1 ∧ s.tap.scanned = false ∧ srcHost s = true ∧ s.cfg.staged = false ∧
      s.cfg.driving = false ∧ data ≠ [] ∧ data.length < 256) ∧
(∃ (s : State) (data : List Byte), s.cfg.state = 2 ∧ s.tap.scanned = false ∧ srcHost s = true ∧
      (s.cfg.driving = true → (s.cfg.driven ++ data).length < 256)) ∧
(∃ (s : State) (data : List Byte), s.cfg.state = 3 ∧ s.tap.scanned = false ∧ srcHost s = true ∧ s.cfg.driving = false ∧
      data ≠ []) :=
  ⟨⟨(z |> got 1 []), ([1, 2] : List Byte), by decide +kernel⟩,
⟨(z |> got 1 [] |> hw (fun h => { h with straps := 0x40, store := [(0, 7), (0x29, 2)] })), by decide +kernel⟩,
⟨255, by decide +kernel⟩,
⟨(z |> got 1 [] |> hw (fun h => { h with straps := 0xC0 })), ([1, 2] : List Byte), by decide +kernel⟩,
⟨(z |> got 2 [9] |> hw (fun h => { h with straps := 0xC0 }) |> cf (fun c => { c with driving := true, driven := [9] })),
      ([1, 2] : List Byte), by decide +kernel⟩,
⟨(z |> got 3 [9] |> hw (fun h => { h with straps := 0x80 })), ([1, 2] : List Byte), by decide +kernel⟩⟩

theorem wit_BootReceives :
(∃ (s : State), s.cfg.state = 2 ∧ 256 ≤ s.cfg.rx.length ∧ s.tap.scanned = false ∧
      headerCheck s (bytesOf s.cfg.rx) 1 (bootMaster s && !srcHost s) = none) ∧
(∃ (s : State) (code : Nat), s.cfg.state = 2 ∧ 256 ≤ s.cfg.rx.length ∧ s.tap.scanned = false ∧
      headerCheck s (bytesOf s.cfg.rx) 1 (bootMaster s && !srcHost s) = some code) ∧
(∃ (s : State), s.cfg.state = 3 ∧ s.tap.scanned = false ∧ badSect s (rxPlain s) = none ∧
      (∀ e ∈ arrivedSects s, e.1 ≠ 3 ∧ e.1 ≠ 5 ∧ e.1 ≠ 6)) ∧
(∃ (s : State) (ty code : Nat), s.cfg.state = 3 ∧ s.tap.scanned = false ∧ badSect s (rxPlain s) = some (ty, code)) ∧
(∃ (s : State) (a l off n : Nat), s.cfg.state = 3 ∧ s.tap.scanned = false ∧ badSect s (rxPlain s) = none ∧
      arrivedSects s = [(6, a, l)] ∧ subFor (rxPlain s) (devIdx s) (a, l) = .at off n) ∧
(∃ (s : State) (a l off n : Nat), s.cfg.state = 3 ∧ s.tap.scanned = false ∧ badSect s (rxPlain s) = none ∧
      arrivedSects s = [(3, a, l)] ∧ subFor (rxPlain s) (devIdx s) (a, l) = .at off n) ∧
(∃ (s : State) (a l off n : Nat), s.cfg.state = 3 ∧ s.tap.scanned = false ∧ badSect s (rxPlain s) = none ∧
      arrivedSects s = [(5, a, l)] ∧ subFor (rxPlain s) (devIdx s) (a, l) = .at off n ∧ 0 < n ∧ n ≤ 2097152) ∧
(∃ (s : State), srcHost s = false ∧ s.tap.scanned = false ∧ (s.cfg.state = 2 ∨ s.cfg.state = 3) ∧
      (s.cfg.rx.length < 256 ∨ s.cfg.rx.length < conTotal (bytesOf s.cfg.rx))) ∧
(∃ (s : State), srcHost s = false ∧ s.tap.scanned = true) ∧
(∃ (s : State), srcHost s = true ∧ s.tap.scanned = true) ∧
(∃ (s : State), srcHost s = true ∧ s.tap.scanned = false ∧ (s.cfg.state = 2 ∨ s.cfg.state = 3) ∧
      (s.cfg.rx.length < 256 ∨ s.cfg.rx.length < conTotal (bytesOf s.cfg.rx))) ∧
(∃ (s : State), s.cfg.clearDue = true ∧ s.cfg.staged = true) ∧
(∃ (s : State), s.cfg.clearDue = true ∧ s.cfg.staged = false) ∧
(∃ (s : State) (v : Reg), v.getLsbD 0 = true ∧ 8 ≤ s.cfg.state ∧ s.cfg.state ≤ 11 ∧ s.tap.scanned = false) :=
  ⟨⟨(z |> got 2 (container 1 [(1, []), (3, []), (4, [0, 2, 0, 31])])), by decide +kernel⟩,
⟨(z |> got 2 (container 1 [(1, []), (4, [])])), 0x44, by decide +kernel⟩,
⟨(z |> got 3 (container 1 [(1, []), (4, [1])])), by decide +kernel⟩,
⟨(z |> got 3 (container 1 [(1, [1])]) |> cf (fun c => { c with rx := c.rx.set 256 5 })), 1, 0x49, by decide +kernel⟩,
⟨(z |> got 3 (container 1 [(6, [1, 2, 3])])), 256, 128, 320, 3, by decide +kernel⟩,
⟨(z |> got 3 (container 1 [(3, List.replicate 767 7 ++ [255])])), 256, 832, 320, 768, by decide +kernel⟩,
⟨(z |> got 3 (container 1 [(5, [1, 2, 3])])), 256, 128, 320, 3, by decide +kernel⟩,
⟨(z |> got 2 [1, 2] |> cf (fun c => { c with driving := true })), by decide +kernel⟩,
⟨{ z with tap := { z.tap with scanned := true } }, by decide +kernel⟩,
⟨{ (z |> hw (fun h => { h with straps := 0x80 })) with tap := { z.tap with scanned := true } }, by decide +kernel⟩,
⟨(z |> got 2 [1, 2] |> hw (fun h => { h with straps := 0x80 })), by decide +kernel⟩,
⟨(z |> cf (fun c => { c with clearDue := true, staged := true, state := 10 }) |> bk 127 (fun x => { x with words := [(1, 5)] }) |> pt 23 (fun x => { x with lanes := [(3, { Lane.reset with eqNext := 7 })] }) |> rm (fun r => { r with frames := [4] })),
      by decide +kernel⟩,
⟨(z |> cf (fun c => { c with clearDue := true, state := 8 })), by decide +kernel⟩,
⟨(z |> cf (fun c => { c with state := 11 })), (1 : Reg), by decide +kernel⟩⟩

theorem wit_BootFinishes :
(∃ (s : State) (ok : Bool) (code ty : Nat), s.cfg.state = 4 ∧ s.tap.scanned = false ∧
      verifyFails s (conPlain s s.cfg.rx) ok = some (code, ty)) ∧
(∃ (s : State) (ok : Bool) (off n : Nat), s.cfg.state = 4 ∧ s.tap.scanned = false ∧
      verifyFails s (conPlain s s.cfg.rx) ok = none ∧ rxSub s (bytesOf (conPlain s s.cfg.rx)) 1 = .at off n ∧ n < 16) ∧
(∃ (s : State) (ok : Bool) (off : Nat) (m v : Reg), s.cfg.state = 4 ∧ s.tap.scanned = false ∧
      verifyFails s (conPlain s s.cfg.rx) ok = none ∧ rxSub s (bytesOf (conPlain s s.cfg.rx)) 1 = .at off 16 ∧
      shellRec (bytesOf (conPlain s s.cfg.rx)) off 0 = (pScr, 0x088, m, v)) ∧
(∃ (s : State) (fails : List Nat) (off n : Nat), s.cfg.state = 5 ∧ s.cfg.trained = false ∧ s.cfg.shellDone = true ∧
      s.tap.scanned = false ∧ (∀ c, c < 8 → fails.getD c 0 = 0) ∧ rxSub s (rxPlain s) 4 = .at off n ∧
      dramCfgOk (rxPlain s) off = true) ∧
(∃ (s : State) (off n : Nat), s.cfg.state = 5 ∧ s.cfg.trained = false ∧ s.cfg.shellDone = true ∧ s.tap.scanned = false ∧
      rxSub s (rxPlain s) 4 = .at off n ∧ dramCfgOk (rxPlain s) off = false) ∧
(∃ (s : State) (fails : List Nat) (c off n : Nat), s.cfg.state = 5 ∧ s.cfg.trained = false ∧ s.cfg.shellDone = true ∧
      s.tap.scanned = false ∧ c < 8 ∧ rxSub s (rxPlain s) 4 = .at off n ∧ dramCfgOk (rxPlain s) off = true ∧
      fails.getD c 0 ≠ 0) ∧
(∃ (s : State), (s.pwr.state ≠ 0 ∨ s.pwr.entering ≠ none ∨ s.pwr.exiting = true)) ∧
(∃ (s : State), Obl.mayReady s ∧ rxSub s (rxPlain s) 5 = .absent ∧ rxSub s (rxPlain s) 6 = .absent) ∧
(∃ (s : State) (net : RimNet) (off n : Nat), Obl.mayReady s ∧ rxSub s (rxPlain s) 5 = .absent ∧
      rxSub s (rxPlain s) 6 = .at off n ∧ s.rim.state ≠ .running ∧ net.firstBad = none ∧
      clockFrameBad (rxPlain s) off = false ∧ (∀ r ∈ net.refs, r ≤ 8)) ∧
(∃ (s : State) (net : RimNet) (p : RimPlace) (off n : Nat), Obl.mayReady s ∧ rxSub s (rxPlain s) 5 = .absent ∧
      rxSub s (rxPlain s) 6 = .at off n ∧ s.rim.state ≠ .running ∧ net.firstBad = some p) ∧
(∃ (s : State) (off n : Nat), Obl.mayReady s ∧ rxSub s (rxPlain s) 5 = .at off n ∧ rxSub s (rxPlain s) 6 = .absent ∧
      slotCount s = 0) :=
  ⟨⟨(z |> got 4 ((container 1 [(1, [])]).set 300 1)), true, 0x47, 0, by decide +kernel⟩,
⟨(z |> got 4 (container 1 [(1, [])])), true, 320, 0, by decide +kernel⟩,
⟨(z |> got 4 (container 1 [(1, leBytes 2 pScr ++ [0x88, 0, 0xF, 0xFF, 0xFF, 0xFF, 1, 2, 3, 4, 0, 0, 0, 0])])), true, 320,
      0xFFFFFF0F, 0x04030201, by decide +kernel⟩,
⟨(z |> got 5 (container 1 [(4, [0, 4, 2, 31, 16, 10, 5] ++ List.replicate 57 0)]) |> cf (fun c => { c with shellDone := true })),
      ([] : List Nat), 320, 64, by decide +kernel⟩,
⟨(z |> got 5 (container 1 [(4, [0, 0])]) |> cf (fun c => { c with shellDone := true })), 320, 2, by decide +kernel⟩,
⟨(z |> got 5 (container 1 [(4, [0, 4, 2, 31, 16, 10, 5] ++ List.replicate 57 0)]) |> cf (fun c => { c with shellDone := true })),
      ([0, 3] : List Nat), 1, 320, 64, by decide +kernel⟩,
⟨(z |> pw (fun p => { p with exiting := true })), by decide +kernel⟩,
⟨(z |> got 5 (container 1 [(1, []), (3, []), (4, [0, 2, 0, 31])]) |> cf (fun c => { c with shellDone := true, trained := true, staged := true }) |> bk 3 (fun x => { x with words := [(1, 5)] })),
      by decide +kernel⟩,
⟨(z |> got 5 (container 1 [(6, [1, 2])]) |> cf (fun c => { c with shellDone := true, trained := true }) |> rm (fun r => { r with clkRun := 3 })),
      net1, 320, 2, by decide +kernel⟩,
⟨(z |> got 5 (container 1 [(6, [1, 2])]) |> cf (fun c => { c with shellDone := true, trained := true }) |> rm (fun r => { r with frames := [1, 2], store := [9] })),
      net2, { region := 191, col := 31, row := 15, cell := 7, field := 2 }, 320, 2, by decide +kernel⟩,
⟨(z |> got 5 (container 1 [(5, [1])]) |> cf (fun c => { c with shellDone := true, trained := true })), 320, 1,
      by decide +kernel⟩⟩

theorem wit_BbramKey :
(∃ (s : State), s.keys.bbramDis = false ∧ regBit s keyCtl 1 = true ∧ s.keys.keyWords.length < 7) ∧
(∃ (s : State), s.keys.bbramDis = false ∧ regBit s keyCtl 1 = true ∧ s.keys.keyWords.length = 7) ∧
(∃ (s : State), (s.keys.bbramDis = true ∨ regBit s keyCtl 1 = false)) ∧
(∃ (s : State) (v : Reg), v.getLsbD 0 = true ∧ Obl.keyUnused s) ∧
(∃ (s : State), Obl.keyUnused s) ∧
(∃ (s : State), s.keys.keyWords ≠ [] ∧ Obl.keyUnused s) ∧
(∃ (s : State), coreOn s = false) ∧
(∃ (s : State), coreOn s = true) ∧
(∃ (s : State) (v : Reg), v.getLsbD 0 = true ∧ coreOn s = true ∧ 2 ≤ s.cfg.state ∧ s.cfg.state ≤ 5 ∧ 256 ≤ s.cfg.rx.length ∧
      conKeySlot (bytesOf s.cfg.rx) = 1 ∧ s.tap.scanned = false ∧ s.cfg.resBbram = false) ∧
(∃ (s : State) (v : Reg) (j : Job), v.getLsbD 0 = true ∧ coreOn s = true ∧ s.cfg.state = 6 ∧ jobAt s 8 1 .running = some j ∧
      findJob s j.q j.seq = some j ∧ j.aborted = false ∧ conKeySlot (slotSrc s (j.par 0x31 1)) = 1 ∧
      jobAt s 9 1 .running = none ∧ s.cfg.resBbram = false) ∧
(∃ (s : State) (v : Reg), v.getLsbD 0 = true ∧ coreOn s = true ∧ s.cfg.state = 6 ∧ s.saiga.jobs = [] ∧
      s.run.active = false ∧ s.cfg.resValid = true ∧ s.cfg.resBbram = true) :=
  ⟨⟨(z |> rg keyCtl 2 |> ky (fun k => { k with keyWords := [1, 2, 3, 4, 5, 6] })), by decide +kernel⟩,
⟨(z |> rg keyCtl 2 |> ky (fun k => { k with keyWords := [1, 2, 3, 4, 5, 6, 7] })), by decide +kernel⟩,
⟨(z |> rg keyCtl 2 |> ky (fun k => { k with bbramDis := true })), by decide +kernel⟩,
⟨(z |> cf (fun c => { c with slots := [(3, { st := 2, bbram := true })], state := 6 }) |> hw (fun h => { h with regulators := true, boot := .up }) |> ky (fun k => { k with bbSet := true, bbKey := 5 })),
      (1 : Reg), by decide +kernel⟩,
⟨(z |> cf (fun c => { c with slots := [(3, { st := 2, bbram := true })], state := 6 }) |> hw (fun h => { h with regulators := true, boot := .up }) |> ky (fun k => { k with bbSet := true, bbKey := 5 })),
      by decide +kernel⟩,
⟨(z |> cf (fun c => { c with slots := [(3, { st := 2, bbram := true })], state := 6 }) |> hw (fun h => { h with regulators := true, boot := .up }) |> ky (fun k => { k with bbSet := true, bbKey := 5, keyWords := [1] })),
      by decide +kernel⟩,
⟨(z |> ky (fun k => { k with bbSet := true, bbKey := 5, tampered := true }) |> hw (fun h => { h with regulators := false })),
      by decide +kernel⟩,
⟨(z |> cf (fun c => { c with slots := [(3, { st := 2, bbram := true })], state := 6 }) |> hw (fun h => { h with regulators := true, boot := .up }) |> ky (fun k => { k with bbSet := true, bbKey := 5 })),
      by decide +kernel⟩,
⟨(z |> got 3 (container 1 [(1, [1])]) |> cf (fun c => { c with rx := c.rx.set 0x0D 1 }) |> hw (fun h => { h with regulators := true, boot := .up }) |> ky (fun k => { k with bbSet := true, bbKey := 5 })),
      (1 : Reg), by decide +kernel⟩,
⟨(z |> cf (fun c => { c with slots := [(3, { st := 2, bbram := true })], state := 6 }) |> hw (fun h => { h with regulators := true, boot := .up }) |> ky (fun k => { k with bbSet := true, bbKey := 5 }) |> store (con.set 0x0D 1) |> Wit.slots 1 |> cf (fun c => { c with state := 6 }) |> jb ld),
      (1 : Reg), ld, by decide +kernel⟩,
⟨(z |> cf (fun c => { c with slots := [(3, { st := 2, bbram := true })], state := 6 }) |> hw (fun h => { h with regulators := true, boot := .up }) |> ky (fun k => { k with bbSet := true, bbKey := 5 }) |> cf (fun c => { c with resValid := true, resBbram := true }) |> rg (ownerReg 3) 5 |> bk 3 (fun x => { x with words := [(1, 5)] }) |> stf 0 (fun x => { x with ds := [(2, true)] })),
      (1 : Reg), by decide +kernel⟩⟩

theorem wit_Fuses :
(∃ (s : State), s.keys.keyBuf.length < 8) ∧
(∃ (s : State) (w : Reg) (ws : List Reg), s.keys.keyBuf = w :: ws ∧ ws.length = 7) ∧
(∃ (s : State) (v : Reg), Obl.fuse v 1 ∧ s.keys.prog = none ∧ s.hw.vaux33 = true ∧ s.run.active = false ∧
      s.keys.fuseSet = false) ∧
(∃ (s : State) (v : Reg), Obl.fuse v 1 ∧
      (s.hw.vaux33 = false ∨ s.run.active = true ∨ s.keys.fuseSet = true ∨ s.keys.prog.isSome = true)) ∧
(∃ (s : State) (v : Reg), Obl.fuse v 2 ∧ s.keys.prog = none) ∧
(∃ (s : State) (v : Reg), Obl.fuse v 4 ∧ s.keys.prog = none) ∧
(∃ (s : State) (v : Reg), Obl.fuse v 8 ∧ s.keys.prog = none) ∧
(∃ (s : State) (v : Reg), Obl.fuse v 2 ∧ s.keys.prog.isSome = true) ∧
(∃ (s : State) (v : Reg), Obl.fuse v 4 ∧ s.keys.prog.isSome = true) ∧
(∃ (s : State) (v : Reg), Obl.fuse v 8 ∧ s.keys.prog.isSome = true) ∧
(∃ (v : BitVec 32), fld v 16 16 ≠ 0xA5C3) ∧
(∃ (s : State), s.keys.prog = some 1) ∧
(∃ (s : State) (c : Nat), s.keys.prog = some c ∧ c ≠ 1) ∧
(∃ (s : State) (c : Nat), s.keys.prog = some c) :=
  ⟨⟨(z |> ky (fun k => { k with keyBuf := [1, 2, 3, 4, 5, 6, 7] })), by decide +kernel⟩,
⟨(z |> ky (fun k => { k with keyBuf := [1, 2, 3, 4, 5, 6, 7, 8] })), 1, [2, 3, 4, 5, 6, 7, 8], by decide +kernel⟩,
⟨(z |> hw (fun h => { h with vaux33 := true })), (0xA5C30001 : Reg), by decide +kernel⟩,
⟨(z |> ky (fun k => { k with fuseSet := true }) |> hw (fun h => { h with vaux33 := true })), (0xA5C30001 : Reg),
      by decide +kernel⟩,
⟨z, (0xA5C30002 : Reg), by decide +kernel⟩,
⟨z, (0xA5C30004 : Reg), by decide +kernel⟩,
⟨z, (0xA5C30008 : Reg), by decide +kernel⟩,
⟨(z |> ky (fun k => { k with prog := some 1 })), (0xA5C30002 : Reg), by decide +kernel⟩,
⟨(z |> ky (fun k => { k with prog := some 1 })), (0xA5C30004 : Reg), by decide +kernel⟩,
⟨(z |> ky (fun k => { k with prog := some 1 })), (0xA5C30008 : Reg), by decide +kernel⟩,
⟨(0xA5C20001 : Reg), by decide +kernel⟩,
⟨(z |> ky (fun k => { k with prog := some 1, keyBuf := [1, 2, 3, 4, 5, 6, 7, 8] })), by decide +kernel⟩,
⟨(z |> ky (fun k => { k with prog := some 8 })), 8, by decide +kernel⟩,
⟨(z |> ky (fun k => { k with prog := some 4 })), 4, by decide +kernel⟩⟩

theorem wit_DeathAndRollback :
(∃ (s : State) (p l k q : Nat), Obl.heartLost s p l k q ∧ s.recov.active = false) ∧
(∃ (s : State) (p l k q : Nat), Obl.heartLost s p l k q ∧ s.recov.active = true) ∧
(∃ (s : State) (c : Ckpt), s.recov.last = some c ∧ s.run.active = true ∧ s.run.holds.contains .rollback = true ∧
      s.run.faultStop = false ∧ ckptErrors s = [] ∧ (loadSpares s).2 = true ∧ regBit s trcCtl 0 = false ∧
      (c.tiles.map (fun e => physOf s e.1)).Nodup ∧ (c.banks.map (·.1)).Nodup) ∧
(∃ (s : State) (c : Ckpt) (q : Nat), s.recov.last = some c ∧ s.run.active = true ∧ s.run.holds.contains .rollback = true ∧
      s.run.faultStop = false ∧ q ∈ runTiles s ∧ (tileOf s q).halted = false ∧ fenced s q = false ∧ ckptErrors s = [] ∧
      golden s = none) ∧
(∃ (s : State) (c : Ckpt) (q : Nat) (e : LineErr),
      (s.recov.last = some c ∧ s.run.active = true ∧ s.run.holds.contains .rollback = true ∧ s.run.faultStop = false ∧ q ∈ runTiles s ∧ (tileOf s q).halted = false ∧ fenced s q = false ∧ ckptBase s ≤ 64 * e.line ∧ 64 * e.line < ckptBase s + ckptLen s ∧ s.dram.ecc e.err = .uncorrectable ∧ lineBuffered s e.line = false ∧ lineErr s e.line = .none ∧ ckptErrors s = [] ∧ (golden s).isSome = true ∧ (∀ l ∈ usedTiles s, (tileOf s (physOf s l)).unloaded = false)) ∧
      Obl.settled s) ∧
(∃ (s : State) (c : Ckpt), s.recov.last = some c ∧ s.recov.rolling = true ∧ s.recov.replay = [] ∧
      s.recov.upto ≤ curCycle s ∧ trcClass s 6 = false) :=
  ⟨⟨(z |> act 2 |> cf (fun c => { c with resValid := true }) |> tl 0 (fun t => { t with phase := .close 7 }) |> tl 1 (fun t => { t with phase := .ready })),
      0, 0, 16, 1, by decide +kernel⟩,
⟨(z |> act 2 |> cf (fun c => { c with resValid := true }) |> tl 0 (fun t => { t with phase := .close 7 }) |> tl 1 (fun t => { t with phase := .ready }) |> rv (fun r => { r with active := true })),
      0, 0, 16, 1, by decide +kernel⟩,
⟨(z |> act 2 |> slots 2 |> store con |> cf (fun c => { c with resValid := true }) |> rn (fun r => { r with holds := [.rollback] }) |> rv (fun r => { r with last := some { cyc := 5, grant := 9, tiles := [(1, { phys := 1, ds := [(2, true)], win := [(5, true)], ports := [(3, true)], un := Units.reset, gen1 := [] })], banks := [(3, [(1, 5)])], record := none }, active := true, rollbacks := 65535 }) |> bk 3 (fun b => { b with words := [(9, 9)] }) |> tl 0 (fun t => { t with retention := false }) |> tl 1 (fun t => { t with cycle := 8, retention := false })),
      ({ cyc := 5, grant := 9, tiles := [(1, { phys := 1, ds := [(2, true)], win := [(5, true)], ports := [(3, true)], un := Units.reset, gen1 := [] })], banks := [(3, [(1, 5)])], record := none } : Ckpt),
      by decide +kernel⟩,
⟨(z |> act 2 |> cf (fun c => { c with resValid := true }) |> rn (fun r => { r with holds := [.rollback] }) |> tl 1 (fun t => { t with phase := .ready }) |> rv (fun r => { r with last := some { cyc := 5, grant := 9, tiles := [(1, { phys := 1, ds := [(2, true)], win := [(5, true)], ports := [(3, true)], un := Units.reset, gen1 := [] })], banks := [(3, [(1, 5)])], record := none }, active := true })),
      ({ cyc := 5, grant := 9, tiles := [(1, { phys := 1, ds := [(2, true)], win := [(5, true)], ports := [(3, true)], un := Units.reset, gen1 := [] })], banks := [(3, [(1, 5)])], record := none } : Ckpt),
      1, by decide +kernel⟩,
⟨(z |> act 2 |> slots 2 |> store con |> cf (fun c => { c with resValid := true }) |> rn (fun r => { r with holds := [.rollback] }) |> rg (Sys2Proof.Machine.ro pGlb 0x410) 1 |> tl 1 (fun t => { t with phase := .ready }) |> rv (fun r => { r with last := some { cyc := 5, grant := 9, tiles := [(1, { phys := 1, ds := [(2, true)], win := [(5, true)], ports := [(3, true)], un := Units.reset, gen1 := [] })], banks := [(3, [(1, 5)])], record := none }, active := true })),
      ({ cyc := 5, grant := 9, tiles := [(1, { phys := 1, ds := [(2, true)], win := [(5, true)], ports := [(3, true)], un := Units.reset, gen1 := [] })], banks := [(3, [(1, 5)])], record := none } : Ckpt),
      1, ({ line := 16383, err := { devs := [1, 2], multi := true, link := 0 } } : LineErr), by decide +kernel,
      settledAll _ rfl⟩,
⟨(z |> act 2 |> cf (fun c => { c with resValid := true }) |> rv (fun r => { r with last := some { cyc := 5, grant := 9, tiles := [(1, { phys := 1, ds := [(2, true)], win := [(5, true)], ports := [(3, true)], un := Units.reset, gen1 := [] })], banks := [(3, [(1, 5)])], record := none }, active := true, rolling := true, redone := 2 }) |> tl 1 (fun t => { t with cycle := 7 }) |> tl 0 (fun t => { t with cycle := 7 })),
      ({ cyc := 5, grant := 9, tiles := [(1, { phys := 1, ds := [(2, true)], win := [(5, true)], ports := [(3, true)], un := Units.reset, gen1 := [] })], banks := [(3, [(1, 5)])], record := none } : Ckpt),
      by decide +kernel⟩⟩

theorem wit_Checkpoints :
(∃ (s : State) (k : Nat), k = curCycle s + 1 ∧ s.run.active = true ∧
      (∀ p ∈ runTiles s, (tileOf s p).phase = .close 8 ∧ (tileOf s p).cycle + 1 = k) ∧ ckptDue s k = true ∧
      ckptTaken s k = false ∧ s.recov.next = none ∧ s.run.holds = [] ∧ qrdsAnswered s = true) ∧
(∃ (s : State) (c : Ckpt), (s.recov.next = some c ∧ (∀ e ∈ s.banks, ∀ x ∈ e.2.pend, x.2 = false)) ∧
      (∀ d, (dieOf s d).save = []) ∧ (s.run.active = false ∨ c.cyc = 0 ∨ undelivered s (c.cyc - 1) = false)) ∧
(∃ (s : State) (v : Reg), s.run.active = true ∧ v.getLsbD 1 = true ∧ s.recov.active = true) ∧
(∃ (s : State) (v : Reg), s.run.active = true ∧ v.getLsbD 1 = true ∧ s.recov.active = false) ∧
(∃ (s : State) (v : Reg), s.run.active = true ∧ v.getLsbD 1 = false) ∧
(∃ (s : State), s.run.active = false) :=
  ⟨⟨(z |> act 2 |> cf (fun c => { c with resValid := true }) |> tl 0 (fun t => { t with phase := .close 8, cycle := 6 }) |> tl 1 (fun t => { t with phase := .close 8, cycle := 6 }) |> rv (fun r => { r with active := true, early := some 7 }) |> rg (ownerReg 3) 1 |> bk 3 (fun b => { b with words := [(9, 9)], dirty := [(0, true)] })),
      7, by decide +kernel⟩,
⟨(z |> act 2 |> cf (fun c => { c with resValid := true }) |> rv (fun r => { r with active := true, next := some { cyc := 0, grant := 9, tiles := [(1, { phys := 1, ds := [(2, true)], win := [(5, true)], ports := [(3, true)], un := Units.reset, gen1 := [] })], banks := [(3, [(1, 5)])], record := none } }) |> rg (Sys2Proof.Machine.ro pGlb 0x410) 1 |> bk 3 (fun b => { b with pend := [(0, false)] })),
      ({ cyc := 0, grant := 9, tiles := [(1, { phys := 1, ds := [(2, true)], win := [(5, true)], ports := [(3, true)], un := Units.reset, gen1 := [] })], banks := [(3, [(1, 5)])], record := none } : Ckpt),
      by decide +kernel, fun _ => rfl, by decide +kernel⟩,
⟨(z |> act 2 |> cf (fun c => { c with resValid := true }) |> rv (fun r => { r with active := true }) |> rg (Sys2Proof.Machine.ro pGlb 0x428) 0xFFFFFFFF),
      (2 : Reg), by decide +kernel⟩,
⟨(z |> act 2 |> cf (fun c => { c with resValid := true })), (2 : Reg), by decide +kernel⟩,
⟨(z |> act 2 |> cf (fun c => { c with resValid := true })), (1 : Reg), by decide +kernel⟩,
⟨(z), by decide +kernel⟩⟩

theorem wit_ScrubAndVote :
(∃ (s : State) (st p k : Nat) (src : List Byte) (ref : BitVec 32), Obl.scrubs s ⟨st, p, k⟩ src ref ∧ st ≠ 5 ∧
      crc32c (Region.bytes s ⟨st, p, k⟩) = ref) ∧
(∃ (s : State) (p k : Nat) (src : List Byte) (ref : BitVec 32), Obl.scrubs s ⟨5, p, k⟩ src ref ∧
      crc32c (Region.bytes s ⟨5, p, k⟩) = ref) ∧
(∃ (s s1 : State) (st p k : Nat) (ups : List (Nat × Nat)) (src : List Byte) (ref : BitVec 32),
      (Obl.scrubs s ⟨st, p, k⟩ src ref ∧ s1 = ups.foldl (fun x u => Region.upset x ⟨st, p, k⟩ u) s ∧ (st = 4 → s.rim.frames.length = s.rim.store.length) ∧ crc32c (Region.bytes s1 ⟨st, p, k⟩) ≠ ref ∧ crc32c src = ref) ∧
      Obl.settled s ∧ (Region.fetch s ⟨st, p, k⟩).2 = true) ∧
(∃ (s : State) (st p k : Nat) (src : List Byte) (ref x : BitVec 32),
      (Obl.scrubs s ⟨st, p, k⟩ src ref ∧ crc32c (Region.bytes s ⟨st, p, k⟩) ≠ ref ^^^ x ∧ Region.bytes s ⟨st, p, k⟩ = src) ∧
      Obl.settled s ∧ (Region.fetch s ⟨st, p, k⟩).2 = true) ∧
(∃ (s : State) (st p k : Nat) (src : List Byte) (ref x y : BitVec 32), Obl.scrubs s ⟨st, p, k⟩ src ref ∧
      crc32c (Region.bytes s ⟨st, p, k⟩) = ref ∧ x ≠ 0 ∧ y ≠ 0 ∧ x ≠ y) ∧
(∃ (c : Nat), c < 3) ∧
(∃ (v : Reg), v.getLsbD 1 = true) ∧
(∃ (s : State), (s.scr.commitBusy = true ∧ s.scr.halted = false ∧ (∀ r ∈ allRegions s, r.source s = some (r.bytes s))) ∧
      Obl.settled s) ∧
(∃ (s : State) (a c : Nat) (f : Nat × Nat) (x : BitVec 32), c < 3 ∧ voteFields a = [f] ∧ fld x f.1 f.2 ≠ 0 ∧
      Obl.sameState s ∧ (∀ d, d < 3 → fld (copyOf s a d) f.1 f.2 = fld (copyOf s a 0) f.1 f.2)) ∧
(∃ (s : State) (a : Nat) (f : Nat × Nat) (x y : BitVec 32), voteFields a = [f] ∧ fld x f.1 f.2 ≠ 0 ∧ fld y f.1 f.2 ≠ 0 ∧
      fld x f.1 f.2 ≠ fld y f.1 f.2 ∧ a / 4096 ≠ pScr ∧ s.run.active = false ∧ Obl.sameState s ∧
      (∀ d, d < 3 → fld (copyOf s a d) f.1 f.2 = fld (copyOf s a 0) f.1 f.2)) ∧
(∃ (s : State) (c : Nat) (x : BitVec 32), c < 3 ∧ fld x 0 4 ≠ 0 ∧ Obl.sameState s) ∧
(∃ (s : State) (b c : Nat) (x : BitVec 52), b < 128 ∧ c < 3 ∧ x ≠ 0 ∧ Obl.sameState s ∧
      (bankOf s b).map0 = (bankOf s b).map1 ∧ (bankOf s b).map1 = (bankOf s b).map2) :=
  ⟨⟨(z |> rg scrCtl 1 |> sc (fun x => { x with committed := true, refs := [(Region.key ⟨4, 0, 192⟩, crc32c [])] }) |> rm (fun r => { r with state := .held })),
      4, 0, 192, ([] : List Byte), (crc32c []), by decide +kernel⟩,
⟨(z |> rg scrCtl 1 |> sc (fun x => { x with committed := true, refs := [(Region.key ⟨5, 0, 0⟩, crc32c (List.replicate 768 0))] })),
      0, 0, (List.replicate 768 (0 : Byte)), (crc32c (List.replicate 768 0)), by decide +kernel⟩,
⟨(z |> rg scrCtl 1 |> sc (fun x => { x with committed := true, refs := [(Region.key ⟨4, 0, 0⟩, crc32c [5, 6])] }) |> rm (fun r => { r with state := .held, frames := [5, 6], store := [5, 6] })),
      (List.foldl (fun x u => Region.upset x ⟨4, 0, 0⟩ u) (z |> rg scrCtl 1 |> sc (fun x => { x with committed := true, refs := [(Region.key ⟨4, 0, 0⟩, crc32c [5, 6])] }) |> rm (fun r => { r with state := .held, frames := [5, 6], store := [5, 6] })) [(1, 7)]),
      4, 0, 0, [(1, 7)], [5, 6], (crc32c [5, 6]), by decide +kernel, settledAll _ rfl, by decide +kernel⟩,
⟨(z |> rg scrCtl 1 |> sc (fun x => { x with committed := true, refs := [(Region.key ⟨4, 0, 0⟩, crc32c [5, 6])] }) |> rm (fun r => { r with state := .held, frames := [5, 6], store := [5, 6] })),
      4, 0, 0, [5, 6], (crc32c [5, 6]), 1, by decide +kernel, settledAll _ rfl, by decide +kernel⟩,
⟨(z |> rg scrCtl 1 |> sc (fun x => { x with committed := true, refs := [(Region.key ⟨4, 0, 0⟩, crc32c [5, 6])] }) |> rm (fun r => { r with state := .held, frames := [5, 6], store := [5, 6] })),
      4, 0, 0, [5, 6], (crc32c [5, 6]), 1, 2, by decide +kernel⟩,
⟨1, by decide +kernel⟩,
⟨(2 : Reg), by decide +kernel⟩,
⟨(z |> sc (fun x => { x with commitBusy := true })), by decide +kernel, settledAll _ rfl⟩,
⟨z, (fenceReg 3), 2, (0, 17), (0x10000 : Reg), by decide +kernel⟩,
⟨z, (fenceReg 3), (0, 17), (0x10000 : Reg), (1 : Reg), by decide +kernel⟩,
⟨z, 1, (3 : Reg), by decide +kernel⟩,
⟨(z |> bk 127 (fun b => { b with map0 := 5, map1 := 5, map2 := 5 })), 127, 1, 1, by decide +kernel⟩⟩

theorem wit_TraceStreams :
(∃ (s : State) (k : Nat), k < 5 ∧ (streamOf s k).opn ≠ [] ∧ (streamOf s k).opn.length ≤ 8 ∧ (streamOf s k).lines = []) ∧
(∃ (s : State) (k : Nat),
      (0 < (streamOf s k).staged ∧ ringFull s = false ∧ s.trc.order.head? = some k ∧ retraining s = false) ∧
      (∀ d, (dieOf s d).tt = none) ∧ Obl.settled s) ∧
(∃ (s : State), retraining s = true) ∧
(∃ (s : State) (v : Reg), regBit s trcCtl 0 = false ∧ v.getLsbD 0 = true ∧ pacedRun s = false ∧ stageOk s = true ∧
      (v.getLsbD 1 = true ∨ (runAdmission (writeRW s trcCtl v) false false true none).2 = 0) ∧
      trcBase s + trcLen s ≤ capacity s ∧ ringClash s = false ∧ (∀ k, k < 5 → (streamOf s k).lines = [])) ∧
(∃ (s : State) (v : Reg) (n : Nat), regBit s trcCtl 0 = false ∧ v.getLsbD 0 = true ∧ pacedRun s = false ∧ stageOk s = true ∧
      (n = 2 ∧ capacity s < trcBase s + trcLen s ∨ n = 3 ∧ trcBase s + trcLen s ≤ capacity s ∧ ringClash s = true)) ∧
(∃ (s : State) (v : Reg), regBit s trcCtl 0 = false ∧ v.getLsbD 0 = true ∧ v.getLsbD 1 = false ∧ pacedRun s = false ∧
      stageOk s = true ∧ trcBase s + trcLen s ≤ capacity s ∧ ringClash s = false ∧
      (runAdmission (writeRW s trcCtl v) false false true none).2 ≠ 0) ∧
(∃ (s : State) (v : Reg), regBit s trcCtl 0 = false ∧ v.getLsbD 0 = true ∧ pacedRun s = false ∧ stageOk s = false) ∧
(∃ (s : State) (v : Reg), regBit s trcCtl 0 = true ∧ v.getLsbD 0 = false ∧ pacedRun s = false ∧
      (v ^^^ getReg s trcCtl) &&& 0x1FF00FC = 0) ∧
(∃ (s : State) (v : Reg), regBit s trcCtl 0 = true ∧ v.getLsbD 0 = true ∧ pacedRun s = false ∧
      (v ^^^ getReg s trcCtl) &&& 0x1FF00FC ≠ 0) ∧
(∃ (s : State) (v : Reg), pacedRun s = true ∧ v.getLsbD 1 = true ∧ regBit s trcCtl 1 = false) ∧
(∃ (s : State) (v : Reg) (x : Machine.Stream), regBit s trcCtl 0 = true ∧
      (streamFull s 4 = false ∨ regBit s trcCtl 1 = true) ∧
      x = (streamOf s 4).emit 4 0 (fun dt => dt.toNat / 256) s.tb (curCycle s) 0x0D v.toNat []) ∧
(∃ (s : State), regBit s trcCtl 0 = true ∧ streamFull s 4 = true ∧ regBit s trcCtl 1 = false ∧ (streamOf s 4).lines = []) ∧
(∃ (s : State), regBit s trcCtl 0 = false) :=
  ⟨⟨(z |> tc (fun t => { t with streams := [(4, { Stream.reset with opn := [1, 2, 3, 4, 5, 6, 7], staged := 2 })], order := [0, 4, 4] })),
      4, by decide +kernel⟩,
⟨(z |> tc (fun t => { t with wp := 960, order := [4, 1], hubMem := [(32760, 3), (32767, 4)], streams := [(4, { Stream.reset with staged := 2, rd := 4095 })] }) |> rg (Sys2Proof.Machine.ro pTrc 0x090) 1024 |> rg (Sys2Proof.Machine.ro pTrc 0x098) 512),
      4, by decide +kernel, fun _ => rfl, settledAll _ rfl⟩,
⟨(z |> ch 7 (fun c => { c with retraining := true }) |> tc (fun t => { t with order := [4], streams := [(4, { Stream.reset with staged := 2 })] })),
      by decide +kernel⟩,
⟨(z |> cf (fun c => { c with trained := true }) |> dr (fun d => { d with capLog2 := 31 }) |> rg (Sys2Proof.Machine.ro pTrc 0x090) 1024 |> rg (Sys2Proof.Machine.ro pTrc 0x09C) 32),
      (0x1FF01FF : Reg), by decide +kernel⟩,
⟨(z |> rg (Sys2Proof.Machine.ro pTrc 0x090) 64), (1 : Reg), 2, by decide +kernel⟩,
⟨(z |> cf (fun c => { c with trained := true }) |> dr (fun d => { d with capLog2 := 31 }) |> rg (Sys2Proof.Machine.ro pTrc 0x090) 1024),
      (1 : Reg), by decide +kernel⟩,
⟨(z |> act 2 |> cf (fun c => { c with resValid := true }) |> cf (fun c => { c with trained := true }) |> dr (fun d => { d with capLog2 := 31 }) |> rg (Sys2Proof.Machine.ro pTrc 0x09C) 64),
      (1 : Reg), by decide +kernel⟩,
⟨(z |> rg (Sys2Proof.Machine.ro pTrc 0x080) 0x1FF00FF |> tc (fun t => { t with streams := [(4, { Stream.reset with opn := [1] })] })),
      (0x1FF00FC : Reg), by decide +kernel⟩,
⟨(z |> rg trcCtl 1), (0x2D : Reg), by decide +kernel⟩,
⟨(z |> act 1 |> rg (Sys2Proof.Machine.ro pGlb 0x100) 2), (3 : Reg), by decide +kernel⟩,
⟨(z |> rg (Sys2Proof.Machine.ro pTrc 0x080) 1 |> rg (Sys2Proof.Machine.ro pTrc 0x090) 1024 |> rg (Sys2Proof.Machine.ro pTrc 0x098) 512),
      (0xFFFFFFFF : Reg),
      ((streamOf (z |> rg (Sys2Proof.Machine.ro pTrc 0x080) 1 |> rg (Sys2Proof.Machine.ro pTrc 0x090) 1024 |> rg (Sys2Proof.Machine.ro pTrc 0x098) 512) 4).emit 4 0 (fun dt => dt.toNat / 256) 0 (curCycle (z |> rg (Sys2Proof.Machine.ro pTrc 0x080) 1 |> rg (Sys2Proof.Machine.ro pTrc 0x090) 1024 |> rg (Sys2Proof.Machine.ro pTrc 0x098) 512)) 0x0D 0xFFFFFFFF []),
      by decide +kernel⟩,
⟨(z |> rg (Sys2Proof.Machine.ro pTrc 0x080) 1 |> rg (Sys2Proof.Machine.ro pTrc 0x090) 1024 |> rg (Sys2Proof.Machine.ro pTrc 0x098) 512 |> tc (fun t => { t with streams := [(4, { Stream.reset with staged := 4096 })] })),
      by decide +kernel⟩,
⟨z, by decide +kernel⟩⟩

theorem wit_TraceUnlock :
(∃ (s : State), s.trc.authFails < 8 ∧ s.trc.token.length < 3) ∧
(∃ (s : State) (v : Reg), s.trc.authFails < 8 ∧ s.trc.token.length = 3 ∧ s.trc.nonceOk = true ∧ tokenKey s = true ∧
      (s.trc.token ++ [v]).flatMap (fun w => leBytes 4 w.toNat) = wantToken s) ∧
(∃ (s : State) (v : Reg), s.trc.authFails < 8 ∧ s.trc.token.length = 3 ∧
      (s.trc.nonceOk = false ∨ tokenKey s = false ∨ (s.trc.token ++ [v]).flatMap (fun w => leBytes 4 w.toNat) ≠ wantToken s)) ∧
(∃ (s : State), 8 ≤ s.trc.authFails) :=
  ⟨⟨(z |> tc (fun t => { t with token := [1, 2] })), by decide +kernel⟩,
⟨(z |> ky (fun k => { k with fuseSet := true }) |> cf (fun c => { c with resValid := true, resEnc := true }) |> tc (fun t => { t with nonceOk := true, authFails := 7, token := [0x01980F36, 0x06047862, 0x90BFB490] })),
      (0xE3953E2E : Reg), by decide +kernel⟩,
⟨(z |> ky (fun k => { k with fuseSet := true }) |> cf (fun c => { c with resValid := true, resEnc := true }) |> tc (fun t => { t with nonceOk := false, authFails := 7, token := [1, 2, 3] })),
      (1 : Reg), by decide +kernel⟩,
⟨(z |> tc (fun t => { t with authFails := 8 })), by decide +kernel⟩⟩

theorem wit_PowerStates :
(∃ (s : State), Obl.quiet s) ∧
(∃ (s : State), Obl.quiet s ∧ retainOk s = true) ∧
(∃ (s : State), s.dram.lpddr = false) ∧
(∃ (s : State), Obl.quiet s ∧ retainOk s = false) ∧
(∃ (s : State), Obl.quiet s ∧ retainOk s = true) ∧
(∃ (s : State), s.run.active = true ∧ runMode s ≠ 1 ∧ s.pwr.state = 0 ∧ s.hw.thermtrip = false) ∧
(∃ (s : State), s.pwr.entering = some 1 ∧ nothingStaged s = true ∧ (∀ n, n < 24 → (portOf s n).drive = 0)) ∧
(∃ (s : State), s.pwr.entering = some 2 ∧ nothingStaged s = true ∧ (∀ n, n < 24 → (portOf s n).drive = 0)) ∧
(∃ (s : State), s.pwr.state = 0 ∧ s.pwr.entering = none ∧ s.pwr.thenIdle = false) ∧
(∃ (s : State), s.pwr.state ≠ 0 ∧ s.pwr.entering = none ∧ s.pwr.thenIdle = false ∧ s.hw.thermtrip = false) ∧
(∃ (s : State), s.pwr.state = 2 ∧ s.pwr.entering = none ∧ s.hw.thermtrip = false) ∧
(∃ (s : State), s.pwr.state ≠ 0 ∧ s.pwr.entering = none ∧ s.pwr.thenIdle = true ∧ s.hw.thermtrip = false) ∧
(∃ (s : State), s.pwr.state ≠ 0 ∧ s.pwr.entering = none ∧ s.pwr.thenIdle = false ∧ s.hw.thermtrip = false) ∧
(∃ (s : State), s.pwr.entering.isSome = true ∧ s.pwr.state = 0 ∧ s.hw.thermtrip = false) ∧
(∃ (s : State), s.hw.thermtrip = true) ∧
(∃ (s : State), s.pwr.exiting = true ∧ s.pwr.thenIdle = false ∧ s.pwr.state = 2 ∧ s.cfg.resValid = true ∧
      s.hw.thermtrip = false ∧ (∀ k, k < 5 → (streamOf s k).lines = [])) ∧
(∃ (s : State), s.pwr.exiting = true ∧ s.pwr.thenIdle = false ∧ s.pwr.state = 1 ∧ s.hw.thermtrip = false ∧
      (∀ k, k < 5 → (streamOf s k).lines = [])) :=
  ⟨⟨(z |> (List.range 4).foldr (fun d s => rg (clkReg d) 900 s) |> pt 23 (fun p => { p with state := 9 })), by decide +kernel⟩,
⟨(z |> (List.range 4).foldr (fun d s => rg (clkReg d) 900 s) |> pt 23 (fun p => { p with state := 9 })), by decide +kernel⟩,
⟨z, by decide +kernel⟩,
⟨(z |> dr (fun d => { d with lpddr := true, capLog2 := 31 }) |> cf (fun c => { c with trained := true, slots := [(0, { st := 2, bbram := false })] }) |> rg (Sys2Proof.Machine.ro pCfg 0x0A8) 0x10001 |> rg (ddrCommon 0x084) 0),
      by decide +kernel⟩,
⟨(z |> (List.range 4).foldr (fun d s => rg (clkReg d) 900 s) |> pt 23 (fun p => { p with state := 9 })), by decide +kernel⟩,
⟨(z |> act 1), by decide +kernel⟩,
⟨(z |> (List.range 4).foldr (fun d s => rg (clkReg d) 900 s) |> pt 23 (fun p => { p with state := 9 }) |> pw (fun p => { p with entering := some 1 })),
      by decide +kernel⟩,
⟨(z |> (List.range 4).foldr (fun d s => rg (clkReg d) 900 s) |> pt 23 (fun p => { p with state := 9 }) |> pw (fun p => { p with entering := some 2 }) |> ch 7 (fun c => { c with wbuf := [] })),
      by decide +kernel⟩,
⟨(z |> rg (Sys2Proof.Machine.ro pPwr 0x100) 2), by decide +kernel⟩,
⟨(z |> pw (fun p => { p with state := 2 })), by decide +kernel⟩,
⟨(z |> pw (fun p => { p with state := 2 })), by decide +kernel⟩,
⟨(z |> pw (fun p => { p with state := 2, exiting := true, thenIdle := true })), by decide +kernel⟩,
⟨(z |> pw (fun p => { p with state := 1 }) |> hw (fun p => { p with d3hot := true })), by decide +kernel⟩,
⟨(z |> pw (fun p => { p with entering := some 2 })), by decide +kernel⟩,
⟨(z |> pw (fun p => { p with exiting := true }) |> hw (fun p => { p with thermtrip := true })), by decide +kernel⟩,
⟨(z |> act 3 |> cf (fun c => { c with resValid := true }) |> (List.range 68).foldr (fun p s => tl p (fun t => { t with retention := true, mv := 450 }) s) |> pw (fun p => { p with state := 2, exiting := true }) |> hw (fun p => { p with l1 := true })),
      by decide +kernel⟩,
⟨(z |> pw (fun p => { p with state := 1, exiting := true }) |> di 3 (fun d => { d with pllTarget := some 850 })),
      by decide +kernel⟩⟩

theorem wit_LimitsAndReferences :
(∃ (s : State) (j : Nat) (x : BitVec 16), j < 5 ∧ 8 * (tjWarn s : Int) ≤ x.toInt) ∧
(∃ (s : State) (j : Nat) (x : BitVec 16), j < 5 ∧ x.toInt < 8 * (tjWarn s : Int)) ∧
(∃ (s : State), (∀ j, j < 5 → tjNow s j < 8 * ((tjWarn s : Int) - 5))) ∧
(∃ (s : State) (j : Nat) (x : BitVec 16), j < 5 ∧ 880 ≤ x.toInt ∧ s.hw.thermtrip = false) ∧
(∃ (s : State) (v : BitVec 64) (j : Nat), endpointUp s = true ∧ j < 5 ∧
      8 * ((clampTo 60 100 (fld v 0 8)).toNat : Int) ≤ tjNow s j) ∧
(∃ (s : State), s.hw.refLost = false) ∧
(∃ (s : State) (k : Nat), k < 4 ∧ s.hw.laneRef.getLsbD k = true ∧ s.run.active = false ∧ s.run.holds = []) ∧
(∃ (k : Nat), k < 4) :=
  ⟨⟨z, 4, (880 : BitVec 16), by decide +kernel⟩,
⟨z, 4, (BitVec.ofInt 16 (-8)), by decide +kernel⟩,
⟨(z |> pw (fun p => { p with hot := true }) |> (List.range 5).foldr (fun j s => rg (tjReg j) 100 s)), by decide +kernel⟩,
⟨(z |> pt 23 (fun p => { p with state := 8 })), 4, (880 : BitVec 16), by decide +kernel⟩,
⟨(z |> rg (tjReg 4) 0x280 |> hw (fun p => { p with boot := .up })), (0 : Word), 4, by decide +kernel⟩,
⟨(z |> (List.range 4).foldr (fun d s => rg (clkReg d) 900 s) |> pt 23 (fun p => { p with state := 8 })), by decide +kernel⟩,
⟨(z |> hw (fun p => { p with laneRef := 15 }) |> pt 23 (fun p => { p with state := 8 })), 3, by decide +kernel⟩,
⟨3, by decide +kernel⟩⟩

theorem wit_Resets :
(∃ (s : State), (s.hw.thermtrip = false ∧ s.hw.porst = false) ∧ (∀ ch, Obl.buffersApart s ch)) ∧
(∃ (s : State) (v : BitVec 32),
      (s.hw.thermtrip = false ∧ fld v 16 16 = 0x5A5A ∧ v.getLsbD 0 = true ∧ s.hw.boot ≠ .held ∧ s.tap.scanned = false) ∧
      (∀ ch, Obl.buffersApart s ch)) ∧
(∃ (s : State) (v : BitVec 32), s.hw.thermtrip = false ∧ fld v 16 16 = 0x5A5A ∧ v.getLsbD 0 = true ∧ s.hw.boot ≠ .held ∧
      s.tap.scanned = true) ∧
(∃ (s : State), s.hw.thermtrip = true) ∧
(∃ (s : State), s.hw.porst = true) ∧
(∃ (s : State), s.hw.boot = .held) ∧
(∃ (v : BitVec 32), (fld v 16 16 ≠ 0x5A5A ∨ v.getLsbD 0 = false)) ∧
(∃ (s : State), s.saiga.jobs = [] ∧ s.run.active = false) ∧
(∃ (s : State), s.hw.boot = .held) ∧
(∃ (s : State), s.hw.boot ≠ .held) ∧
(∃ (s : State), s.hw.boot = .released ∧ s.hw.regulators = true) ∧
(∃ (s : State), s.hw.boot = .locked ∧ s.cfg.state = 0 ∧ s.tap.scanned = false) ∧
(∃ (s : State), s.tap.scanned = true) :=
  ⟨⟨(z |> act 3 |> rg (Sys2Proof.Machine.ro pPci 0x080) 5 |> jb (mkJ .running 8 1 0 0 []) |> ky (fun k => { k with bbSet := true, bbKey := 5 }) |> pt 23 (fun p => { p with state := 8 }) |> mk (fun m => { m with state := 2 }) |> cf (fun c => { c with trained := true }) |> dr (fun d => { d with capLog2 := 31, bytes := [(5, 7)] }) |> hw (fun p => { p with porst := false, boot := .up })),
      by decide +kernel, apartAll _ rfl⟩,
⟨(z |> act 3 |> rg (Sys2Proof.Machine.ro pPci 0x080) 5 |> jb (mkJ .running 8 1 0 0 []) |> ky (fun k => { k with bbSet := true, bbKey := 5 }) |> pt 23 (fun p => { p with state := 8 }) |> mk (fun m => { m with state := 2 }) |> hw (fun p => { p with boot := .up })),
      (0x5A5A0001 : Reg), by decide +kernel, apartAll _ rfl⟩,
⟨{ (z |> act 3 |> rg (Sys2Proof.Machine.ro pPci 0x080) 5 |> jb (mkJ .running 8 1 0 0 []) |> ky (fun k => { k with bbSet := true, bbKey := 5 }) |> pt 23 (fun p => { p with state := 8 }) |> mk (fun m => { m with state := 2 }) |> hw (fun p => { p with boot := .up })) with tap := { z.tap with scanned := true } },
      (0x5A5A0001 : Reg), by decide +kernel⟩,
⟨(z |> act 3 |> rg (Sys2Proof.Machine.ro pPci 0x080) 5 |> jb (mkJ .running 8 1 0 0 []) |> ky (fun k => { k with bbSet := true, bbKey := 5 }) |> pt 23 (fun p => { p with state := 8 }) |> mk (fun m => { m with state := 2 }) |> hw (fun p => { p with thermtrip := true })),
      by decide +kernel⟩,
⟨(z |> act 3 |> rg (Sys2Proof.Machine.ro pPci 0x080) 5 |> jb (mkJ .running 8 1 0 0 []) |> ky (fun k => { k with bbSet := true, bbKey := 5 }) |> pt 23 (fun p => { p with state := 8 }) |> mk (fun m => { m with state := 2 })),
      by decide +kernel⟩,
⟨(z |> act 3 |> rg (Sys2Proof.Machine.ro pPci 0x080) 5 |> jb (mkJ .running 8 1 0 0 []) |> ky (fun k => { k with bbSet := true, bbKey := 5 }) |> pt 23 (fun p => { p with state := 8 }) |> mk (fun m => { m with state := 2 })),
      by decide +kernel⟩,
⟨(0x5A5A0000 : Reg), by decide +kernel⟩,
⟨(z |> rg (Sys2Proof.Machine.ro pPci 0x080) 5), by decide +kernel⟩,
⟨(z |> hw (fun p => { p with boot := .held, pwrgd := false })), by decide +kernel⟩,
⟨(z |> hw (fun p => { p with boot := .up })), by decide +kernel⟩,
⟨(z |> hw (fun p => { p with boot := .released, regulators := true })), by decide +kernel⟩,
⟨(z |> hw (fun p => { p with boot := .locked })), by decide +kernel⟩,
⟨{ (z |> hw (fun p => { p with boot := .locked })) with tap := { z.tap with scanned := true } }, by decide +kernel⟩⟩

theorem wit_TestPort :
(∃ (s : State), s.cfg.state ≠ 5 ∧ s.cfg.state ≠ 6 ∧ s.hw.trst = false) ∧
(∃ (s : State), s.cfg.state ≠ 5 ∧ s.cfg.state ≠ 6 ∧ s.hw.trst = false) ∧
(∃ (s : State), s.cfg.state ≠ 5 ∧ s.cfg.state ≠ 6 ∧ s.hw.trst = false) ∧
(∃ (s : State), (s.cfg.state = 5 ∨ s.cfg.state = 6) ∧ s.hw.trst = false) ∧
(∃ (s : State), s.hw.trst = false) ∧
(∃ (s : State), s.hw.stepping = .a0) ∧
(∃ (s : State), s.hw.stepping = .b0) ∧
(∃ (s : State), s.hw.trst = false) ∧
(∃ (s : State) (pins cells : BitVec 4362) (c : Instr), s.hw.trst = true ∧
      (c = .extest pins cells ∨ c = .highz ∨ c = .clamp ∨ c = .bypass ∨ c = .samplePreload pins cells)) :=
  ⟨⟨(z |> cf (fun c => { c with state := 4 })), by decide +kernel⟩,
⟨(z |> cf (fun c => { c with state := 7 })), by decide +kernel⟩,
⟨(z |> cf (fun c => { c with state := 0 })), by decide +kernel⟩,
⟨(z |> cf (fun c => { c with state := 6 })), by decide +kernel⟩,
⟨(z |> cf (fun c => { c with state := 6 })), by decide +kernel⟩,
⟨(z |> hw (fun p => { p with stepping := .a0 })), by decide +kernel⟩,
⟨z, by decide +kernel⟩,
⟨z, by decide +kernel⟩,
⟨(z |> hw (fun p => { p with trst := true })), (9 : BitVec 4362), (5 : BitVec 4362), Instr.highz, by decide +kernel⟩⟩

theorem wit_TimebaseReadLatchesTheHighHalf :
(∃ (s : State), endpointUp s = true) ∧
(∃ (o : Nat), (o = 0x080 ∨ o = 0x084)) :=
  ⟨⟨({ z with tb := 0x123456789ABCDEF0 } |> rg (Sys2Proof.Machine.ro pTim 0x084) 5 |> up), by decide +kernel⟩,
⟨0x084, by decide +kernel⟩⟩

theorem wit_WatermarksWithinTheirLimits :
(∃ (v : BitVec 32), 8 ≤ fld v 0 6 ∧ fld v 8 6 + 8 ≤ fld v 0 6) ∧
(∃ (v : BitVec 32), (fld v 0 6 < 8 ∨ fld v 0 6 < fld v 8 6 + 8)) :=
  ⟨⟨(0x373F : Reg), by decide +kernel⟩,
⟨(0x383F : Reg), by decide +kernel⟩⟩

theorem wit_PinWordsTakeOnlyTheDelay :
(∃ (s : State) (pin : Nat), pin < 192 ∧ regBit s (ro pRim 0x048) 0 = true ∧
      getReg s (ro pRim 0x040) = BitVec.ofNat 32 (16 * pin)) ∧
(∃ (s : State) (pin : Nat), pin < 192 ∧ regBit s (ro pRim 0x048) 0 = true ∧
      getReg s (ro pRim 0x040) = BitVec.ofNat 32 (16 * pin + 4)) ∧
(∃ (pin : Nat), pin < 192) :=
  ⟨⟨(z |> rg (Sys2Proof.Machine.ro pRim 0x048) 1 |> rg (Sys2Proof.Machine.ro pRim 0x040) 3056), 191, by decide +kernel⟩,
⟨(z |> rg (Sys2Proof.Machine.ro pRim 0x048) 1 |> rg (Sys2Proof.Machine.ro pRim 0x040) 3060 |> rm (fun r => { r with state := .running })),
      191, by decide +kernel⟩,
⟨191, by decide +kernel⟩⟩

theorem wit_CompletionDoorbell :
(∃ (s : State) (q : Nat) (v : BitVec 32), q < 8 ∧ sqEn s q = true ∧
      (fld v 0 16 + 65536 - (queueOf s q).cqHead) % 65536 ≤ ((queueOf s q).cqTail + 65536 - (queueOf s q).cqHead) % 65536) ∧
(∃ (s : State) (q : Nat) (v : BitVec 32), q < 8 ∧ sqEn s q = true ∧
      ((queueOf s q).cqTail + 65536 - (queueOf s q).cqHead) % 65536 < (fld v 0 16 + 65536 - (queueOf s q).cqHead) % 65536) ∧
(∃ (s : State) (q : Nat), q < 8 ∧ sqEn s q = false) ∧
(∃ (s : State) (q : Nat), endpointUp s = true ∧ q < 8) :=
  ⟨⟨(z |> rg (sqReg 7 0) 1 |> qu 7 (fun x => { x with cqHead := 65535, cqTail := 2 })), 7, (2 : Reg), by decide +kernel⟩,
⟨(z |> rg (sqReg 7 0) 1 |> qu 7 (fun x => { x with cqHead := 65535, cqTail := 2 })), 7, (3 : Reg), by decide +kernel⟩,
⟨z, 7, by decide +kernel⟩,
⟨(z |> rg (sqReg 7 0) 1 |> qu 7 (fun x => { x with cqHead := 65535, cqTail := 2 }) |> up), 7, by decide +kernel⟩⟩

theorem wit_StepRunsTheFrontCommand :
(∃ (c : Instr) (s : State) (rest : List Instr), s.pending = c :: rest) ∧
(∃ (s : State), s.pending = [] ∧ s.hw.refLost = false ∧ s.hw.boot = .up ∧ rimClks s = 0 ∧ s.saiga.fresh = [] ∧
      (∀ j ∈ s.saiga.jobs, j.phase ≠ .inContext)) ∧
(∃ (s : State), s.pending = [] ∧ s.hw.refLost = false ∧ s.hw.boot = .up) :=
  ⟨⟨Instr.tamper, ({ z with pending := [Instr.tamper] } : State), ([] : List Instr), by decide +kernel⟩,
⟨(z |> hw (fun h => { h with boot := .up })), by decide +kernel⟩,
⟨(z |> hw (fun h => { h with boot := .up }) |> rm (fun r => { r with state := .running, clkRun := 3 })), by decide +kernel⟩⟩

end Tests
end Sys2Proof
end

section
/-!
SUPPORT. Writes to registers with limits (R466, R473): what a software write leaves in the fields that it may write, and what
a discarded one leaves.
-/
namespace Sys2Proof.Machine

/-! ### Fields of a software write -/

/-- A field of a word is the bits that `extractLsb'` takes from it. -/
theorem fld_eq_extractLsb' {n : Nat} (w : BitVec n) (lo len : Nat) : fld w lo len = (w.extractLsb' lo len).toNat := by
  simp [fld, BitVec.extractLsb'_toNat, Nat.shiftRight_eq_div_pow]

/-- A field that lies within the mask of the writable bits takes the written value. -/
theorem fld_masked {old v m : Reg} {lo len : Nat} (hm : ∀ i < len, m.getLsbD (lo + i) = true) :
    fld ((old &&& ~~~m) ||| (v &&& m)) lo len = fld v lo len := by
  rw [fld_eq_extractLsb', fld_eq_extractLsb']
  congr 1
  ext i hi
  have hbit := hm i hi
  have hlt : lo + i < 32 := BitVec.lt_of_getLsbD hbit
  rw [BitVec.getLsbD_eq_getElem hlt] at hbit
  simp [BitVec.getElem_extractLsb', hbit, hlt]

/-- A software write of a register puts its value into every field that software writes (R466). -/
theorem regF_writeRW_same (s : State) {a lo len : Nat} (v : Reg) (hm : ∀ i < len, (rwMask a).getLsbD (lo + i) = true) :
    regF (writeRW s a v) a lo len = fld v lo len := by
  unfold regF writeRW
  rw [getReg_setReg_same, fld_masked hm]

@[simp] theorem regF_settle (s : State) (a lo len : Nat) : regF (settle s) a lo len = regF s a lo len := by
  simp [regF]

/-- A write of one register leaves every other as it is. -/
theorem onlyRegs_setReg (s : State) (a : Nat) (v : Reg) : OnlyRegs [a] s (setReg s a v) :=
  fun _ hb => getReg_setReg_ne s a v (by simpa using hb)

/-! ### Discarded writes -/

/-- The registers that an event's sticky bit stands in, after it (R473). -/
theorem getReg_stick (s : State) (pg b a : Nat) :
    getReg (stick s pg b) a =
      if a = ro pg 0x014 ∨ a = ro pg 0x024 then getReg s a ||| (1 <<< b) else getReg s a := by
  have hne : ro pg 0x024 ≠ ro pg 0x014 := by unfold ro; omega
  unfold stick orReg
  rw [getReg_setReg, getReg_setReg, getReg_setReg]
  by_cases h24 : a = ro pg 0x024
  · subst h24; simp [hne]
  · by_cases h14 : a = ro pg 0x014
    · subst h14; simp [h24]
    · simp [h14, h24]

/-- A discarded write sets WR_REFUSED of its page and changes nothing else (R473). -/
theorem refused_refuse (s : State) (pg : Nat) : Refused pg s (refuse s pg) := by
  refine ⟨⟨?_, ?_⟩, fun a ha => ?_, only_stick _ _ _⟩
  · simp [refuse, getReg_stick]
  · simp [refuse, getReg_stick]
  · simp only [List.mem_cons, List.not_mem_nil, or_false] at ha
    simp [refuse, getReg_stick, ha]

/-- A discarded write stays one when the interrupt vectors have followed it (R375): they are no part of a frame. -/
theorem refused_settle {pg : Nat} {s u : State} (h : Refused pg s u) : Refused pg s (settle u) := by
  obtain ⟨⟨hstat, hirq⟩, hregs, honly⟩ := h
  exact ⟨⟨by simpa using hstat, by simpa using hirq⟩, fun a ha => by simpa using hregs a ha, only_settle.2 honly⟩

end Sys2Proof.Machine
end

section
/-!
SUPPORT. The queues of a DRAM channel (R212 to R214): what leaves its waiting requests alone, and what a drain takes from its
write buffer.
-/
namespace Sys2Proof.Machine

/-- The requests that a channel's controller holds: its reads that wait, and its buffered writes. -/
def Chan.queues (c : Chan) : List DReq × List DReq := (c.readQ, c.wbuf)

/-- No request that the controller holds is past the age limit (R214). -/
def Chan.NoneAged (c : Chan) : Prop := ∀ r ∈ c.queues.1 ++ c.queues.2, r.aged = false

/-! ### What leaves the queues alone -/

/-- Bookkeeping of a channel that keeps its queues keeps those of every channel. -/
theorem queues_putChan {s : State} {k : Nat} {x : Chan} (ch : Nat) (h : x.queues = (chanOf s k).queues) :
    (chanOf (putChan s k x) ch).queues = (chanOf s ch).queues := by
  rw [chanOf_putChan]
  split
  · subst_vars; exact h
  · rfl

@[simp] theorem queues_activate (s : State) (line ch : Nat) :
    (chanOf (activate s line) ch).queues = (chanOf s ch).queues := by
  unfold activate
  simp only [apply_ite (chanOf · ch), chanOf_bump, ite_self]
  rw [queues_putChan]
  rfl

@[simp] theorem chanOf_errAddr (s : State) (line kind dev ch : Nat) : chanOf (errAddr s line kind dev) ch = chanOf s ch := rfl

@[simp] theorem queues_corrected (s : State) (line kind dev ch : Nat) :
    (chanOf (corrected s line kind dev) ch).queues = (chanOf s ch).queues := by
  unfold corrected
  dsimp only
  split
  · rfl
  · split
    · rw [chanOf_logEvent, queues_putChan, chanOf_errAddr, chanOf_bump]; rfl
    · rw [queues_putChan, chanOf_errAddr, chanOf_bump]; rfl

@[simp] theorem chanOf_dramUe (s : State) (line ch : Nat) : chanOf (dramUe s line) ch = chanOf s ch := by
  simp [dramUe, uncorrectable]

@[simp] theorem queues_eccRead (s : State) (line ch : Nat) :
    (chanOf (eccRead s line) ch).queues = (chanOf s ch).queues := by
  change (chanOf (eccReport s line (lineErr s line)) ch).queues = _
  unfold eccReport
  split
  · rfl
  · exact queues_corrected s line _ _ ch
  · rw [chanOf_dramUe]

/-- Writing a line back touches the memory devices only. -/
@[simp] theorem writeBack_chans (m : Dram) (r : DReq) : (writeBack m r).chans = m.chans := by
  unfold writeBack
  generalize List.range 64 = l
  induction l generalizing m with
  | nil => rfl
  | cons k l ih =>
    rw [List.foldl_cons, ih]
    split
    · rfl
    · rfl

theorem strikeOne_chans (m : Dram) (e : LineErr) : (m.strikeOne e).chans = m.chans := by
  unfold Dram.strikeOne
  dsimp only
  split
  · rfl
  · rfl

/-- Errors that strike lines leave the controllers alone. -/
@[simp] theorem chanOf_strike (s : State) (es : List LineErr) (ch : Nat) : chanOf (strike s es) ch = chanOf s ch := by
  have hchans : ∀ m : Dram, (es.foldl Dram.strikeOne m).chans = m.chans := by
    induction es with
    | nil => exact fun _ => rfl
    | cons e es ih => exact fun m => (ih _).trans (strikeOne_chans m e)
  unfold chanOf strike
  rw [hchans]

@[simp] theorem regF_strike (s : State) (es : List LineErr) (a lo len : Nat) :
    regF (strike s es) a lo len = regF s a lo len := rfl

/-! ### What a drain takes -/

/-- Draining buffered write `i` takes it out of its channel's buffer, and leaves the reads that wait. -/
theorem queues_drainOne (s : State) (ch i : Nat) :
    (chanOf (drainOne s ch i) ch).queues = ((chanOf s ch).readQ, (chanOf s ch).wbuf.eraseIdx i) := by
  unfold drainOne
  dsimp only
  split
  case h_1 hnone => rw [List.eraseIdx_of_length_le (by simpa using hnone)]; rfl
  case h_2 r _ =>
    have hmem : ∀ u : State,
        chanOf { u with dram := (writeBack u.dram r).mend r.line } ch = chanOf u ch :=
      fun u => congrArg (Tbl.get Chan.reset · ch) (writeBack_chans u.dram r)
    rw [hmem]
    split
    · rw [queues_activate, chanOf_putChan_same]; rfl
    · rw [queues_eccRead, queues_activate, chanOf_putChan_same]; rfl

/-- No request waits for an older one while none is past the age limit. -/
theorem heldBack_of_noneAged {c : Chan} (h : c.NoneAged) (r : DReq) : c.heldBack r = false := by
  have hfresh : ∀ x ∈ c.readQ ++ c.wbuf, x.aged = false := h
  simp only [Chan.heldBack, List.any_eq_false]
  intro x hx
  simp [hfresh x hx]

/-- While no request is past the age limit, the next buffered write drains. -/
theorem drainNext_of_noneAged {s : State} {ch : Nat} (h : (chanOf s ch).NoneAged) (i : Nat) :
    drainNext s ch i = drainOne s ch i := by
  unfold drainNext
  dsimp only
  split
  case h_1 hnone => simp [drainOne, hnone]
  case h_2 r _ => simp [heldBack_of_noneAged h r]

/-- Draining a buffered write makes no request older. -/
theorem noneAged_drainOne {s : State} {ch : Nat} (h : (chanOf s ch).NoneAged) (i : Nat) :
    (chanOf (drainOne s ch i) ch).NoneAged := by
  unfold Chan.NoneAged
  rw [queues_drainOne]
  exact fun r hr => h r ((List.Sublist.append_left (List.eraseIdx_sublist _ _) _).subset hr)

/-- A drain with fuel for every line beyond `low` ends with `low` lines, while no request is past the age limit (R214). -/
theorem wbuf_length_drainTo {ch low : Nat} (n : Nat) {s : State} (haged : (chanOf s ch).NoneAged)
    (hlow : low ≤ (chanOf s ch).wbuf.length) (hfuel : (chanOf s ch).wbuf.length ≤ low + n) :
    (chanOf (drainTo ch low n s) ch).wbuf.length = low := by
  induction n generalizing s with
  | zero => exact Nat.le_antisymm hfuel hlow
  | succ n ih =>
    unfold drainTo
    split
    case isTrue hle => exact Nat.le_antisymm hle hlow
    case isFalse hgt =>
      rw [drainNext_of_noneAged haged]
      have hlen : (chanOf (drainOne s ch 0) ch).wbuf.length = (chanOf s ch).wbuf.length - 1 := by
        have hq : (chanOf (drainOne s ch 0) ch).wbuf = (chanOf s ch).wbuf.eraseIdx 0 :=
          congrArg Prod.snd (queues_drainOne s ch 0)
        rw [hq, List.length_eraseIdx_of_lt (by omega)]
      exact ih (noneAged_drainOne haged 0) (by omega) (by omega)

/-! ### The drain decision -/

/-- Below WM.HIGH nothing drains (R214). -/
theorem writeDrain_below_high {s : State} {ch : Nat} (h : (chanOf s ch).wbuf.length < regF s (ddrCommon 0x08C) 0 6) :
    writeDrain ch false s = s := by
  simp [writeDrain, h]

/-- At WM.HIGH or above the channel drains to WM.LOW, while no request is past the age limit (R214). -/
theorem wbuf_length_writeDrain {s : State} {ch : Nat}
    (hwm : regF s (ddrCommon 0x08C) 8 6 ≤ regF s (ddrCommon 0x08C) 0 6)
    (h : regF s (ddrCommon 0x08C) 0 6 ≤ (chanOf s ch).wbuf.length) (haged : (chanOf s ch).NoneAged) :
    (chanOf (writeDrain ch false s) ch).wbuf.length = regF s (ddrCommon 0x08C) 8 6 := by
  simp only [writeDrain, Bool.false_eq_true, if_false, if_pos h]
  exact wbuf_length_drainTo _ (by rwa [chanOf_bump]) (by rw [chanOf_bump]; omega) (by rw [chanOf_bump]; omega)

/-- A drain decision below WM.HIGH, with no error that strikes a line, changes nothing. -/
theorem answers_writeDrain_below_high {s : State} {ch : Nat}
    (h : (chanOf s ch).wbuf.length < regF s (ddrCommon 0x08C) 0 6) :
    Answers (.writeDrain ch false []) s (Only [] s) :=
  answers_of (congrArg finish (writeDrain_below_high h)) (only_settle.2 (only_refl [] s))

/-- A drain decision at WM.HIGH or above, whatever errors strike lines before it, leaves WM.LOW lines. -/
theorem answers_writeDrain_from_high {s : State} {ch : Nat} (es : List LineErr)
    (hwm : regF s (ddrCommon 0x08C) 8 6 ≤ regF s (ddrCommon 0x08C) 0 6)
    (h : regF s (ddrCommon 0x08C) 0 6 ≤ (chanOf s ch).wbuf.length) (haged : (chanOf s ch).NoneAged) :
    Answers (.writeDrain ch false es) s (fun u => (chanOf u ch).wbuf.length = regF s (ddrCommon 0x08C) 8 6) := by
  refine answers_of rfl ?_
  rw [chanOf_settle, wbuf_length_writeDrain, regF_strike]
  · simpa using hwm
  · simpa using h
  · simpa using haged

/-! ### WM -/

/-- Both watermarks are bits that software writes. -/
theorem rwMask_wm : rwMask (ddrCommon 0x08C) = 0x3F3F := by decide

theorem wmWrite_within {v : Reg} (hhigh : 8 ≤ fld v 0 6) (hlow : fld v 8 6 + 8 ≤ fld v 0 6) (s : State) :
    wmWrite v s = writeRW s (ddrCommon 0x08C) v :=
  if_neg (by omega)

theorem wmWrite_outside {v : Reg} (h : fld v 0 6 < 8 ∨ fld v 0 6 < fld v 8 6 + 8) (s : State) :
    wmWrite v s = refuse s (pDdr 8) :=
  if_pos h

/-- Settles O55.  Within the limits of R215 the write is a plain one of both fields, and they alone decide the next drain;
outside them it is discarded. -/
theorem watermarksWithinTheirLimits : Obligations.WatermarksWithinTheirLimits := by
  refine ⟨fun s v hhigh hlow => ?within, fun s v hout => ?outside⟩
  case within =>
    refine answers_of (congrArg finish (wmWrite_within hhigh hlow s)) ?_
    have hHigh : regF (settle (writeRW s (ddrCommon 0x08C) v)) (ddrCommon 0x08C) 0 6 = fld v 0 6 := by
      rw [regF_settle, regF_writeRW_same s v (by rw [rwMask_wm]; decide)]
    have hLow : regF (settle (writeRW s (ddrCommon 0x08C) v)) (ddrCommon 0x08C) 8 6 = fld v 8 6 := by
      rw [regF_settle, regF_writeRW_same s v (by rw [rwMask_wm]; decide)]
    refine ⟨hHigh, hLow, fun a ha => ?_, only_settle.2 (only_setReg s _ _), fun ch es hlt hes => ?_,
      fun ch es hge haged => ?_⟩
    · rw [getReg_settle]
      exact onlyRegs_setReg s _ _ a ha
    · subst hes
      exact answers_writeDrain_below_high (by rwa [hHigh])
    · rw [← hLow]
      exact answers_writeDrain_from_high es (by omega) (by rwa [hHigh]) haged
  case outside =>
    refine answers_of (congrArg finish (wmWrite_outside hout s)) ?_
    exact refused_settle (refused_refuse s (pDdr 8))

end Sys2Proof.Machine
end

section
/-!
SUPPORT. The delay lines of the pins (R256, R257) and the words of the RIM page's indirect space (R267, R268): what a write of
DELAY changes and leaves, and which word of a pin a write of IND_DATA reaches.
-/
namespace Sys2Proof.Machine

/-! ### Delay lines -/

@[simp] theorem delayOf_settle (s : State) (pin : Nat) : delayOf (settle s) pin = delayOf s pin := by simp [delayOf]

@[simp] theorem delayOf_putDelay_same (s : State) (pin : Nat) (x : DelayLine) : delayOf (putDelay s pin x) pin = x :=
  Tbl.get_set_same _ x _ pin

theorem delayOf_putDelay_ne (s : State) {pin k : Nat} (x : DelayLine) (h : k ≠ pin) :
    delayOf (putDelay s pin x) k = delayOf s k :=
  Tbl.get_set_ne _ x _ h

@[simp] theorem regBit_putDelay (s : State) (pin : Nat) (x : DelayLine) (a b : Nat) :
    regBit (putDelay s pin x) a b = regBit s a b := rfl

theorem only_putDelay (s : State) (pin : Nat) (x : DelayLine) : Only [.rim] s (putDelay s pin x) := by
  intro y hy
  have hsame := same_refl s y
  cases y with
  | rim => simp at hy
  | _ => exact hsame

theorem delayWrite_of_pin {pin : Nat} (hpin : pin < 192) (v : Reg) (s : State) :
    delayWrite pin v s = putDelay s pin
      { target := fld v 0 10, tap := if s.rim.state = .running then (delayOf s pin).tap else fld v 0 10 } :=
  if_neg (by omega)

/-- The pin's target is the value written, its tap too unless the rim is RUNNING, and nothing else changed (R257, R268). -/
def DelaySet (pin : Nat) (v : Reg) (s t : State) : Prop :=
  (delayOf t pin).target = fld v 0 10 ∧
  (delayOf t pin).tap = (if s.rim.state = .running then (delayOf s pin).tap else fld v 0 10) ∧
  (∀ k, k ≠ pin → delayOf t k = delayOf s k) ∧ t.rim = { s.rim with delay := t.rim.delay } ∧ Only [.rim] s t

theorem delaySet_delayWrite {pin : Nat} (hpin : pin < 192) (v : Reg) (s : State) :
    DelaySet pin v s (delayWrite pin v s) := by
  rw [delayWrite_of_pin hpin]
  exact ⟨by simp, by simp, fun k hk => delayOf_putDelay_ne s _ hk, rfl, only_putDelay s pin _⟩

theorem delaySet_settle {pin : Nat} {v : Reg} {s u : State} (h : DelaySet pin v s u) : DelaySet pin v s (settle u) := by
  obtain ⟨htarget, htap, hothers, hrim, honly⟩ := h
  exact ⟨by simpa using htarget, by simpa using htap, by simpa using hothers, by simpa using hrim, only_settle.2 honly⟩

/-! ### The words of a pin -/

/-- With NOINC a write of IND_DATA is the write of the addressed word alone (R475). -/
theorem indWrite_of_noinc {s u : State} {pg a : Nat} {v : Reg} (hind : hasInd pg = true)
    (haddr : getReg s (ro pg 0x040) = BitVec.ofNat 32 a) (ha : a < 2 ^ 32) (hput : indPut s pg a v = u)
    (hnoinc : regBit u (ro pg 0x048) 0 = true) : indWrite pg v s = u := by
  have htoNat : (getReg s (indAddrReg pg)).toNat = a := by
    rw [indAddrReg, haddr, BitVec.toNat_ofNat, Nat.mod_eq_of_lt ha]
  simp [indWrite, indAdvance, hind, htoNat, hput, hnoinc]

/-- Word 0 of a pin is not for software to write (R268). -/
theorem indPut_pinWord {pin : Nat} (hpin : pin < 192) (v : Reg) (s : State) :
    indPut s pRim (16 * pin) v = refuse s pRim := by
  have hspace : 16 * pin / 2 ^ 28 = 0 := by omega
  have hoff : 16 * pin % 2 ^ 28 = 16 * pin := by omega
  have hword : 16 * pin / 4 % 4 = 0 := by omega
  change rimPut s (16 * pin / 2 ^ 28) (16 * pin % 2 ^ 28) v = _
  rw [hspace, hoff, rimPut, if_neg (by omega), hword]
  rfl

/-- Word 1 of a pin is its DELAY (R267). -/
theorem indPut_delayWord {pin : Nat} (hpin : pin < 192) (v : Reg) (s : State) :
    indPut s pRim (16 * pin + 4) v = delayWrite pin v s := by
  have hspace : (16 * pin + 4) / 2 ^ 28 = 0 := by omega
  have hoff : (16 * pin + 4) % 2 ^ 28 = 16 * pin + 4 := by omega
  have hword : (16 * pin + 4) / 4 % 4 = 1 := by omega
  have hpinOf : (16 * pin + 4) / 16 = pin := by omega
  change rimPut s ((16 * pin + 4) / 2 ^ 28) ((16 * pin + 4) % 2 ^ 28) v = _
  rw [hspace, hoff, rimPut, if_neg (by omega), hword, hpinOf]
  rfl

theorem indWrite_pinWord {s : State} {pin : Nat} (hpin : pin < 192) (v : Reg) (hnoinc : regBit s (ro pRim 0x048) 0 = true)
    (haddr : getReg s (ro pRim 0x040) = BitVec.ofNat 32 (16 * pin)) : indWrite pRim v s = refuse s pRim := by
  refine indWrite_of_noinc (by decide) haddr (by omega) (indPut_pinWord hpin v s) ?_
  have hkept : getReg (refuse s pRim) (ro pRim 0x048) = getReg s (ro pRim 0x048) :=
    (refused_refuse s pRim).2.1 _ (by decide)
  rwa [regBit, hkept]

theorem indWrite_delayWord {s : State} {pin : Nat} (hpin : pin < 192) (v : Reg)
    (hnoinc : regBit s (ro pRim 0x048) 0 = true) (haddr : getReg s (ro pRim 0x040) = BitVec.ofNat 32 (16 * pin + 4)) :
    indWrite pRim v s = delayWrite pin v s := by
  refine indWrite_of_noinc (by decide) haddr (by omega) (indPut_delayWord hpin v s) ?_
  rwa [delayWrite_of_pin hpin, regBit_putDelay]

/-- Settles O56.  Of a pin's words IND_DATA reaches the refusal at word 0 and the delay write at word 1, and DELAY_WRITE is
that delay write itself, so both answer with the delay set. -/
theorem pinWordsTakeOnlyTheDelay : Obligations.PinWordsTakeOnlyTheDelay := by
  refine ⟨fun s pin v hpin hnoinc haddr => ?pinWord, fun s pin v hpin hnoinc haddr => ?delayWord,
    fun s pin v hpin => ?delayWrite⟩
  case pinWord =>
    exact answers_of (congrArg finish (indWrite_pinWord hpin v hnoinc haddr)) (refused_settle (refused_refuse s pRim))
  case delayWord =>
    exact answers_of (congrArg finish (indWrite_delayWord hpin v hnoinc haddr))
      (delaySet_settle (delaySet_delayWrite hpin v s))
  case delayWrite =>
    exact answers_of rfl (delaySet_settle (delaySet_delayWrite hpin v s))

end Sys2Proof.Machine
end

section
/-!
SUPPORT. Accesses of one BAR0 register over the bus (R463, R467), and the timebase registers of the TIM page (R315): what a
read of TB_LO latches, what TB_HI then shows, and that software writes neither.
-/
namespace Sys2Proof.Machine

/-! ### Accesses of one register -/

@[simp] theorem answer_bus (s : State) (w : Word) :
    (answer s w).bus = { data := w, bytes := [], poisoned := false } := rfl

@[simp] theorem getReg_answer (s : State) (w : Word) (a : Nat) : getReg (answer s w) a = getReg s a := rfl

/-- What a read returns to the host stands on the bus, and nowhere else. -/
theorem only_answer (s : State) (w : Word) : Only [.bus] s (answer s w) := by
  intro x hx
  have hsame := same_refl s x
  cases x with
  | bus => simp at hx
  | _ => exact hsame

@[simp] theorem endpointUp_answer (s : State) (w : Word) : endpointUp (answer s w) = endpointUp s := rfl

@[simp] theorem endpointUp_setReg (s : State) (a : Nat) (v : Reg) : endpointUp (setReg s a v) = endpointUp s := rfl

@[simp] theorem endpointUp_settle (s : State) : endpointUp (settle s) = endpointUp s := by simp [endpointUp]

/-- An aligned 4-byte read of BAR0 is the read of one register (R463). -/
theorem busRead_four {s : State} {off : Nat} (hup : endpointUp s = true) (halign : off % 4 = 0) (hbar : off < bar4) :
    busRead off 4 s = answer (readOne s off).2 (BitVec.ofNat 64 (readOne s off).1.toNat) := by
  simp [busRead, hup, goodAccess, halign, readAt, hbar]

/-- An aligned 4-byte write of BAR0 is the write of one register, if the endpoint is up (R463, R464). -/
theorem busWrite_four {off : Nat} (v : Word) (s : State) (halign : off % 4 = 0) (hbar : off < bar4) :
    busWrite off 4 v s = if endpointUp s then writeOne off (lo32 v.toNat) s else s := by
  cases hup : endpointUp s <;> simp [busWrite, hup, goodAccess, halign, writeAt, hbar]

/-- A register that is not voted, clears no bit when read and is not computed shows what it holds (R467, R468). -/
theorem plainRead_of_stored {a : Nat} (s : State) (hvoted : votedReg a = false) (hrc : rcMask a = 0)
    (hlive : liveReg s a = none) : plainRead s a = (getReg s a, s) := by
  have hvote : voteReg s a = s := by simp [voteReg, voteFields, hvoted]
  simp [plainRead, hvote, hrc, regValue, hlive]

/-! ### The timebase registers -/

theorem readOne_tbLo (s : State) : readOne s (ro pTim 0x080) = tbRead s := rfl

/-- TB_HI shows what was latched into it, and stays so. -/
theorem readOne_tbHi (s : State) : readOne s (ro pTim 0x084) = (getReg s (ro pTim 0x084), s) :=
  plainRead_of_stored s (by decide) (by decide) rfl

/-- From 0x080 on the TIM page takes no write: TB_LO and TB_HI are RO (R315). -/
theorem writeOne_tim {o : Nat} (v : Reg) (s : State) (hlo : 0x80 ≤ o) (hhi : o < 4096) :
    writeOne (ro pTim o) v s = s := by
  have hpage : ro pTim o / 4096 = pTim := by unfold ro; omega
  have hoff : ro pTim o % 4096 = o := by unfold ro; omega
  have hkind : pageKind pTim = .tim := rfl
  simp [writeOne, pagePut, hpage, hoff, hkind, Nat.not_lt.2 hlo]

theorem busRead_tbLo {s : State} (hup : endpointUp s = true) :
    busRead (ro pTim 0x080) 4 s =
      answer (setReg s (ro pTim 0x084) (hi32 s.tb.toNat)) (BitVec.ofNat 64 (s.tb.toNat % 2 ^ 32)) := by
  rw [busRead_four hup (by decide) (by decide), readOne_tbLo, tbRead, lo32, BitVec.toNat_ofNat]

theorem busRead_tbHi {s : State} (hup : endpointUp s = true) :
    busRead (ro pTim 0x084) 4 s = answer s (BitVec.ofNat 64 (getReg s (ro pTim 0x084)).toNat) := by
  rw [busRead_four hup (by decide) (by decide), readOne_tbHi]

theorem busWrite_tim {o : Nat} (v : Word) (s : State) (hlo : 0x80 ≤ o) (hhi : o < 4096) (halign : o % 4 = 0) :
    busWrite (ro pTim o) 4 v s = s := by
  have haligned : ro pTim o % 4 = 0 := by unfold ro; omega
  have hbar : ro pTim o < bar4 := by unfold ro bar4 pTim; omega
  rw [busWrite_four v s haligned hbar, writeOne_tim _ s hlo hhi, ite_self]

/-- The upper half of a 64-bit word fits a register. -/
theorem hi32_toNat (w : Word) : (hi32 w.toNat).toNat = w.toNat / 2 ^ 32 := by
  rw [hi32, BitVec.toNat_ofNat, Nat.mod_eq_of_lt (by omega)]

/-- Settles O54.  The read of TB_LO is a write of TB_HI with the high half and an answer of the low one; TB_HI is a register
that shows what it holds, and a write of either reaches nothing. -/
theorem timebaseReadLatchesTheHighHalf : Obligations.TimebaseReadLatchesTheHighHalf := by
  refine ⟨fun s hup => ?read, fun s o v ho => ?write, rfl, by decide⟩
  case read =>
    refine answers_of (congrArg finish (busRead_tbLo hup)) ?_
    have hlatch := only_setReg s (ro pTim 0x084) (hi32 s.tb.toNat)
    have honly : Only [.bus, .regs, .scr] s _ :=
      only_trans (only_mono (by simp) hlatch)
        (only_mono (by simp) (only_answer _ (BitVec.ofNat 64 (s.tb.toNat % 2 ^ 32))))
    refine ⟨⟨by simp, only_settle.2 honly⟩, ?_, fun a ha => ?_, ?_⟩
    · simp [hi32]
    · simpa using onlyRegs_setReg s (ro pTim 0x084) (hi32 s.tb.toNat) a ha
    · refine answers_of (congrArg finish (busRead_tbHi (by simpa using hup))) ⟨?_, only_settle.2 (only_answer _ _)⟩
      rw [settle_bus, answer_bus, getReg_settle, getReg_answer, getReg_setReg_same, hi32_toNat]
  case write =>
    refine answers_of (congrArg finish (busWrite_tim v s (by omega) (by omega) (by omega))) ?_
    exact only_settle.2 (only_refl [] s)

end Sys2Proof.Machine
end

section
/-!
SUPPORT. What an event leaves in the log and in the registers (R373, R474), and the doorbells of a queue (R350, R351): which
of a CQ doorbell's three outcomes a write has, and what a read of one answers.
-/
namespace Sys2Proof.Machine

/-! ### Registers that change -/

theorem onlyRegs_trans {as : List Nat} {s t u : State} (h : OnlyRegs as s t) (k : OnlyRegs as t u) : OnlyRegs as s u :=
  fun a ha => (k a ha).trans (h a ha)

theorem onlyRegs_mono {as bs : List Nat} {s t : State} (hsub : as ⊆ bs) (h : OnlyRegs as s t) : OnlyRegs bs s t :=
  fun a ha => h a fun hmem => ha (hsub hmem)

theorem onlyRegs_settle {as : List Nat} {s u : State} : OnlyRegs as s (settle u) ↔ OnlyRegs as s u := by
  simp [OnlyRegs]

theorem onlyRegs_orReg (s : State) (a : Nat) (m : Reg) : OnlyRegs [a] s (orReg s a m) := onlyRegs_setReg s a _

theorem onlyRegs_bump (s : State) (a n : Nat) : OnlyRegs [a] s (bump s a n) := onlyRegs_setReg s a _

theorem onlyRegs_blkErr (s : State) (pg code n : Nat) : OnlyRegs [ro pg 0x030] s (blkErr s pg code n) :=
  onlyRegs_setReg s (ro pg 0x030) _

/-! ### Events -/

/-- The newest entry of the log is the event just logged, also when the log was full (R373). -/
theorem evl_getLast?_logEvent (s : State) (pg code : Nat) (detail : Reg) :
    (logEvent s pg code detail).evl.log.getLast? = some { time := s.tb, code := code, page := pg, detail := detail } := by
  unfold logEvent
  dsimp only
  split
  case isTrue hroom => simp
  case isFalse hfull => simp

/-- An event counts as an error of its page, and into a full log as a lost one: no register else changes (R373, R474). -/
theorem onlyRegs_logEvent (s : State) (pg code : Nat) (detail : Reg) :
    OnlyRegs [ro pg 0x030, ro pEvl 0x094, ro pEvl 0x098] s (logEvent s pg code detail) := by
  have herr : OnlyRegs [ro pg 0x030, ro pEvl 0x094, ro pEvl 0x098] s
      (if pageKind pg = .til then s else blkErr s pg code 1) := by
    split
    · exact fun _ _ => rfl
    · exact onlyRegs_mono (by simp) (onlyRegs_blkErr s pg code 1)
  unfold logEvent
  dsimp only
  split
  case isTrue hroom => exact herr
  case isFalse hfull =>
    exact onlyRegs_trans herr (onlyRegs_trans (onlyRegs_mono (by simp) (onlyRegs_bump _ (ro pEvl 0x098) 1))
      (onlyRegs_mono (by simp) (onlyRegs_orReg _ (ro pEvl 0x094) 2)))

/-! ### Doorbells that are discarded -/

theorem only_dbStat (s : State) (q b : Nat) : Only [.regs, .scr] s (dbStat s q b) := only_setReg s (sqReg q 0x24) _

theorem onlyRegs_dbStat (s : State) (q b : Nat) : OnlyRegs [sqReg q 0x24] s (dbStat s q b) :=
  onlyRegs_orReg s (sqReg q 0x24) _

theorem getReg_dbStat (s : State) (q b : Nat) :
    getReg (dbStat s q b) (sqReg q 0x24) = getReg s (sqReg q 0x24) ||| place 32 b 1 1 :=
  getReg_setReg_same s (sqReg q 0x24) _

/-- DB_STAT of a queue is none of the registers in which an event shows. -/
theorem dbStat_notMem_logRegs {q : Nat} (hq : q < 8) : sqReg q 0x24 ∉ [ro pJob 0x030, ro pEvl 0x094, ro pEvl 0x098] := by
  simp only [List.mem_cons, List.not_mem_nil, or_false, sqReg, ro, pJob, pEvl]
  omega

theorem only_badDoorbell (s : State) (q b code v : Nat) : Only [.regs, .scr, .evl] s (badDoorbell s q b code v) :=
  only_trans (only_mono (by simp) (only_dbStat s q b)) (only_logEvent _ _ _ _)

theorem onlyRegs_badDoorbell (s : State) (q b code v : Nat) :
    OnlyRegs [sqReg q 0x24, ro pJob 0x030, ro pEvl 0x094, ro pEvl 0x098] s (badDoorbell s q b code v) :=
  onlyRegs_trans (onlyRegs_mono (by simp) (onlyRegs_dbStat s q b)) (onlyRegs_mono (by simp) (onlyRegs_logEvent _ _ _ _))

/-- A discarded doorbell sets its bit of DB_STAT; its event leaves DB_STAT alone. -/
theorem getReg_badDoorbell {q : Nat} (hq : q < 8) (s : State) (b code v : Nat) :
    getReg (badDoorbell s q b code v) (sqReg q 0x24) = getReg s (sqReg q 0x24) ||| place 32 b 1 1 := by
  rw [badDoorbell, onlyRegs_logEvent _ _ _ _ _ (dbStat_notMem_logRegs hq), getReg_dbStat]

theorem evl_getLast?_badDoorbell (s : State) (q b code v : Nat) :
    (badDoorbell s q b code v).evl.log.getLast? =
      some { time := s.tb, code := code, page := pJob, detail := place 32 0 3 q ||| place 32 16 16 v } :=
  evl_getLast?_logEvent (dbStat s q b) pJob code _

/-! ### The three outcomes of a CQ doorbell -/

theorem ringCq_disabled {s : State} {q : Nat} (hen : sqEn s q = false) (v : Reg) : ringCq q v s = dbStat s q 3 := by
  simp [ringCq, hen]

theorem ringCq_within {s : State} {q : Nat} {v : Reg} (hen : sqEn s q = true)
    (h : (fld v 0 16 + 65536 - (queueOf s q).cqHead) % 65536 ≤
      ((queueOf s q).cqTail + 65536 - (queueOf s q).cqHead) % 65536) :
    ringCq q v s = putQueue s q { queueOf s q with cqHead := fld v 0 16 } := by
  simp [ringCq, hen, Nat.not_lt.2 h]

theorem ringCq_beyond {s : State} {q : Nat} {v : Reg} (hen : sqEn s q = true)
    (h : ((queueOf s q).cqTail + 65536 - (queueOf s q).cqHead) % 65536 <
      (fld v 0 16 + 65536 - (queueOf s q).cqHead) % 65536) :
    ringCq q v s = badDoorbell s q 2 0x0082 (fld v 0 16) := by
  simp [ringCq, hen, h]

/-! ### Reads of the CQ doorbell -/

/-- An aligned 4-byte read of BAR4 is the read of one doorbell, and changes nothing (R351, R463). -/
theorem busRead_doorbell {s : State} {x : Nat} (hup : endpointUp s = true) (halign : x % 4 = 0) :
    busRead (bar4 + x) 4 s = answer s (BitVec.ofNat 64 (doorbellRead s x).toNat) := by
  have haligned : (bar4 + x) % 4 = 0 := by unfold bar4; omega
  simp [busRead, hup, goodAccess, haligned, readAt]

/-- The CQ doorbell reads as CQ_HEAD in 16 bits. -/
theorem doorbellRead_cq {q : Nat} (hq : q < 8) (s : State) :
    (doorbellRead s (0x1000 * q + 4)).toNat = (queueOf s q).cqHead % 2 ^ 16 := by
  have hqueue : (0x1000 * q + 4) / 0x1000 = q := by omega
  have hoff : (0x1000 * q + 4) % 0x1000 = 4 := by omega
  have hword : doorbellRead s (0x1000 * q + 4) = place 32 0 16 (queueOf s q).cqHead := by
    simp [doorbellRead, hqueue, hoff, Nat.not_le.2 hq]
  rw [hword, place, BitVec.toNat_ofNat]
  omega

theorem busRead_cqDoorbell {s : State} {q : Nat} (hup : endpointUp s = true) (hq : q < 8) :
    busRead (bar4 + 0x1000 * q + 4) 4 s = answer s (BitVec.ofNat 64 ((queueOf s q).cqHead % 2 ^ 16)) := by
  rw [Nat.add_assoc, busRead_doorbell hup (by omega), doorbellRead_cq hq]

/-- Settles O57.  A CQ doorbell of an enabled queue is the write of CQ_HEAD or the discarded doorbell of bit 2 of DB_STAT, one
of a queue that is not enabled sets bit 3 alone, and a read of it is an answer alone. -/
theorem completionDoorbell : Obligations.CompletionDoorbell := by
  refine ⟨fun s q v _ hen hwithin => ?taken, fun s q v hq hen hbeyond => ?discarded, fun s q v _ hen => ?disabled,
    fun s q hup hq => ?read⟩
  case taken =>
    refine answers_of (congrArg finish (ringCq_within hen hwithin)) ⟨⟨by simp, fun r hr => ?_, by simp, by simp, by simp⟩, ?_⟩
    · simp [queueOf_putQueue, hr]
    · exact only_settle.2 (only_putQueue s q _)
  case discarded =>
    refine answers_of (congrArg finish (ringCq_beyond hen hbeyond)) ⟨?_, ?_, ?_, ?_⟩
    · rw [getReg_settle, getReg_badDoorbell hq]
      rfl
    · rw [settle_evl, evl_getLast?_badDoorbell]
    · exact onlyRegs_settle.2 (onlyRegs_badDoorbell s q 2 0x0082 _)
    · exact only_settle.2 (only_badDoorbell s q 2 0x0082 _)
  case disabled =>
    refine answers_of (congrArg finish (ringCq_disabled hen v)) ⟨?_, ?_, ?_⟩
    · rw [getReg_settle, getReg_dbStat]
      rfl
    · exact onlyRegs_settle.2 (onlyRegs_dbStat s q 3)
    · exact only_settle.2 (only_dbStat s q 3)
  case read =>
    refine answers_of (congrArg finish (busRead_cqDoorbell hup hq)) ⟨?_, ?_⟩
    · rw [settle_bus, answer_bus]
    · exact only_settle.2 (only_answer s _)

end Sys2Proof.Machine
end
